-- ==== Sys2Proof/Word.lean ====
section
/-! DEFINITION. The word types and the sparse table type that every layer uses. -/

namespace Sys2Proof

/-- A 32-bit word: a stack entry, a register, an engine address (spec 03 R61). -/
abbrev Word := BitVec 32

/-- A byte of memory. -/
abbrev Byte := BitVec 8

/-- A 64-bit word: a memory line, a sample record, ESC_TIME. -/
abbrev Word64 := BitVec 64

/-- The 72-bit accumulator Q (spec 04 R94). -/
abbrev Acc := BitVec 72

/-- A sparse table: keys strictly rising, and no entry equal to what its key reads as when unlisted. -/
abbrev Tab (α : Type) := List (Nat × α)

namespace Tab
variable {α : Type}

/-- What key `i` reads as; `d i` where the table does not list it. -/
def get (d : Nat → α) : Tab α → Nat → α
  | [], i => d i
  | (j, v) :: r, i => if j = i then v else if i < j then d i else get d r i

/-- The table without its leading entries at keys up to `i`. -/
def dropLe (i : Nat) : Tab α → Tab α
  | [] => []
  | (j, v) :: r => if j ≤ i then dropLe i r else (j, v) :: r

/-- Writes key `i`, keeping the canonical form; what the key reads as already changes nothing. -/
def set [DecidableEq α] (d : Nat → α) : Tab α → Nat → α → Tab α
  | [], i, v => if v = d i then [] else [(i, v)]
  | (j, w) :: r, i, v =>
    if i < j then (if v = d i then (j, w) :: r else (i, v) :: (j, w) :: r)
    else if j = i then (if v = w then (j, w) :: r else if v = d i then dropLe i r else (i, v) :: r)
    else (j, w) :: set d r i v

/-- The canonical form: keys strictly rising from `lo`, no default value listed. -/
def wfFrom [DecidableEq α] (d : Nat → α) : Nat → Tab α → Bool
  | _, [] => true
  | lo, (j, v) :: r => decide (lo ≤ j) && decide (v ≠ d j) && wfFrom d (j + 1) r

/-- The canonical form of a whole table. -/
def wf [DecidableEq α] (d : Nat → α) (t : Tab α) : Bool := wfFrom d 0 t

end Tab

end Sys2Proof
end

