-- ==== Sys2Proof/Syntax.lean ====
section
/-! DEFINITION. The commands of the block: one constructor per row of spec/opcode_table.json, in the table's order.
Engine instructions name the physical engine k = 9 t + e that executes them (spec 00 R7), then their own fields.
Resumable instructions carry `n`, how many elements run before the step ends (spec 02 R57). -/

namespace Sys2Proof

/-- How a host register write reached the AXI target port (spec 16 R412): `ok` for the one form that register space
accepts (single beat, 32 bits, aligned, all strobes), `prot1` for AxPROT[1]. -/
structure HAcc where
  ok : Bool := true
  prot1 : Bool := false
  deriving DecidableEq, Repr

/-- How a beat of a burst reached the AXI target port (spec 16 R412): `burstOk` for a burst that the memory windows accept, `reg` as
register space sees it. -/
structure WinAcc where
  burstOk : Bool := true
  reg : HAcc := {}
  deriving DecidableEq, Repr

/-- The four batches of the fusee (spec 03 R73). -/
inductive FuseeOp where
  | spillData | fillData | spillReturn | fillReturn
  deriving DecidableEq, Repr

/-- The three kinds of host event input (spec 16 R411). -/
inductive EvtLine where
  | irq | cap | tmr
  deriving DecidableEq, Repr

/-- The stores whose parity errors are fixed-SAFE sources (spec 12 R319). -/
inductive ParUnit where
  | escapement | remontoire | route | regulator
  deriving DecidableEq, Repr

/-- What the sweep's pattern test of a line found: it passed, a pattern did not read back, or a core access to the line
aborted it (spec 11 R297). The save read's ECC state is in the machine. -/
inductive SweepResult where
  | pass | mismatch | aborted
  deriving DecidableEq, Repr

/-- What a self-test found (spec 12 R336). -/
inductive TestResult where
  | pass | mismatch
  deriving DecidableEq, Repr

/-- The response of the memory initiator to a streamer chunk (spec 11 R305). -/
inductive ChunkResponse where
  | data (bytes : List Byte)
  | error
  deriving DecidableEq, Repr

/-- Where a shift takes its amount: an immediate (group 3) or T (group 4) (spec 05 R128). -/
inductive ShAmt where
  | imm (s : BitVec 5)
  | byT
  deriving DecidableEq, Repr

/-- One command of the block. -/
inductive Instr where
  -- literals and the constant pool (spec 05 R119)
  | lit (k : Nat) (s15 : BitVec 15)
  | litx (k : Nat) (u8 : BitVec 8)
  | ldk (k : Nat) (u8 : BitVec 8)
  -- group 0 (R121)
  | dup (k : Nat)
  | drop (k : Nat)
  | swap (k : Nat)
  | overS (k : Nat)
  | nip (k : Nat)
  | tuck (k : Nat)
  | rot (k : Nat)
  | minusRot (k : Nat)
  | twoDup (k : Nat)
  | twoDrop (k : Nat)
  | twoSwap (k : Nat)
  | twoOver (k : Nat)
  | toR (k : Nat)
  | rFrom (k : Nat)
  | rFetch (k : Nat)
  | rdrop (k : Nat)
  | pick (k : Nat) (x : BitVec 5)
  | poke (k : Nat) (x : BitVec 5)
  -- group 1 (R125)
  | add (k : Nat)
  | adc (k : Nat)
  | sub (k : Nat)
  | sbc (k : Nat)
  | rsub (k : Nat)
  | neg (k : Nat)
  | cmp (k : Nat)
  | tst (k : Nat)
  | and (k : Nat)
  | or (k : Nat)
  | xor (k : Nat)
  | andn (k : Nat)
  | not (k : Nat)
  | inc (k : Nat)
  | dec (k : Nat)
  | min (k : Nat)
  | max (k : Nat)
  | minu (k : Nat)
  | maxu (k : Nat)
  | abs (k : Nat)
  | sel (k : Nat)
  -- group 2 (R126)
  | adds (k : Nat)
  | subs (k : Nat)
  | negs (k : Nat)
  | abss (k : Nat)
  | clamp (k : Nat)
  | shls (k : Nat)
  -- groups 3 and 4 (R128)
  | shl (k : Nat) (a : ShAmt)
  | shr (k : Nat) (a : ShAmt)
  | sar (k : Nat) (a : ShAmt)
  | ror (k : Nat) (a : ShAmt)
  | sarr (k : Nat) (a : ShAmt)
  -- group 5 (R130)
  | mul (k : Nat)
  | mulh (k : Nat)
  | mulhu (k : Nat)
  | muld (k : Nat)
  | muldu (k : Nat)
  | mulfr (k : Nat)
  | divs (k : Nat) (n : Nat)
  | divu (k : Nat) (n : Nat)
  -- group 6 (R147)
  | mac (k : Nat)
  | msu (k : Nat)
  | mpy (k : Nat)
  | mack (k : Nat)
  | qclr (k : Nat)
  | qrd (k : Nat)
  | qrdc (k : Nat)
  | qsh (k : Nat)
  | qsat (k : Nat)
  | qldh (k : Nat)
  | qst (k : Nat)
  | qld (k : Nat)
  -- group 7 (R151)
  | xmac (k : Nat) (n : Nat)
  | xmsu (k : Nat) (n : Nat)
  | xmacr (k : Nat) (n : Nat)
  | xsig (k : Nat) (n : Nat)
  -- group 8 (R136)
  | bfx (k : Nat)
  | bfxs (k : Nat)
  | bfi (k : Nat)
  | clz (k : Nat)
  | cls (k : Nat)
  | popc (k : Nat)
  | brev (k : Nat)
  | perm (k : Nat)
  -- groups 9 to 12 (R107, R137, R138)
  | loadViaA (k : Nat) (an : BitVec 2) (width : BitVec 2) (sx : Bool) (upd : BitVec 3)
  | storeViaA (k : Nat) (an : BitVec 2) (width : BitVec 2) (upd : BitVec 3)
  | loadWithOffset (k : Nat) (an : BitVec 2) (u6 : BitVec 6)
  | storeWithOffset (k : Nat) (an : BitVec 2) (u6 : BitVec 6)
  -- group 15 (R144)
  | auxPush (k : Nat) (r : BitVec 3)
  | auxPop (k : Nat) (r : BitVec 3)
  | auxExchange (k : Nat) (r : BitVec 3)
  -- changes of flow (R154)
  | jmp (k : Nat) (s13 : BitVec 13)
  | bcc (k : Nat) (ccc : BitVec 3) (s10 : BitVec 10)
  | tz (k : Nat) (s10 : BitVec 10)
  | call (k : Nat) (m : BitVec 3) (s10 : BitVec 10)
  | callt (k : Nat) (m : BitVec 3)
  | jmpt (k : Nat)
  | ret (k : Nat)
  -- group 16 and 17 (R157, R168)
  | nop (k : Nat)
  | reti (k : Nat)
  | yield (k : Nat)
  | wait (k : Nat)
  | sync (k : Nat)
  | lock (k : Nat) (n : BitVec 4)
  | lockTrunc (k : Nat)
  | rep (k : Nat)
  | bkpt (k : Nat) (t : BitVec 4)
  | trap (k : Nat) (n : BitVec 8)
  -- CSR access and the rows that are CSR writes (R113, R114, R206, R341)
  | csrr (k : Nat) (n : BitVec 8)
  | csrw (k : Nat) (n : BitVec 8)
  | icinv (k : Nat)
  | mactRestart (k : Nat)
  | mactAbandon (k : Nat)
  | frec (k : Nat)
  | savem (k : Nat) (m : BitVec 8)
  | loadm (k : Nat) (m : BitVec 8)
  -- group 23 (R172)
  | move (k : Nat) (wid : BitVec 2) (dir : Bool) (n : Nat)
  | fill (k : Nat) (wid : BitVec 2) (dir : Bool) (n : Nat)
  -- group 24 (R177)
  | inl (k : Nat) (ch : BitVec 7)
  | inls (k : Nat) (ch : BitVec 7)
  -- group 25 (R181)
  | evtAck (k : Nat) (e : BitVec 5)
  | evtPend (k : Nat)
  | mbPost (k : Nat) (m : BitVec 5)
  | mbTake (k : Nat) (m : BitVec 5)
  | evtHost (k : Nat) (e : BitVec 5)
  -- engine-internal events
  | storeRetire (k : Nat)
  | fuseeBatch (k : Nat) (op : FuseeOp)
  | icacheFill (k : Nat) (addr : Word) (data : BitVec 256) (err : Bool)
  | boundaryLoadResponse (k : Nat) (data : Word64) (err : Bool)
  | boundaryStoreError (k : Nat)
  | berrLate (k : Nat)
  | eventEntry (k : Nat)
  | budget (k : Nat)
  | wdog (gen : Bool) (lctx : Nat)
  | terminalEntry (k : Nat)
  | stopRequest (k : Nat)
  | contextStop (k : Nat)
  | hang (k : Nat)
  -- escapement and remontoire
  | periodEvent (p : Nat)
  | deadbeatRelease (gen : Bool) (lctx : Nat)
  | releaseLate (k : Nat)
  | freeRelease (gen : Bool) (lctx : Nat)
  | eventRelease (t : Nat) (p : Nat)
  | commitTick (g : Nat)
  -- windway
  | sampleRecord (lane : Nat) (rec : Word64)
  | sampleMiss (ch : Nat)
  | select (c : Nat) (gain : BitVec 3) (filt : BitVec 3) (sch : BitVec 7) (input : BitVec 7) (tag : BitVec 8)
  | inject (c : Nat) (sch : BitVec 7) (input : BitVec 7) (tag : BitVec 8)
  | calibrate (c : Nat) (tag : BitVec 8)
  | cvcAccepted (c : Nat)
  | cvcDeferred (c : Nat)
  | cvcDone (c : Nat)
  | cvcError (c : Nat)
  | tripInput (n : Nat) (st : BitVec 2)
  | tripBlank (n : Nat) (level : Bool)
  | trpClr (hi : Bool) (v : Word) (a : HAcc)
  | hostEventInput (kind : EvtLine) (line : Nat)
  -- faults
  | fwForce (w : Nat) (v : Word) (a : HAcc)
  | chkf (v : Word) (a : HAcc)
  | configIntegError (w : Nat)
  | parityError (u : ParUnit)
  | quenchClose (i : Nat)
  -- tourbillon
  | substitutionHandover (t : Nat)
  | rotationStep (t : Nat)
  | migration (t : Nat) (gen : Bool) (lctx : Nat)
  | rotLate (t : Nat)
  | testComplete (k : Nat) (r : TestResult)
  | retest (t : Nat) (v : Word) (a : HAcc)
  | standbyTest (k : Nat)
  -- rails
  | paceWindow (t : Nat) (n : Nat) (n2 : Nat)
  | vblkLow (mv : Nat)
  | railOor (t : Nat) (mv : Nat)
  | retOor
  | refclkLoss
  -- sweep and streamer
  | sweepLine (t : Nat) (area : BitVec 5) (line : Nat) (r : SweepResult)
  | eccChk (t : Nat) (area : BitVec 5) (bank : Nat) (ok : Bool)
  | strCmd (t : Nat) (v : Word) (a : HAcc)
  | streamerChunk (t : Nat) (q : Nat) (r : ChunkResponse)
  | strQstop (t : Nat) (v : Word) (a : HAcc)
  -- reset, power, lifecycle
  | tamper
  | sealWipe
  | powerOn (mv : Nat)
  | blockReset
  | retentionEntry (a : HAcc)
  | retained
  | retentionWake (a : HAcc)
  | wakeComplete
  | progKey (unlock : BitVec 16) (a : HAcc)
  | toDevelop (unlock : BitVec 16) (a : HAcc)
  | toSecured (unlock : BitVec 16) (a : HAcc)
  | toReturned (unlock : BitVec 16) (token : List Byte) (a : HAcc)
  | toScrapped (unlock : BitVec 16) (a : HAcc)
  | fuseProgrammed (time : Word64)
  -- regulator
  | check (a : HAcc)
  | load (slot : Bool) (a : HAcc)
  | abort (a : HAcc)
  | discard (slot : Bool) (a : HAcc)
  | start (slot : Bool) (a : HAcc)
  | admission (img : List Byte) (err : Option Nat)
  | serviceTick
  -- live upgrade
  | switch (set : BitVec 6) (a : HAcc)
  | revert (set : BitVec 6) (a : HAcc)
  | cancel (a : HAcc)
  | complete (a : HAcc)
  | setSwitch
  -- host registers with rows of their own
  | rmtGstatEsc (g : Nat) (a : HAcc)
  | dialSel (n : Nat) (v : Word) (a : HAcc)
  | dialSeq (n : Nat)
  | fwCap (w : Nat)
  | fwCnt (w : Nat)
  | swpStat (t : Nat)
  | escLate
  | blwPace (t : Nat)
  | dbgSkiprel (k : Nat)
  | trcRdata
  | lnkCtl (v : Word) (a : HAcc)
  | hostRegWrite (off : Nat) (v : Word) (a : HAcc)
  | hostWindowAccess (off : Nat) (wr : Bool) (strb : BitVec 16) (data : BitVec 128) (a : WinAcc) (size : Nat)
  | hostWindowTimeout
  -- debug, trace
  | idcode
  | bypass
  | daddr (v : BitVec 34)
  | ddata (v : BitVec 34)
  | debugAccessDone (timeout : Bool)
  | tapReset
  | halt (k : Nat) (a : HAcc)
  | haltTake (k : Nat)
  | resume (k : Nat) (a : HAcc)
  | step (k : Nat) (a : HAcc)
  | stim (p : Nat) (v : Word) (a : HAcc)
  | traceSync
  -- link
  | linkTxFrame
  | linkRxFrame (words : List Word64)
  | lnkLoss
  -- the table's last rows
  | boundaryStoreResponse (k : Nat)
  | undefinedEncoding (k : Nat) (w : BitVec 16)
  | resetRelease (time : Word64)
  | powerOnResetHold (mv : Nat)
  | masterCopyLoad (t : Nat)
  | tracePortDrain
  deriving DecidableEq, Repr

end Sys2Proof
end

