-- ==== Sys2Proof/Decode.lean ====
section
/-! DEFINITION. The commands that words spell: none of the table's bits, for the table of this block gives no row any, and the 16-bit
words of the engines (spec 04 R103-R110), each an engine's row. -/

namespace Sys2Proof

/-- The command of a word. No row of spec/opcode_table.json gives bits: none. -/
def decodeTableWord (_nbits _w : Nat) : Option Instr := none

/-! ### The engines' instruction words (spec 04 R103) -/

/-- The commands that the function codes from `base` on name. -/
def codes (base : Nat) (l : List Instr) (f : Nat) : Option Instr := if f < base then none else l[f - base]?

/-- Group 0 by its function code (spec 05 R121): none where no code is listed. -/
def stackCommand (k : Nat) (f : BitVec 8) : Option Instr :=
  match f.toNat / 32 with
  | 0 => codes 0 [.dup k, .drop k, .swap k, .overS k, .nip k, .tuck k, .rot k, .minusRot k, .twoDup k, .twoDrop k, .twoSwap k,
      .twoOver k] f.toNat <|> codes 0x10 [.toR k, .rFrom k, .rFetch k, .rdrop k] f.toNat
  | 1 => some (.pick k (f.extractLsb' 0 5))
  | 2 => some (.poke k (f.extractLsb' 0 5))
  | _ => none

/-- Group 1 by its function code (05 R125). -/
def aluCommand (k f : Nat) : Option Instr :=
  codes 0 [.add k, .adc k, .sub k, .sbc k, .rsub k, .neg k, .cmp k, .tst k, .and k, .or k, .xor k, .andn k, .not k, .inc k, .dec k] f <|>
    codes 16 [.min k, .max k, .minu k, .maxu k, .abs k, .sel k] f

/-- The shift kinds of groups 3 and 4 (05 R128). -/
def shiftCommand (k : Nat) (f : BitVec 8) (a : ShAmt) : Option Instr :=
  codes 0 [.shl k a, .shr k a, .sar k a, .ror k a, .sarr k a] (f.toNat / 32)

/-- Group 16 by function and argument (06 R157, 04 R110). -/
def ctrlCommand (k : Nat) (f : BitVec 8) : Option Instr :=
  let x := f.extractLsb' 0 4
  match f.toNat / 16 with
  | 6 => if x = 0 ∨ 8 < x.toNat then none else some (.lock k x)
  | 8 => some (.bkpt k x)
  | g => if x = 0 then
      codes 0 [.nop k, .ret k, .reti k, .yield k, .wait k, .sync k] g <|> codes 7 [.rep k] g else none

/-- Group 25 by function and argument (06 R181). -/
def evtCommand (k : Nat) (f : BitVec 8) : Option Instr :=
  let x := f.extractLsb' 0 5
  match f.toNat / 32 with
  | 0 => some (.evtAck k x)
  | 1 => if x = 0 then some (.evtPend k) else none
  | 2 => some (.mbPost k x)
  | 3 => some (.mbTake k x)
  | 4 => some (.evtHost k x)
  | _ => none

/-- The general format: the command of group and operand (04 R106-R108), none for an undefined encoding (R110). An instruction of many
elements runs `n` of them. -/
def generalCommand (k n g : Nat) (f : BitVec 8) : Option Instr :=
  let an := f.extractLsb' 6 2
  let wd := f.extractLsb' 4 2
  let upd := f.extractLsb' 0 3
  let code := f.toNat
  match g with
  | 0 => stackCommand k f
  | 1 => aluCommand k code
  | 2 => codes 0 [.adds k, .subs k, .negs k, .abss k, .clamp k, .shls k] code
  | 3 => shiftCommand k f (.imm (f.extractLsb' 0 5))
  | 4 => if f.extractLsb' 0 5 = 0 then shiftCommand k f .byT else none
  | 5 => codes 0 [.mul k, .mulh k, .mulhu k, .muld k, .muldu k, .mulfr k] code <|> codes 8 [.divs k n, .divu k n] code
  | 6 => codes 0 [.mac k, .msu k, .mpy k, .mack k, .qclr k] code <|>
      codes 8 [.qrd k, .qrdc k, .qsh k, .qsat k, .qldh k, .qst k, .qld k] code
  | 7 => codes 0 [.xmac k n, .xmsu k n, .xmacr k n, .xsig k n] code
  | 8 => codes 0 [.bfx k, .bfxs k, .bfi k, .clz k, .cls k, .popc k, .brev k, .perm k] code
  | 9 => if 4 < upd.toNat ∨ f.getLsbD 3 = true ∧ 2 ≤ wd.toNat then none else some (.loadViaA k an wd (f.getLsbD 3) upd)
  | 10 => if 4 < upd.toNat ∨ f.getLsbD 3 = true then none else some (.storeViaA k an wd upd)
  | 11 => some (.loadWithOffset k an (f.extractLsb' 0 6))
  | 12 => some (.storeWithOffset k an (f.extractLsb' 0 6))
  | 13 => some (.ldk k f)
  | 14 => some (.litx k f)
  | 15 => if f.extractLsb' 3 3 = 0 then codes 0 [.auxPush k upd, .auxPop k upd, .auxExchange k upd] an.toNat else none
  | 16 => ctrlCommand k f
  | 17 => some (.trap k f)
  | 18 => some (.csrr k f)
  | 19 => some (.csrw k f)
  | 20 => some (.savem k f)
  | 21 => some (.loadm k f)
  | 22 => if f.toNat < 8 then some (.callt k upd) else if f = 0x80 then some (.jmpt k) else none
  | 23 => if f.extractLsb' 0 4 = 0 then
      some (if f.msb then .fill k (f.extractLsb' 5 2) (f.getLsbD 4) n else .move k (f.extractLsb' 5 2) (f.getLsbD 4) n) else none
  | 24 => some (if f.msb then .inls k (f.extractLsb' 0 7) else .inl k (f.extractLsb' 0 7))
  | 25 => evtCommand k f
  | _ => none

/-- The row that instruction word `w` is on engine `k` (04 R103): the format by bits [15:13], then the fields of the format; an
undefined encoding is UNDEFINED_ENCODING of that word (R110). -/
def wordCommand (k n : Nat) (w : BitVec 16) : Instr :=
  if w.msb then .lit k (w.extractLsb' 0 15)
  else match (w.extractLsb' 13 2).toNat with
    | 0 => .jmp k (w.extractLsb' 0 13)
    | 1 => if w.extractLsb' 10 3 = 7 then .tz k (w.extractLsb' 0 10) else .bcc k (w.extractLsb' 10 3) (w.extractLsb' 0 10)
    | 2 => .call k (w.extractLsb' 10 3) (w.extractLsb' 0 10)
    | _ => (generalCommand k n (w.extractLsb' 8 5).toNat (w.extractLsb' 0 8)).getD (.undefinedEncoding k w)

end Sys2Proof
end

