-- ==== Sys2Proof/Machine/Flags.lean ====
section
/-! DEFINITION. Results and flags of the arithmetic instructions (spec 04 R92-R97, 05 R117-R136, 06 R147-R148). -/

namespace Sys2Proof.Machine

/-- FL as five flags (spec 04 R92). -/
structure Fl where
  s : Bool
  n : Bool
  z : Bool
  c : Bool
  v : Bool
  deriving DecidableEq, Repr

/-- FL read from its word. -/
def Fl.ofWord (w : Word) : Fl :=
  { s := w.getLsbD 4, n := w.getLsbD 3, z := w.getLsbD 2, c := w.getLsbD 1, v := w.getLsbD 0 }

/-- FL as its word, reserved bits zero. -/
def Fl.toWord (f : Fl) : Word :=
  BitVec.ofNat 32 (f.s.toNat * 16 + f.n.toNat * 8 + f.z.toNat * 4 + f.c.toNat * 2 + f.v.toNat)

/-- Z and N of a 32-bit result (spec 05 R117). -/
def Fl.zn (f : Fl) (r : Word) : Fl := { f with z := r == 0, n := r.msb }

/-- MODE fields (spec 04 R93). -/
structure Md where
  rnd : Nat
  sat : Bool
  fmt : Bool
  deriving DecidableEq, Repr

/-- MODE read from its word. -/
def Md.ofWord (w : Word) : Md := { rnd := w.toNat % 4, sat := w.getLsbD 2, fmt := w.getLsbD 3 }

/-- An instruction's results, bottom first, and the flags it leaves. -/
structure AluOut where
  res : List Word
  fl : Fl
  deriving DecidableEq, Repr

/-- Sum of `a`, `b` and a carry with the flags of addition-type results (spec 05 R124). -/
def addFl (f : Fl) (a b : Word) (cin : Bool) : Word × Fl :=
  let r := a + b + BitVec.ofNat 32 cin.toNat
  (r, { f.zn r with
    c := decide (2 ^ 32 ≤ a.toNat + b.toNat + cin.toNat)
    v := decide (r.toInt ≠ a.toInt + b.toInt + cin.toNat) })

/-- a + ~b + cin with the flags of subtraction-type results (spec 05 R124). -/
def subFl (f : Fl) (a b : Word) (cin : Bool) : Word × Fl :=
  let r := a + ~~~b + BitVec.ofNat 32 cin.toNat
  (r, { f.zn r with
    c := decide (2 ^ 32 ≤ a.toNat + (~~~b).toNat + cin.toNat)
    v := decide (r.toInt ≠ a.toInt - b.toInt - 1 + cin.toNat) })

/-- Group 1 operations (spec 05 R125). -/
inductive AluOp where
  | add | adc | sub | sbc | rsub | neg | cmp | tst | and | or | xor | andn | not | inc | dec
  | min | max | minu | maxu | abs | sel
  deriving DecidableEq, Repr

/-- How many entries a group 1 operation takes (spec 05 R125). -/
def AluOp.arity : AluOp → Nat
  | .neg | .tst | .not | .inc | .dec | .abs => 1
  | .sel => 3
  | _ => 2

/-- How many entries a group 1 operation leaves (spec 05 R125). -/
def AluOp.results : AluOp → Nat
  | .cmp => 0
  | _ => 1

/-- Group 1 results on operands listed top first (spec 05 R125). -/
def AluOp.eval (op : AluOp) (f : Fl) (x : List Word) : AluOut :=
  let t := x.getD 0 0
  let n := x.getD 1 0
  let one (p : Word × Fl) : AluOut := { res := [p.1], fl := p.2 }
  let zn (r : Word) : AluOut := { res := [r], fl := f.zn r }
  match op with
  | .add => one (addFl f n t false)
  | .adc => one (addFl f n t f.c)
  | .sub => one (subFl f n t true)
  | .sbc => one (subFl f n t f.c)
  | .rsub => one (subFl f t n true)
  | .neg => one (subFl f 0 t true)
  | .cmp => { res := [], fl := (subFl f n t true).2 }
  | .tst => { res := [t], fl := { f.zn t with c := false, v := false } }
  | .and => zn (n &&& t)
  | .or => zn (n ||| t)
  | .xor => zn (n ^^^ t)
  | .andn => zn (n &&& ~~~t)
  | .not => zn (~~~t)
  | .inc => one (addFl f t 1 false)
  | .dec => one (subFl f t 1 true)
  | .min => zn (if n.toInt ≤ t.toInt then n else t)
  | .max => zn (if t.toInt ≤ n.toInt then n else t)
  | .minu => zn (if n.toNat ≤ t.toNat then n else t)
  | .maxu => zn (if t.toNat ≤ n.toNat then n else t)
  | .abs =>
    let r := if t.msb then -t else t
    { res := [r], fl := { f.zn r with v := t == 0x80000000 } }
  | .sel => { res := [if t = 0 then x.getD 2 0 else n], fl := f }

/-- An exact value clamped to a signed width, and whether it moved. -/
def clampTo (w : Nat) (v : Int) : Int × Bool :=
  let hi : Int := 2 ^ (w - 1) - 1
  let lo : Int := -(2 ^ (w - 1))
  if hi < v then (hi, true) else if v < lo then (lo, true) else (v, false)

/-- Group 2 operations (spec 05 R126). -/
inductive SatOp where
  | adds | subs | negs | abss | clamp | shls
  deriving DecidableEq, Repr

/-- How many entries a group 2 operation takes (spec 05 R126). -/
def SatOp.arity : SatOp → Nat
  | .negs | .abss => 1
  | .clamp => 3
  | _ => 2

/-- The signed high and low 16-bit lanes of a word (spec 04 R95). -/
def laneHi (x : Word) : Int := (x.extractLsb' 16 16).toInt
/-- See `laneHi`. -/
def laneLo (x : Word) : Int := (x.extractLsb' 0 16).toInt

/-- One value or lane of a group 2 operation: the result and whether it clamped; `s` is the shift amount (R126, R127). -/
def SatOp.lane (op : SatOp) (w : Nat) (s : Nat) (c b a : Int) : Int × Bool :=
  match op with
  | .adds => clampTo w (b + a)
  | .subs => clampTo w (b - a)
  | .negs => clampTo w (-a)
  | .abss => clampTo w a.natAbs
  | .clamp => let y := Min.min (Max.max c b) a; (y, y ≠ c)
  | .shls => clampTo w (b * 2 ^ s)

/-- Group 2 results on operands listed top first (spec 05 R126, R127, 04 R95). -/
def SatOp.eval (op : SatOp) (m : Md) (f : Fl) (x : List Word) : AluOut :=
  let a := x.getD 0 0
  let b := x.getD 1 0
  let c := x.getD 2 0
  if m.fmt then
    let s := a.toNat % 16
    let h := op.lane 16 s (laneHi c) (laneHi b) (laneHi a)
    let l := op.lane 16 s (laneLo c) (laneLo b) (laneLo a)
    let r : Word := (BitVec.ofInt 16 h.1) ++ (BitVec.ofInt 16 l.1)
    { res := [r], fl := { s := f.s || h.2 || l.2, n := r.msb, z := r == 0, c := false, v := false } }
  else
    let o := op.lane 32 (a.toNat % 32) c.toInt b.toInt a.toInt
    let r := BitVec.ofInt 32 o.1
    { res := [r], fl := { s := f.s || o.2, n := r.msb, z := r == 0, c := false, v := false } }

/-- The exact value `v / 2^k` rounded by MODE.RND (spec 04 R96). -/
def roundShift (rnd : Nat) (v : Int) (k : Nat) : Int :=
  let d : Int := 2 ^ k
  let q := v / d
  let r := v % d
  match rnd with
  | 0 => q
  | 1 => if d ≤ 2 * r then q + 1 else q
  | 2 => if d < 2 * r then q + 1 else if 2 * r = d then (if q % 2 = 0 then q else q + 1) else q
  | _ => if r = 0 then q else if q % 2 = 0 then q + 1 else q

/-- Shift kinds (spec 05 R128). -/
inductive ShOp where
  | shl | shr | sar | ror | sarr
  deriving DecidableEq, Repr

/-- The kind code of a shift (spec 05 R128). -/
def ShOp.code : ShOp → Nat
  | .shl => 0 | .shr => 1 | .sar => 2 | .ror => 3 | .sarr => 4

/-- Last bit that `s` single-bit right shifts of `a` bring out, the sign filling for an arithmetic shift (R129). -/
def lastOutRight (a : Word) (s : Nat) (sign : Bool) : Bool :=
  if s = 0 then false else if s ≤ 32 then a.getLsbD (s - 1) else sign

/-- Shift results for any amount (spec 05 R128, R129). -/
def ShOp.eval (op : ShOp) (m : Md) (f : Fl) (a : Word) (s : Nat) : AluOut :=
  let rc : Word × Bool := match op with
    | .shl => (if 32 ≤ s then 0 else a <<< s, if s = 0 then false else if s ≤ 32 then a.getLsbD (32 - s) else false)
    | .shr => (if 32 ≤ s then 0 else a >>> s, lastOutRight a s false)
    | .sar => (a.sshiftRight (Min.min s 32), lastOutRight a s a.msb)
    | .ror => let r := a.rotateRight (s % 32); (r, if s % 32 = 0 then false else r.msb)
    | .sarr => (BitVec.ofInt 32 (roundShift m.rnd a.toInt (Min.min s 64)), lastOutRight a s a.msb)
  { res := [rc.1], fl := { f.zn rc.1 with c := rc.2 } }

/-- Group 5 multiplies (spec 05 R130). -/
inductive MulOp where
  | mul | mulh | mulhu | muld | muldu | mulfr
  deriving DecidableEq, Repr

/-- How many entries a multiply leaves (spec 05 R130). -/
def MulOp.results : MulOp → Nat
  | .muld | .muldu => 2
  | _ => 1

/-- Group 5 multiply results on N = `n` and T = `t` (spec 05 R130). -/
def MulOp.eval (op : MulOp) (m : Md) (f : Fl) (n t : Word) : AluOut :=
  let sp : Int := n.toInt * t.toInt
  let up : Int := n.toNat * t.toNat
  let wide (p : Int) : AluOut :=
    let q := BitVec.ofInt 64 p
    { res := [q.extractLsb' 0 32, q.extractLsb' 32 32], fl := { f with z := q == 0, n := q.msb } }
  match op with
  | .mul =>
    let r := BitVec.ofInt 32 sp
    { res := [r], fl := { f.zn r with c := false, v := decide (r.toInt ≠ sp) } }
  | .mulh => let r := (BitVec.ofInt 64 sp).extractLsb' 32 32; { res := [r], fl := f.zn r }
  | .mulhu => let r := (BitVec.ofInt 64 up).extractLsb' 32 32; { res := [r], fl := f.zn r }
  | .muld => wide sp
  | .muldu => wide up
  | .mulfr =>
    let o := clampTo 32 (roundShift m.rnd sp 31)
    let r := BitVec.ofInt 32 o.1
    { res := [r], fl := { f.zn r with s := f.s || o.2 } }

/-- Group 8 operations (spec 05 R136). -/
inductive BitOp where
  | bfx | bfxs | bfi | clz | cls | popc | brev | perm
  deriving DecidableEq, Repr

/-- How many entries a group 8 operation takes (spec 05 R136). -/
def BitOp.arity : BitOp → Nat
  | .clz | .cls | .popc | .brev => 1
  | .bfi => 3
  | _ => 2

/-- Position and width of a field specifier, cut at bit 31 (spec 05 R135). -/
def fieldOf (spec : Word) : Nat × Nat :=
  let l := spec.toNat % 32
  (l, Min.min (Min.min ((spec.toNat / 256) % 64) 32) (32 - l))

/-- Bits of `a` below bit `n` counted from the top while they equal `b`. -/
def countLead (a : Word) (b : Bool) : Nat → Nat
  | 0 => 0
  | n + 1 => if a.getLsbD n = b then countLead a b n + 1 else 0

/-- Set bits among the lowest `n` bits. -/
def popCount (a : Word) : Nat → Nat
  | 0 => 0
  | n + 1 => (a.getLsbD n).toNat + popCount a n

/-- Bit reversal (spec 05 R136). -/
def bitRev (a : Word) : Word :=
  (List.range 32).foldl (fun r i => if a.getLsbD (31 - i) then r ||| (1#32 <<< i) else r) 0

/-- Byte permutation (spec 05 R136). -/
def bytePerm (a sel : Word) : Word :=
  (List.range 4).foldl (fun r i =>
    r ||| (((a >>> (8 * ((sel.toNat / 4 ^ i) % 4))) &&& 0xFF) <<< (8 * i))) 0

/-- Group 8 results on operands listed top first (spec 05 R135, R136). -/
def BitOp.eval (op : BitOp) (f : Fl) (x : List Word) : AluOut :=
  let t := x.getD 0 0
  let n := x.getD 1 0
  let m := x.getD 2 0
  let lw := fieldOf t
  let mask (w : Nat) : Word := BitVec.ofNat 32 (2 ^ w - 1)
  let r : Word := match op with
    | .bfx => (n >>> lw.1) &&& mask lw.2
    | .bfxs =>
      let v := (n >>> lw.1) &&& mask lw.2
      if lw.2 ≠ 0 ∧ v.getLsbD (lw.2 - 1) then v ||| ~~~(mask lw.2) else v
    | .bfi => (m &&& ~~~(mask lw.2 <<< lw.1)) ||| ((n &&& mask lw.2) <<< lw.1)
    | .clz => BitVec.ofNat 32 (countLead t false 32)
    | .cls => BitVec.ofNat 32 (countLead t t.msb 31)
    | .popc => BitVec.ofNat 32 (popCount t 32)
    | .brev => bitRev t
    | .perm => bytePerm n t
  { res := [r], fl := f.zn r }

/-- The product term P(a, b), aligned to Q (spec 04 R95, 06 R147). -/
def prodTerm (m : Md) (a b : Word) : Int :=
  if m.fmt then (laneHi a * laneHi b + laneLo a * laneLo b) * 2 ^ 33 else a.toInt * b.toInt * 2

/-- An exact sum stored in Q under MODE.SAT, and whether it clamped (spec 04 R97). -/
def storeQ (m : Md) (v : Int) : Acc × Bool :=
  if m.sat then let o := clampTo 72 v; (BitVec.ofInt 72 o.1, o.2) else (BitVec.ofInt 72 v, false)

/-- The transfer of Q: the result word and whether it clamped (spec 04 R95-R97). -/
def transferQ (m : Md) (q : Acc) : Word × Bool :=
  let k := if m.fmt then 48 else 32
  let w := if m.fmt then 16 else 32
  let v := roundShift m.rnd q.toInt k
  let o := if m.sat then clampTo w v else (v, false)
  if m.fmt then ((BitVec.ofInt 16 o.1).signExtend 32, o.2) else (BitVec.ofInt 32 o.1, o.2)

/-- QSH by a signed amount (spec 06 R148). -/
def shiftQ (m : Md) (q : Acc) (s : Int) : Acc × Bool :=
  if 0 ≤ s then storeQ m (q.toInt * 2 ^ (Min.min s.toNat 72))
  else (BitVec.ofInt 72 (roundShift m.rnd q.toInt (Min.min (-s).toNat 72)), false)

/-- Bit length, with bitlen(0) = 0 (spec 05 R131). -/
def bitLen (m : Word) : Nat := 32 - countLead m false 32

/-- Progress of a division: remainder magnitude A0, quotient magnitude A1 and bits still to develop (spec 05 R131). -/
structure DivProg where
  a0 : Word
  a1 : Word
  c : Nat
  deriving DecidableEq, Repr

/-- Dividend and divisor magnitudes M and D (spec 05 R131). -/
def divMag (signed : Bool) (n d : Word) : Word × Word :=
  if signed then (BitVec.ofNat 32 n.toInt.natAbs, BitVec.ofNat 32 d.toInt.natAbs) else (n, d)

/-- The starting progress (spec 05 R131). -/
def divInit (deadbeat : Bool) (m d : Word) : DivProg :=
  let c := if deadbeat then 32 else bitLen m + 1 - bitLen d
  { a0 := if 32 ≤ c then 0 else m >>> c, a1 := 0, c := c }

/-- One quotient bit (spec 05 R131); A0 may be 33 bits wide inside the step. -/
def divBit (m d : Word) (p : DivProg) : DivProg :=
  let c := p.c - 1
  let a := p.a0.toNat * 2 + (m.getLsbD c).toNat
  if d.toNat ≤ a then { a0 := BitVec.ofNat 32 (a - d.toNat), a1 := (p.a1 <<< 1) ||| 1, c := c }
  else { a0 := BitVec.ofNat 32 a, a1 := p.a1 <<< 1, c := c }

/-- Up to `n` quotient bits, ending when none is left. -/
def divRun (m d : Word) : Nat → DivProg → DivProg
  | 0, p => p
  | n + 1, p => if p.c = 0 then p else divRun m d n (divBit m d p)

/-- Remainder, quotient and flags of a finished division (spec 05 R130-R132). -/
def divFinish (signed : Bool) (f : Fl) (n d : Word) (p : DivProg) : AluOut :=
  let q := if signed ∧ n.msb ≠ d.msb then -p.a1 else p.a1
  let r := if signed ∧ n.msb then -p.a0 else p.a0
  { res := [r, q]
    fl := { f.zn q with c := false, v := signed && (n == 0x80000000 && d == 0xFFFFFFFF) } }

end Sys2Proof.Machine
end

