-- ==== Sys2Proof/Config.lean ====
section
/-! DEFINITION. What the hardware fixes and the spec leaves open: free values without a body (log entries 6, 8, 11, 13). -/

namespace Sys2Proof.Config

/-- The value that a 32-bit quantity takes where the spec states none: draw number `n` of the free values (log entry 8). -/
opaque freeWord : Nat → Word

/-- The lifecycle challenge drawn at draw number `n` (spec 15 R395, R398; log entry 6). -/
opaque challenge : Nat → Word64

/-- Whether host converter unit `c` is a sigma-delta unit: fixed by the host (spec 10 R261, R273; log entry 13). -/
opaque sigmaDelta : Nat → Bool

/-- The JEDEC identity code that the integrator ties to `tap_mfr` (spec 14 R363; log entry 13). -/
opaque tapMfr : BitVec 11

end Sys2Proof.Config
end

