-- ==== Sys2Proof/Machine/ImageTypes.lean ====
section
/-! DEFINITION. A movement image as the regulator decodes it (spec 08 R211-R228, 09 R248, 11 R302, 12 R329, 13 R347).
`ofs` is the byte offset of an entry from the image start, which RGL_PTR reports (R232). -/

namespace Sys2Proof.Machine

/-- The 64-byte header (spec 08 R211). -/
structure Header where
  fmtVer : Nat := 1
  nsect : Nat := 0
  imgLen : Nat := 0
  variant : Nat := 0
  trains : Nat := 0
  isaVer : Nat := 1
  flags : Nat := 0
  name : Nat := 0
  gen : Nat := 0
  layoutGen : Nat := 0
  paceFloor : Nat := 620
  margin : Nat := 100
  bndBase : Nat := 0
  startTime : Nat := 0
  tagKind : Nat := 0
  crc : Nat := 0
  deriving DecidableEq, Repr

/-- One directory entry (spec 08 R212). -/
structure Section where
  typ : Nat
  ofs : Nat
  len : Nat
  count : Nat
  deriving DecidableEq, Repr

/-- CODE entry (spec 08 R214). -/
structure CodeE where
  ofs : Nat
  train : Nat
  pos : Nat
  tm : Bool
  addr : Nat
  bytes : List Byte
  deriving DecidableEq, Repr

/-- CONTEXTS entry (spec 08 R215); `aux` lists the eight auxiliary registers (zero where no value is given). -/
structure CtxE where
  ofs : Nat
  lctx : Nat
  train : Nat
  pos : Nat
  slot : Nat
  db : Bool
  world : Bool
  home : BitVec 2
  template : Bool
  event : Bool
  pdepth : Nat
  ebudget : Nat
  entry : Word
  restart : Word
  kbase : Word
  vbase : Word
  dspill : Word
  rspill : Word
  evmask : Word
  evctl : Word
  evlat : Nat
  initMask : BitVec 8
  aux : List Word
  qinit : Bool
  q : Acc
  pers : List Word
  carry : Nat
  groups : BitVec 64
  axgrp : Nat
  deriving DecidableEq, Repr

/-- One slot-table entry (spec 08 R219): kind 0 DEADBEAT, 1 FREE, 2 EVENT, 3 reserved. -/
structure SlotEnt where
  start : Nat
  kind : Nat
  lctx : Nat
  budget : Nat
  ofs : Nat := 0
  deriving DecidableEq, Repr

/-- SLOTS table (spec 08 R219). -/
structure TableE where
  ofs : Nat
  train : Nat
  pos : Nat
  pg : Nat
  entries : List SlotEnt
  deriving DecidableEq, Repr

/-- WAKESETS entry (spec 08 R223), unused places left out. -/
structure WakeE where
  ofs : Nat
  members : List Nat
  deriving DecidableEq, Repr

/-- PERIODS entry (spec 08 R218). -/
structure PeriodE where
  ofs : Nat
  period : Nat
  phase : Nat
  hostev : Bool
  deriving DecidableEq, Repr

/-- CERT entry (spec 08 R217). -/
structure CertE where
  ofs : Nat
  lctx : Nat
  d : Nat
  r : Nat
  beats : Nat
  sch : BitVec 128
  deriving DecidableEq, Repr

/-- MACHINE entry (spec 08 R216). -/
structure MachE where
  ofs : Nat
  train : Nat
  pos : Nat
  md : Nat
  mr : Nat
  mhb : Nat
  mvbase : Word
  spillRgn : Word
  master : Nat
  mlen : Nat
  digest : List Byte
  deriving DecidableEq, Repr

/-- ROUTES entry (spec 08 R225): kind 0 sample, 1 outlet, 2 converter command, 3 trip. -/
structure RouteE where
  ofs : Nat
  kind : Nat
  world : Bool
  chan : Nat
  trains : Nat
  pg : Nat
  owner : Nat
  arrive : Nat
  group : Nat
  deriving DecidableEq, Repr

/-- GROUPS entry (spec 08 R226); `safe` lists the safe values in ascending channel order. -/
structure GroupE where
  ofs : Nat
  group : Nat
  policy : Nat
  tripguard : Bool
  world : Bool
  template : Bool
  pg : Nat
  commit : Nat
  safe : List Word
  deriving DecidableEq, Repr

/-- CARRY entry (spec 09 R248); `lctx` = 0xFFFF marks an area entry. -/
structure CarryE where
  ofs : Nat
  lctx : Nat
  train : Nat
  npers : Nat
  offset : Nat
  length : Nat
  auxmap : BitVec 8
  qmap : Bool
  deriving DecidableEq, Repr

/-- EVENTS source entry (spec 08 R227): kind 0 generator, 1 mailbox, 2 host line, 3 capture, 4 trip call, 5 timer. -/
structure SourceE where
  ofs : Nat
  lctx : Nat
  bit : Nat
  kind : Nat
  index : Nat
  deriving DecidableEq, Repr

/-- EVENTS mailbox entry (spec 08 R227). -/
structure MboxE where
  ofs : Nat
  train : Nat
  mb : Nat
  appToSafe : Bool
  world : Bool
  receiver : Nat
  senders : List Nat
  deriving DecidableEq, Repr

/-- QUEUES entry (spec 11 R302). -/
structure QueueE where
  ofs : Nat
  train : Nat
  qnum : Nat
  base : Nat
  size : Nat
  maxreq : Nat
  deriving DecidableEq, Repr

/-- FAULTS entry (spec 12 R329). -/
inductive FaultE where
  | severity (ofs src win sev : Nat) (en : Bool)
  | watchdog (ofs lctx interval : Nat)
  | pair (ofs group tol checker : Nat)
  deriving DecidableEq, Repr

/-- BRIDGE entry (spec 13 R347); `newer` is SIDE, `rev` is DIR. -/
inductive BridgeE where
  | header (ofs srcLg dstLg : Nat)
  | member (ofs set : Nat) (newer : Bool) (lctx : Nat)
  | map (ofs set : Nat) (rev : Bool) (count srcLctx srcWord dstLctx dstWord : Nat)
  deriving DecidableEq, Repr

/-- A decoded movement image. -/
structure Image where
  hdr : Header := {}
  code : List CodeE := []
  ctxs : List CtxE := []
  tables : List TableE := []
  wakes : List WakeE := []
  periods : List PeriodE := []
  certs : List CertE := []
  machs : List MachE := []
  routes : List RouteE := []
  groups : List GroupE := []
  carries : List CarryE := []
  sources : List SourceE := []
  mboxes : List MboxE := []
  queues : List QueueE := []
  faults : List FaultE := []
  bridges : List BridgeE := []
  deriving DecidableEq, Repr

end Sys2Proof.Machine
end

