-- ==== Sys2Proof/Machine/State.lean ====
section
/-! DEFINITION. The state of the block as plain data, its reset, and the reasons a step can stop. -/

namespace Sys2Proof.Machine

/-- Why a step stops with a fault. -/
inductive Fault where
  /-- Raised by any command that names an engine, train, position, channel, group or window that the variant or the
  manual's numbering does not have (spec 00 R3, R7): no such event exists. Safe: the hardware has no such step. -/
  | noSuchUnit
  deriving DecidableEq, Repr

/-- Why a step is refused. -/
inductive Refusal where
  /-- Raised by an arm of exec whose command has no meaning yet. Safe: nothing is claimed of it. -/
  | notModelled (mnemonic : String)
  deriving DecidableEq, Repr

/-- The three variants (spec 00 R3). -/
inductive Variant where
  | sx64 | sx40 | sx24
  deriving DecidableEq, Repr

/-- Engine states, coded as MSTATE (spec 07 R210). -/
inductive ES where
  | off | start | service | test | recover | spare | fenced
  deriving DecidableEq, Repr

/-- Context states (spec 03 R84). -/
inductive CS where
  | unused | idle | running | stopped | halted | restoring
  deriving DecidableEq, Repr

/-- What an engine executes: nothing (spec 02 R30), the context of a slot, or Machine-level code in the Machine bank,
for the interrupted context of a slot (spec 07 R203) or as the self-test program (`none`, spec 12 R336). -/
inductive Run where
  | parked
  | ctx (slot : Nat)
  | mach (slot : Option Nat)
  deriving DecidableEq, Repr

/-- One activation of a context: when it was released, when its YIELD completed, whether it took an entry at M
(spec 09 R242), the kind of its slot entry and the tick at which that entry ends (spec 14 R370). -/
structure Act where
  relAt : Nat
  yieldAt : Option Nat := none
  mEntry : Bool := false
  kind : Nat := 0
  endAt : Nat := 0
  deriving DecidableEq, Repr

/-- A context's bank (spec 03 R64) and record (03 R65, 07 R202), or a Machine bank and its record (03 R66).
`dw` words 0-31, `rw` words 32-47 with tags `rt`, `aux` words 48-55, `sh` words 56-63. `builds` counts the rebuilds of
the bank, so that late responses of an earlier occupant are told apart (07 R190); `fresh` marks a context that has not been
released since admission or substitution (12 R328). `bad` and `cor` hold the places whose check bits show an uncorrectable or a
single-bit upset (03 R68): bank words 0-63, a return word with its tag, and 64 for the record (log entry 44). `lerr` is an error
response to a boundary load that arrived while the context did not run: the load's address and instruction (log entry 16). -/
structure Ctx where
  dw : Tab Word := []
  rw : Tab Word := []
  rt : Tab (BitVec 5) := []
  aux : Tab Word := []
  sh : Tab Word := []
  pc : Word := 0
  q : Acc := 0
  dtop : BitVec 5 := 0
  docc : Nat := 0
  rtop : BitVec 4 := 0
  rocc : Nat := 0
  dused : Nat := 0
  rused : Nat := 0
  st : CS := .unused
  db : Bool := false
  gen : Bool := false
  lctx : Nat := 0
  entry : Word := 0
  restart : Word := 0
  pdepth : Nat := 0
  world : Bool := false
  home : BitVec 2 := 0
  level : BitVec 2 := 0
  nest : Nat := 0
  latePend : Bool := false
  lateOvf : Bool := false
  lateAddr : Word := 0
  evpend : Word := 0
  evmask : Word := 0
  ie : Bool := false
  kbase : Word := 0
  vbase : Word := 0
  dspill : Word := 0
  rspill : Word := 0
  divp : Bool := false
  rep : Bool := false
  beats : Nat := 0
  budget : Nat := 0
  overrun : Bool := false
  budgetPend : Bool := false
  wdogPend : Bool := false
  wdW : Nat := 0
  wdAt : Option Nat := none
  fresh : Bool := false
  act : Option Act := none
  marks : List Nat := []
  builds : Nat := 0
  bad : List Nat := []
  cor : List Nat := []
  lerr : Option (Word × BitVec 16) := none
  deriving DecidableEq, Repr

/-- A store-buffer entry (spec 02 R48): the memory key of an aligned 64-bit line, its data and byte mask. Its retirement
(R50, R51): `wait` beats until the beat in which it is written has passed, `got` beats of its retire slot passed, `done` at the
end of the slot. -/
structure SBE where
  line : Nat
  data : Word64
  mask : BitVec 8
  wait : Nat := 1
  got : Nat := 0
  done : Bool := false
  deriving DecidableEq, Repr

/-- A transaction on the memory initiator: the host address (spec 04 R102), the INCR beats and the bytes of each, with the ID, AxCACHE
and AxPROT of its source (16 R413). Of a read of several bursts it is the first (log entry 12). -/
structure MemAddr where
  host : Word64 := 0
  beats : Nat := 1
  bytes : Nat := 32
  id : BitVec 8 := 0
  cache : BitVec 4 := 0
  prot : BitVec 3 := 0
  deriving DecidableEq, Repr

/-- An entry of the boundary write queue (spec 02 R49, 07 R189): engine address and the write it is on the memory initiator. -/
structure BQE where
  addr : Word
  bytes : Nat
  data : Word64
  ctxid : Nat
  gen : Bool
  lctx : Nat
  builds : Nat
  bus : MemAddr := {}
  deriving DecidableEq, Repr

/-- A boundary-space load waiting for its response (spec 05 R142): the slot whose bank it returns to, its width code and sign
field, the instruction's address update, and the read on the memory initiator. -/
structure BLoad where
  slot : Nat
  addr : Word
  width : BitVec 2
  sx : Bool
  an : BitVec 2
  anNew : Word
  instr : BitVec 16
  bus : MemAddr := {}
  deriving DecidableEq, Repr

/-- An instruction-cache line of 32 bytes (spec 02 R47), in recency order within the cache list. `bad` marks the fetch words
that were uncorrectable when the line was filled (02 R34); `par` a parity error of the line itself. -/
structure ICLine where
  addr : Nat
  data : BitVec 256
  bad : BitVec 4 := 0
  par : Bool := false
  deriving DecidableEq, Repr

/-- The line fill that a fetch waits for (spec 02 R47): the line's address, and from boundary space the 32-byte read on the memory
initiator (16 R413). -/
structure ICFill where
  addr : Nat
  bus : Option MemAddr := none
  deriving DecidableEq, Repr

/-- A branch-target-buffer entry (spec 02 R46). -/
structure TBE where
  pc : Word
  target : Word
  slot : Nat
  deriving DecidableEq, Repr

/-- The loop buffer (spec 02 R38-R40): a captured body from `target` to the closing branch at `branch`, the instructions copied
into it by halfword address, and the addresses whose copy has a parity error. -/
structure LoopBuf where
  capture : Option (Word × Word) := none
  active : Option (Word × Word) := none
  words : Tab (BitVec 16) := []
  bad : List Nat := []
  disabled : Bool := false
  deriving DecidableEq, Repr

/-- The sequential fetch from local store (spec 02 R35): the fetch word in execution, how many words from it on the buffer holds,
and how many fetches are pending. `lone`: the last beat could have begun a retire slot while a fetch was pending (R51, R58). -/
structure FetchBuf where
  word : Nat
  held : Nat := 2
  due : Nat := 0
  lone : Bool := false
  deriving DecidableEq, Repr

/-- What the instruction at PC has begun without completing: a wait on boundary space (spec 02 R57, 07 R188), the wait of WAIT
(06 R160), a wait inside the instruction, for the store buffer or the fusee, which no stopping point interrupts (02 R49, R52, R53,
03 R73), `beats` of the set-up of a resumable instruction (05 R133, 06 R175), or a value it has read before the fusee
makes its room (03 R83, 05 R122). -/
inductive Begun where
  | none
  | boundary
  | event
  | inner
  | setup (beats : Nat)
  | value (v : Word)
  deriving DecidableEq, Repr

/-- What free-mode pairing must know of the instruction just executed (spec 02 R45); `waited` once the one at PC has begun and
waits, so that its word is fetched already (02 R35). -/
structure PairInfo where
  pc : Word
  instr : BitVec 16
  entered : Bool
  waited : Bool := false
  deriving DecidableEq, Repr

/-- A release waiting for a stopping point of the engine: of a DEADBEAT entry (`kind` 0, spec 08 R221) or a FREE one (1, R222). -/
structure LateRel where
  slot : Nat
  budget : Nat
  endAt : Nat
  kind : Nat := 0
  deriving DecidableEq, Repr

/-- One address comparator (spec 14 R382). -/
structure ACmp where
  addr : Word := 0
  ctl : Word := 0
  deriving DecidableEq, Repr

/-- One data comparator (spec 14 R382). -/
structure DCmp where
  val : Word := 0
  mask : Word := 0
  deriving DecidableEq, Repr

/-- Per-engine debug registers and halt state (spec 14 R366-R382). `pass` lets the first instruction after a resume or
step execute although an execute comparator matches it (log entry 14). `parkFrom` is the tick of the last RESUME that continued no
activation: slot entries that began before it release nothing (R370). -/
structure EDbg where
  frz : Bool := false
  bkhalt : Bool := false
  flow : Bool := false
  flowctx : Bool := false
  halted : Bool := false
  pend : Bool := false
  pendCause : BitVec 3 := 0
  deferred : Bool := false
  cause : BitVec 3 := 0
  cmp : BitVec 2 := 0
  hl : Option Nat := none
  hlRun : Run := .parked
  stepping : Bool := false
  ewaddr : Word := 0
  ctxm : BitVec 10 := 0
  ac : Tab ACmp := []
  dc : Tab DCmp := []
  skiprel : Nat := 0
  fbr : List Bool := []
  skipped : List Nat := []
  pass : Bool := false
  parkFrom : Nat := 0
  deriving DecidableEq, Repr

/-- One physical engine. `fusee` is the batch that a waiting instruction needs (spec 03 R73); `fetch` is none right after a restart,
which fetches the word of PC and the next (02 R36); `relAt` is the tick of the last START whose release was made or skipped
(08 R221, R222); `retest` marks a TEST whose pass may serve an unserved position (12 R340, R430). -/
structure Engine where
  st : ES := .off
  run : Run := .parked
  mstop : Bool := false
  mb : Ctx := {}
  sbuf : List SBE := []
  bq : List BQE := []
  bload : Option BLoad := none
  icache : List ICLine := []
  tbuf : List TBE := []
  lb : LoopBuf := {}
  lock : Nat := 0
  lockBeats : Nat := 0
  pair : Option PairInfo := none
  spillRgn : Word := 0
  mhb : Nat := 0
  mvbase : Word := 0
  stopReq : Option Nat := none
  late : Option LateRel := none
  relAt : Option Nat := none
  standby : Bool := false
  retestable : Bool := true
  retest : Bool := false
  dbg : EDbg := {}
  otlReq : Bool := false
  otlCh : BitVec 9 := 0
  otlD : Word := 0
  fusee : Option FuseeOp := none
  fill : Option ICFill := none
  fetch : Option FetchBuf := none
  begun : Begun := .none
  deriving DecidableEq, Repr

/-- A mailbox (spec 06 R180). `stored` are the data words that an engine has stored to in this tick (17 R425); `ovrNow` an overrun
of this tick (17 R419). -/
structure Mbox where
  data : Tab Word := []
  seq : BitVec 16 := 0
  full : Bool := false
  ovr : Bool := false
  stored : List Nat := []
  ovrNow : Bool := false
  deriving DecidableEq, Repr

/-- A streamer request (spec 11 R304): `left` bytes remain from boundary address `src`. -/
structure StrReq where
  q : Nat
  src : Nat
  left : Nat
  tag : BitVec 8
  deriving DecidableEq, Repr

/-- The setpoint streamer of a train (spec 11 R304-R306). `rr` is the queue that had the last turn, `bus` the read of the last chunk on
the memory initiator. -/
structure Streamer where
  srcHost : Word := 0
  srcMach : Word := 0
  fifo : List StrReq := []
  doneCnt : BitVec 8 := 0
  ptr : Bool := false
  berr : Bool := false
  reject : Bool := false
  rr : Nat := 15
  bus : MemAddr := {}
  stop : BitVec 16 := 0
  deriving DecidableEq, Repr

/-- The sweep of a train (spec 11 R295-R299). `aborts` counts the aborts of a line in its pass; 5 marks a line that is done.
`linesDone` counts the done lines of train memory and the sealed region. -/
structure Sweep where
  lsEn : Bool := true
  tmEn : Bool := true
  skips : Nat := 0
  eccchk : Bool := false
  fail : Bool := false
  ue : Bool := false
  ce : Bool := false
  addr : Word := 0
  pass : Word := 0
  aborts : Tab Nat := []
  skipRun : Nat := 0
  linesDone : Nat := 0
  deriving DecidableEq, Repr

/-- The bellows regulator and pace gauge of a train (spec 15 R385, R386, R398). `rail` is the engine rail in mV and `mv` what
BLW_RAIL shows; `move`: the rail goes to 0.88 V at the end of this window (12 R316). -/
structure Pace where
  rail : Nat := 800
  mv : BitVec 10 := 800
  meas : Nat := 0
  min : Nat := 0xFFFF
  holdPace : Bool := false
  holdRail : Bool := false
  move : Bool := false
  gaugeRun : Nat := 0
  deriving DecidableEq, Repr

/-- A rotation step in progress (spec 12 R335). `third` are the positions that a fence during its migration left unserved (R339). -/
structure Rot where
  pos : Nat
  src : Nat
  dst : Nat
  stepAt : Nat
  loaded : Bool := false
  moved : Bool := false
  late : Bool := false
  third : List Nat := []
  deriving DecidableEq, Repr

/-- An unplanned substitution in progress (spec 12 R337): engine `dst` takes position `pos` of fenced engine `src`. It began at tick
`begunAt`, with `dst` in state `was` and the spare role held by `role`, which a SAFE reaction of that tick gives back (R318). -/
structure Subst where
  pos : Nat
  src : Nat
  dst : Nat
  partLoaded : Bool := false
  begunAt : Nat := 0
  was : ES := .spare
  role : Option Nat := none
  deriving DecidableEq, Repr

/-- A train. `more` are the substitutions that have begun behind `sub` (12 R337, R340); `map` holds the engine (0-8) of each position,
position p at engine p unless listed; `hevNow` are the bits of HEV that EVT.HOST has set in this tick (17 R424). -/
structure Train where
  map : Tab Nat := []
  unserved : List Nat := []
  spare : Option Nat := none
  subcnt : BitVec 4 := 0
  rotcnt : BitVec 4 := 0
  rot : Option Rot := none
  sub : Option Subst := none
  more : List Subst := []
  rotStop : Bool := false
  hev : Word := 0
  hevNow : Word := 0
  mb : Tab Mbox := []
  str : Streamer := {}
  swp : Sweep := {}
  pace : Pace := {}
  deriving DecidableEq, Repr

/-- A record in a sample window with its arrival tick (spec 10 R263). -/
structure SRec where
  word : Word64 := 0
  arrived : Option Nat := none
  deriving DecidableEq, Repr

/-- An outlet channel (spec 09 R239, 12 R330, 16 R404, R407). -/
structure Outlet where
  staging : Word := 0
  staged : Bool := false
  check : Word := 0
  checked : Bool := false
  committed : Word := 0
  safeReg : Word := 0
  cmd : BitVec 2 := 0
  deriving DecidableEq, Repr

/-- A commit group (spec 09 R243, R258). It commits from tick `start` on (13 R352). -/
structure Grp where
  esc : Bool := false
  last : BitVec 2 := 0
  consec : Nat := 0
  ccount : BitVec 16 := 0
  prev : Option Nat := none
  start : Nat := 0
  deriving DecidableEq, Repr

/-- A dial channel (spec 09 R255-R257). `due`: a commit tick of this tick gives a snapshot at its end, HELD or not (R256). -/
structure Dial where
  due : Option Bool := none
  sel : Word := 0
  valid : Bool := false
  held : Bool := false
  seq : BitVec 24 := 0
  data : List Word := []
  bufSeq : Word := 0
  buf : List Word := []
  deriving DecidableEq, Repr

/-- A converter command channel (spec 10 R274, 16 R410): latest and previous command words with their states. `stale`: the word at the
port is one whose status an admission has reset, so a later command waits for its report. -/
structure Cvc where
  op : BitVec 4 := 0
  st : BitVec 4 := 0
  reason : BitVec 4 := 0
  pst : BitVec 4 := 0
  ptag : BitVec 8 := 0
  tag : BitVec 8 := 0
  word : Word := 0
  pword : Word := 0
  req : Bool := false
  cmd : Word := 0
  stale : Bool := false
  deriving DecidableEq, Repr

/-- A trip channel (spec 10 R276-R280). -/
structure Trip where
  cfg : Word := 0
  ref : Word := 0
  latch : Bool := false
  inp : BitVec 2 := 0
  blank : Bool := false
  deriving DecidableEq, Repr

/-- A fault window (spec 12 R314). `sev` packs the 32 severity codes, three bits each; `now` are the sources raised in this tick
(17 R419). -/
structure FW where
  stat : Word := 0
  en : Word := 0
  sev : BitVec 96 := 0
  capValid : Bool := false
  capConseq : Bool := false
  capForced : Bool := false
  capSrc : BitVec 5 := 0
  capArg : BitVec 24 := 0
  addr : Word := 0
  conseq : Word := 0
  cnt : Nat := 0
  irq : BitVec 5 := 0b11110
  chk : Bool := false
  now : Word := 0
  deriving DecidableEq, Repr

/-- What a fence isolates (spec 12 R317). -/
inductive Target where
  | engine (k : Nat)
  | bank (t b : Nat)
  | train (t : Nat)
  | sample (ch : Nat)
  | command (c : Nat)
  | queue (t q : Nat)
  | link
  deriving DecidableEq, Repr

/-- An open quench window (spec 12 R324, R325); `closeAt` once a replacement has taken over, `grps` the groups that had a
contributor on the target when it was fenced. -/
structure Quench where
  target : Target
  grps : List Nat := []
  closeAt : Option Nat := none
  deriving DecidableEq, Repr

/-- A regulator operation in progress (spec 08 R235). -/
inductive RglOp where
  | idle
  | check
  | load (slot : Bool)
  | start (slot : Bool) (svc : Nat)
  deriving DecidableEq, Repr

/-- The regulator's registers (spec 08 R235), and where its last read on the memory initiator began (16 R413). -/
structure Rgl where
  op : RglOp := .idle
  result : BitVec 2 := 0
  done : Bool := false
  cmdErr : Bool := false
  sect : BitVec 8 := 0
  code : BitVec 8 := 0
  ptr : Word := 0
  addrLo : Word := 0
  addrHi : Word := 0
  len : Word := 0
  bus : MemAddr := {}
  deriving DecidableEq, Repr

/-- State of an image slot (spec 08 R235). -/
inductive SlotSt where
  | empty | loaded | running
  deriving DecidableEq, Repr

/-- An image slot (spec 08 R236). -/
structure ImgSlot where
  st : SlotSt := .empty
  img : Image := {}
  deriving DecidableEq, Repr

/-- The upgrade registers (spec 13 R356). `pop`: 0 none, 1 SWITCH, 2 REVERT; `due` is the switch tick. `follow` holds, per set
that has moved, the tick from which register fields that select by LCTX follow (R355); `compl` an accepted COMPLETE (R354). `beside`:
an image was admitted beside the RUNNING one, which is the older image of slot `older` (R345). -/
structure Upg where
  pop : BitVec 2 := 0
  pset : BitVec 6 := 0
  due : Nat := 0
  defers : Nat := 0
  err : Bool := false
  done : Bool := false
  sw : BitVec 64 := 0
  target : Word64 := 0
  older : Bool := false
  beside : Bool := false
  follow : Tab Nat := []
  compl : Bool := false
  deriving DecidableEq, Repr

/-- The sync link (spec 13 R358-R361). `tx` are the halves of the frame still to be sent, `td` and `tv` the half at the port
(16 R415); `age` counts the frame ticks since the last valid frame, up to 3 (R360). -/
structure Link where
  en : Bool := false
  cfgErr : Bool := false
  ntx : BitVec 6 := 0
  rxTrain : BitVec 3 := 0
  rxq : BitVec 4 := 0
  phase : BitVec 14 := 0
  age : Nat := 3
  peerGen : BitVec 16 := 0
  skew : Word := 0
  txsel : Tab Word := []
  fseq : BitVec 16 := 0
  lastSeq : Option (BitVec 16) := none
  missed : Nat := 0
  tx : List Word := []
  td : Word := 0
  tv : Bool := false
  deriving DecidableEq, Repr

/-- A debug-master access in flight (spec 14 R364). `served`: it started while the arrays were accessible (15 R388). -/
structure DAcc where
  addr : Word
  space : BitVec 2
  wr : Bool
  data : Word
  inc : Bool
  served : Bool := true
  deriving DecidableEq, Repr

/-- The states of the TAP controller (spec 14 R362). -/
inductive TapSt where
  | testLogicReset | runTestIdle
  | selectDr | captureDr | shiftDr | exit1Dr | pauseDr | exit2Dr | updateDr
  | selectIr | captureIr | shiftIr | exit1Ir | pauseIr | exit2Ir | updateIr
  deriving DecidableEq, Repr

/-- The TAP (spec 14 R362, R363). `cap` is what the last Capture-DR loaded. -/
structure Tap where
  st : TapSt := .testLogicReset
  ir : BitVec 5 := 0b00001
  cap : BitVec 34 := 0
  addr : Word := 0
  space : BitVec 2 := 0
  rdata : Word := 0
  err : Bool := false
  acc : Option DAcc := none
  deriving DecidableEq, Repr

/-- Block-level debug and trace (spec 14 R379-R382). `buf` is the trace buffer, oldest byte first. -/
structure Dbg where
  quietSkip : Bool := false
  quiet : Bool := true
  eng : BitVec 7 := 0
  frzRmt : Bool := false
  frzTrb : Bool := false
  frzSwp : Bool := false
  frzStr : Bool := false
  hgrp : BitVec 72 := 0
  trcEn : Bool := false
  sink : Bool := false
  commitPk : Bool := false
  syncInt : BitVec 3 := 0b101
  ovf : Bool := false
  buf : List Byte := []
  lost : Nat := 0
  stimen : BitVec 64 := 0
  lastSync : Nat := 0
  port : Option Byte := none
  deriving DecidableEq, Repr

/-- Retention states (spec 15 R398). -/
inductive RetSt where
  | active | entering | retained | waking
  deriving DecidableEq, Repr

/-- Power and reset (spec 15 R389, R398). `waitRelease`: phase 1 has not begun; `held`: `rst_blk_n` is asserted; `low`: VBLK is
below the power-on threshold (R384); `resetAt` the tick at which the reset began; `phaseAt` that of its phase; `pendTime` the host
time value to load at the end of phase 4. -/
structure Power where
  ready : Bool := true
  phase : BitVec 3 := 5
  retErr : Bool := false
  ret : Bool := false
  retSt : RetSt := .active
  guard : BitVec 8 := 0x1E
  band : BitVec 8 := 0x28
  vblk : BitVec 12 := 0
  held : Bool := false
  low : Bool := false
  resetAt : Nat := 0
  phaseAt : Nat := 0
  waitRelease : Bool := false
  pendTime : Word64 := 0
  deriving DecidableEq, Repr

/-- Lifecycle states, coded as LCS_STAT.STATE (spec 15 R398). -/
inductive LState where
  | blank | develop | secured | returned | scrapped
  deriving DecidableEq, Repr

/-- A lifecycle command whose fuses are being programmed (spec 15 R393, R394). -/
inductive LcsOp where
  | progKey
  | to (st : LState)
  deriving DecidableEq, Repr

/-- The lifecycle unit (spec 15 R393-R398). `draw` counts the challenges drawn; `wiping` marks a sealed wipe under way;
`sealLost` a tamper met in retention; `part` a partly programmed transition. -/
structure Lcs where
  st : LState := .blank
  keydig : Tab Word := []
  keyProg : Bool := false
  cmdErr : Bool := false
  busy : Option LcsOp := none
  tamper : Bool := false
  draw : Nat := 0
  wiping : Bool := false
  sealLost : Bool := false
  part : Option LState := none
  deriving DecidableEq, Repr

/-- Global fault and tourbillon registers (spec 12 R342). -/
structure Gf where
  safe : Bool := false
  degraded : Bool := false
  safeWin : BitVec 8 := 0xFF
  safeSrc : BitVec 5 := 0
  integ : Bool := false
  qtail : BitVec 16 := 0x03E8
  chkw : BitVec 8 := 0
  rotEn : Bool := true
  rotMs : BitVec 16 := 0x32
  deriving DecidableEq, Repr

/-- The escapement's registers (spec 17 R421). -/
structure Esc where
  svc : Word64 := 0
  late : Nat := 0
  deriving DecidableEq, Repr

/-- The remontoire's registers (spec 09 R258). -/
structure Rmt where
  holdLimit : BitVec 8 := 0x10
  esc : Bool := false
  safeOut : Bool := false
  holdOut : Bool := false
  heldCnt : Word64 := 0
  startedSecured : Bool := false
  deriving DecidableEq, Repr

/-- Output pins that no register shows (spec 16). -/
structure Pins where
  safeN : Bool := true
  otlSv : Bool := false
  otlSch : BitVec 9 := 0
  otlSd : Word := 0
  evtPg : BitVec 16 := 0
  tapTrig : Bool := false
  deriving DecidableEq, Repr

/-- The host target port's last answer (spec 16 R412): read data and response (0 OKAY, 2 SLVERR). -/
structure HostPort where
  rdata : BitVec 128 := 0
  resp : BitVec 2 := 0
  deriving DecidableEq, Repr

/-- The state of the block. Tables list only what differs from reset. Keys: contexts by CTXID, engines by k = 9 t + e,
sample windows by 128 t + ch, selectors and other per-logical-context data by 1024 gen + lctx, memory by byte key
(see Machine/Ops.lean). `pgAt` is the tick of the last period event of each generator (10 R279), `safeQ` the safe values still to
be written to the host, one a tick (16 R404). -/
structure State where
  variant : Variant := .sx64
  time : Word64 := 0
  pending : List Instr := []
  freeCtr : Nat := 0
  mem : List Host.Cell := []
  ue : List Nat := []
  ce : List Nat := []
  scratch : Word := 0
  ctx : Tab Ctx := []
  eng : Tab Engine := []
  train : Tab Train := []
  win : Tab SRec := []
  inletAt : Tab Nat := []
  outlet : Tab Outlet := []
  grp : Tab Grp := []
  sel : Tab Bool := []
  dial : Tab Dial := []
  cvc : Tab Cvc := []
  trip : Tab Trip := []
  pgAt : Tab Nat := []
  safeQ : List (Nat × Word) := []
  fw : Tab FW := []
  quench : List Quench := []
  fences : List Target := []
  rgl : Rgl := {}
  slotA : ImgSlot := {}
  slotB : ImgSlot := {}
  upg : Upg := {}
  gf : Gf := {}
  esc : Esc := {}
  rmt : Rmt := {}
  link : Link := {}
  tap : Tap := {}
  dbg : Dbg := {}
  power : Power := {}
  lcs : Lcs := {}
  pins : Pins := {}
  host : HostPort := {}
  deriving DecidableEq, Repr

/-- The block right after reset: phase 5 of spec 15 R389 is done (log entries 4 and 5). -/
def State.reset : State := {}

end Sys2Proof.Machine
end

