-- ==== Sys2Proof/Machine/Ops.lean ====
section
/-! DEFINITION. Named operations over units, memory, images and time that every command shares. -/

namespace Sys2Proof.Machine

/-- The outcome type of the block. -/
abbrev Res := Host.Outcome State Fault Refusal

/-! ### Variants and unit numbers (spec 00 R3, R5, R7) -/

/-- Trains of a variant (spec 00 R3). -/
def Variant.trains : Variant → Nat
  | .sx64 => 8 | .sx40 => 5 | .sx24 => 3

/-- Service contexts of a variant: the bound of LCTX (spec 03 R83). -/
def Variant.lctxs : Variant → Nat
  | .sx64 => 1024 | .sx40 => 640 | .sx24 => 384

/-- The optional units: dual-world arrangement, sync link and trace (spec 00 R3). -/
def Variant.optional : Variant → Bool
  | .sx24 => false | _ => true

/-- FEAT0 to FEAT3 (spec 01 R23-R26). -/
def Variant.feat : Variant → Nat → Word
  | .sx64, 0 => 0x09FF4001
  | .sx40, 0 => 0x091F2801
  | .sx24, 0 => 0x09071801
  | .sx24, 1 => 0x00000006
  | _, 1 => 0x0000001F
  | _, 2 => 0x10200240
  | _, _ => 0x01404080

/-- The part code of BLK_ID and IDCODE (spec 17 R420, 14 R363). -/
def Variant.part : Variant → Nat
  | .sx64 => 0x5064 | .sx40 => 0x5040 | .sx24 => 0x5024

/-- Train `t` is present. -/
def State.hasTrain (s : State) (t : Nat) : Bool := decide (t < s.variant.trains)

/-- Physical engine `k` is present. -/
def State.hasEngine (s : State) (k : Nat) : Bool := decide (k < 9 * s.variant.trains)

/-- Train of engine `k` (spec 00 R7). -/
def trainOf (k : Nat) : Nat := k / 9

/-- CTXID of slot `slot` of engine `k` (spec 00 R7). -/
def ctxId (k slot : Nat) : Nat := (k / 9) * 256 + (k % 9) * 16 + slot

/-- Engine index of a CTXID (spec 00 R7). -/
def engOfCtx (id : Nat) : Nat := 9 * (id / 256) + (id / 16) % 16

/-- Key of a logical context in the model's tables. -/
def lkey (gen : Bool) (lctx : Nat) : Nat := 1024 * gen.toNat + lctx

/-! ### Accessors -/

/-- Context of a CTXID. -/
def State.ctxAt (s : State) (id : Nat) : Ctx := s.ctx.get (fun _ => {}) id
/-- Writes a context. -/
def State.setCtx (s : State) (id : Nat) (c : Ctx) : State := { s with ctx := s.ctx.set (fun _ => {}) id c }
/-- Engine `k`. -/
def State.engAt (s : State) (k : Nat) : Engine := s.eng.get (fun _ => {}) k
/-- Writes an engine. -/
def State.setEng (s : State) (k : Nat) (e : Engine) : State := { s with eng := s.eng.set (fun _ => {}) k e }
/-- Changes an engine. -/
def State.modEng (s : State) (k : Nat) (f : Engine → Engine) : State := s.setEng k (f (s.engAt k))
/-- Train `t`. -/
def State.trainAt (s : State) (t : Nat) : Train := s.train.get (fun _ => {}) t
/-- Writes a train. -/
def State.setTrain (s : State) (t : Nat) (x : Train) : State := { s with train := s.train.set (fun _ => {}) t x }
/-- Changes a train. -/
def State.modTrain (s : State) (t : Nat) (f : Train → Train) : State := s.setTrain t (f (s.trainAt t))
/-- Changes a context. -/
def State.modCtx (s : State) (id : Nat) (f : Ctx → Ctx) : State := s.setCtx id (f (s.ctxAt id))
/-- Sample record of channel `ch` in the window of train `t`. -/
def State.recAt (s : State) (t ch : Nat) : SRec := s.win.get (fun _ => {}) (128 * t + ch)
/-- Outlet channel `n`. -/
def State.outAt (s : State) (n : Nat) : Outlet := s.outlet.get (fun _ => {}) n
/-- Changes an outlet channel. -/
def State.modOut (s : State) (n : Nat) (f : Outlet → Outlet) : State :=
  { s with outlet := s.outlet.set (fun _ => {}) n (f (s.outAt n)) }
/-- Commit group `g`. -/
def State.grpAt (s : State) (g : Nat) : Grp := s.grp.get (fun _ => {}) g
/-- Changes a commit group. -/
def State.modGrp (s : State) (g : Nat) (f : Grp → Grp) : State :=
  { s with grp := s.grp.set (fun _ => {}) g (f (s.grpAt g)) }
/-- Dial channel `n`. -/
def State.dialAt (s : State) (n : Nat) : Dial := s.dial.get (fun _ => {}) n
/-- Changes a dial channel. -/
def State.modDial (s : State) (n : Nat) (f : Dial → Dial) : State :=
  { s with dial := s.dial.set (fun _ => {}) n (f (s.dialAt n)) }
/-- Converter command channel `c`. -/
def State.cvcAt (s : State) (c : Nat) : Cvc := s.cvc.get (fun _ => {}) c
/-- Changes a converter command channel. -/
def State.modCvc (s : State) (c : Nat) (f : Cvc → Cvc) : State :=
  { s with cvc := s.cvc.set (fun _ => {}) c (f (s.cvcAt c)) }
/-- Trip channel `n`. -/
def State.tripAt (s : State) (n : Nat) : Trip := s.trip.get (fun _ => {}) n
/-- Changes a trip channel. -/
def State.modTrip (s : State) (n : Nat) (f : Trip → Trip) : State :=
  { s with trip := s.trip.set (fun _ => {}) n (f (s.tripAt n)) }
/-- Mailbox `m` of train `t`. -/
def State.mboxAt (s : State) (t m : Nat) : Mbox := (s.trainAt t).mb.get (fun _ => {}) m
/-- Changes a mailbox. -/
def State.modMbox (s : State) (t m : Nat) (f : Mbox → Mbox) : State :=
  s.modTrain t (fun x => { x with mb := x.mb.set (fun _ => {}) m (f (x.mb.get (fun _ => {}) m)) })

/-- ESC_TIME as a number. -/
def State.now (s : State) : Nat := s.time.toNat

/-- The next free value (log entry 8). -/
def State.draw (s : State) : Word × State :=
  (Config.freeWord s.freeCtr, { s with freeCtr := s.freeCtr + 1 })

/-- The 32-byte beats of the first burst of a read of `n` bytes from host address `a`: at most 16, within one 4 KiB block (spec 16
R413). -/
def burstBeats (a n : Nat) : Nat := Min.min (Min.min 16 ((a % 32 + n + 31) / 32)) ((4096 - a % 4096 + 31) / 32)

/-! ### Memory (spec 11 R285-R292, R301, R310). Keys are host offsets; the sealed regions follow the map's end. -/

/-- Memory key of train-memory offset `x` of train `t` (spec 11 R310). -/
def tmKey (t x : Nat) : Nat := 0x1000000 + t * 0x200000 + x
/-- Memory key of local-store offset `x` of engine `k` (spec 00 R7). -/
def lsKey (k x : Nat) : Nat := 0x2000000 + k * 0x10000 + x
/-- Memory key of sealed-region offset `x` of train `t`; the model's own key space (spec 11 R307). -/
def seKey (t x : Nat) : Nat := 0x4000000 + t * 0x8000 + x

/-- The array that holds a key: train memory, local store or sealed region. -/
inductive Arr where
  | tm (t : Nat)
  | ls (k : Nat)
  | sealed (t : Nat)
  deriving DecidableEq, Repr

/-- The array of a key and its byte offset within it. -/
def arrOf (a : Nat) : Arr × Nat :=
  if a < 0x2000000 then (.tm (a / 0x200000 - 8), a % 0x200000)
  else if a < 0x4000000 then (.ls (a / 0x10000 - 0x200), a % 0x10000)
  else (.sealed (a / 0x8000 - 0x800), a % 0x8000)

/-- The bank of a key: banks 0-15 of train memory, bank 16 the sealed region, none for a local store (spec 11 R289). -/
def bankOf (a : Nat) : Option (Nat × Nat) :=
  match arrOf a with
  | (.tm t, x) => some (t, (x / 32) % 16)
  | (.sealed t, _) => some (t, 16)
  | (.ls _, _) => none

/-- SWP_ADDR.AREA and the train of a key (spec 11 R299). -/
def areaOf (a : Nat) : Nat × Nat :=
  match (arrOf a).1 with
  | .tm t => (t, 0)
  | .sealed t => (t, 1)
  | .ls k => (k / 9, 0x10 + k % 9)

/-- One byte. -/
def State.byteAt (s : State) (a : Nat) : Byte := Tab.get (fun _ => 0) s.mem a
/-- Writes one byte. -/
def State.setByte (s : State) (a : Nat) (b : Byte) : State := { s with mem := Tab.set (fun _ => 0) s.mem a b }

/-- `n` bytes from `a`, little-endian (spec 00 R11). -/
def State.rdBytes (s : State) (a : Nat) : Nat → Nat
  | 0 => 0
  | n + 1 => (s.byteAt a).toNat + 256 * s.rdBytes (a + 1) n

/-- A 64-bit word at its aligned key. -/
def State.rd64 (s : State) (a : Nat) : Word64 := BitVec.ofNat 64 (s.rdBytes a 8)
/-- A 32-bit word. -/
def State.rd32 (s : State) (a : Nat) : Word := BitVec.ofNat 32 (s.rdBytes a 4)

/-- Writes the `n` low bytes of `v` from `a`, little-endian. -/
def State.putBytes (s : State) (a : Nat) : Nat → Nat → State
  | 0, _ => s
  | n + 1, v => (s.setByte a (BitVec.ofNat 8 v)).putBytes (a + 1) n (v / 256)

/-- A bank is fenced (spec 11 R301). -/
def State.bankFenced (s : State) (a : Nat) : Bool :=
  match bankOf a with
  | some (t, b) => s.fences.contains (.bank t b) || s.fences.contains (.train t)
  | none => false

/-- The 64-bit word of `a` decodes as uncorrectable (spec 11 R286). -/
def State.isUE (s : State) (a : Nat) : Bool := s.ue.contains (a / 8 * 8)

/-- The first uncorrectable 64-bit word among `n` bytes from `a`, for an engine read: a fenced bank counts (R301). -/
def State.firstUE (s : State) (a n : Nat) : Option Nat :=
  let w0 := a / 8 * 8
  let w1 := (a + n - 1) / 8 * 8
  if s.isUE w0 || s.bankFenced w0 then some w0
  else if w1 ≠ w0 && (s.isUE w1 || s.bankFenced w1) then some w1 else none

/-- A write of `n` bytes within one 64-bit word: the state and whether the word stays uncorrectable (R286). -/
def State.wrWord (s : State) (a n v : Nat) : State × Bool :=
  if s.bankFenced a then (s, false)
  else if n = 8 then
    ({ (s.putBytes a 8 v) with ue := s.ue.filter (· ≠ a / 8 * 8), ce := s.ce.filter (· ≠ a / 8 * 8) }, false)
  else if s.isUE a then (s, true)
  else ({ (s.putBytes a n v) with ce := s.ce.filter (· ≠ a / 8 * 8) }, false)

/-- Writes listed bytes from `a`. -/
def State.putList (s : State) (a : Nat) : List Byte → State
  | [] => s
  | b :: r => (s.setByte a b).putList (a + 1) r

/-- Clears `n` bytes of keys from `a`, with valid check bits (spec 11 R309). -/
def State.wipe (s : State) (a n : Nat) : State :=
  { s with
    mem := s.mem.filter (fun c => c.1 < a || a + n ≤ c.1)
    ue := s.ue.filter (fun x => x < a || a + n ≤ x)
    ce := s.ce.filter (fun x => x < a || a + n ≤ x) }

/-- Places listed bytes from `a` at once. Bytes of a fenced bank stay (spec 11 R301), and those of an uncorrectable word that is covered
in part; every other word that is reached gets valid check bits (R286). -/
def State.putRange (s : State) (a : Nat) (l : List Byte) : State :=
  let n := l.length
  let part (x : Nat) : Bool := decide (x < a ∨ a + n < x + 8)
  let out (x : Nat) : Bool := decide (x + 8 ≤ a ∨ a + n ≤ x)
  let lost (x : Nat) : Bool := s.bankFenced x || (part (x / 8 * 8) && s.isUE x)
  let cells := ((l.zipIdx a).map (fun p => (p.2, if lost p.2 then s.byteAt p.2 else p.1))).filter (fun p => p.2 != 0)
  { s with
    mem := s.mem.takeWhile (fun c => decide (c.1 < a)) ++ cells ++ s.mem.dropWhile (fun c => decide (c.1 < a + n))
    ue := s.ue.filter (fun x => part x || s.bankFenced x)
    ce := s.ce.filter (fun x => out x || s.bankFenced x) }

/-- The canonical form of memory: addresses strictly rising, and no byte that equals what an unlisted address reads as. -/
def Memory.wf (m : List Host.Cell) : Bool := Tab.wf (fun _ => 0) m

/-! ### Images and generations (spec 13 R345-R355) -/

/-- The image slot of a GEN bit (spec 13 R345). -/
def State.slotOf (s : State) (gen : Bool) : ImgSlot := if gen then s.slotB else s.slotA
/-- Writes an image slot. -/
def State.setSlot (s : State) (gen : Bool) (x : ImgSlot) : State :=
  if gen then { s with slotB := x } else { s with slotA := x }
/-- The image of a GEN bit. -/
def State.img (s : State) (gen : Bool) : Image := (s.slotOf gen).img

/-- An image slot is RUNNING. -/
def State.running (s : State) (gen : Bool) : Bool := (s.slotOf gen).st == .running
/-- Some image is RUNNING. -/
def State.anyRunning (s : State) : Bool := s.running false || s.running true

/-- Two images share the block: one RUNNING, and one that was loaded beside it (spec 13 R345). -/
def State.coexist (s : State) : Bool := s.anyRunning && s.upg.beside && s.slotA.st != .empty && s.slotB.st != .empty

/-- The GEN bit of the older image; outside an upgrade, of the RUNNING one or the only one. -/
def State.olderGen (s : State) : Bool :=
  if s.coexist then s.upg.older
  else if s.anyRunning then s.running true
  else s.slotB.st != .empty && s.slotA.st == .empty

/-- The generations resident in the block. -/
def State.gens (s : State) : List Bool :=
  (if s.slotA.st != .empty then [false] else []) ++ (if s.slotB.st != .empty then [true] else [])

/-- The switch set that lists context `lctx` of a side: the newer image's BRIDGE section (spec 13 R347). -/
def State.setOf (s : State) (gen : Bool) (lctx : Nat) : Option Nat :=
  (s.img (!s.olderGen)).bridges.findSome? (fun b => match b with
    | .member _ set newer l => if newer = (gen != s.olderGen) ∧ l = lctx then some set else none
    | _ => none)

/-- Set `S` runs under the newer image (spec 13 R356). -/
def State.switched (s : State) (set : Nat) : Bool := s.upg.sw.getLsbD set

/-- Context (gen, lctx) acts now: its image is RUNNING and its set is on its side (spec 13 R352, R355). -/
def State.ctxLive (s : State) (gen : Bool) (lctx : Nat) : Bool :=
  if s.coexist then
    match s.setOf gen lctx with
    | some set => s.switched set == (gen != s.olderGen)
    | none => gen == s.olderGen
  else s.running gen

/-- Context (gen, lctx) is what a register field that selects by LCTX alone selects now (spec 13 R355): the live one, except that
the field follows a switch or revert only from the next commit tick of the set's anchor on. -/
def State.selected (s : State) (gen : Bool) (lctx : Nat) : Bool :=
  if s.coexist then
    match s.setOf gen lctx with
    | some set => s.ctxLive gen lctx == decide (s.upg.follow.get (fun _ => 0) set ≤ s.now)
    | none => s.ctxLive gen lctx
  else s.running gen

/-- The context has been retired by a switch or revert (spec 13 R352, R353). -/
def State.retired (s : State) (c : Ctx) : Bool := s.anyRunning && !s.ctxLive c.gen c.lctx

/-- The CONTEXTS entry of a logical context. -/
def State.ctxEntry (s : State) (gen : Bool) (lctx : Nat) : Option CtxE :=
  (s.img gen).ctxs.find? (fun c => c.lctx == lctx)

/-- The generation of the context that a selection by LCTX names (spec 13 R355). -/
def State.selGen (s : State) (lctx : Nat) : Option Bool :=
  s.gens.find? (fun g => s.selected g lctx && (s.ctxEntry g lctx).isSome)

/-- Where a logical context sits: its CTXID on one of the nine engines of its train (spec 12 R335, R337). -/
def State.locate (s : State) (gen : Bool) (lctx : Nat) : Option Nat :=
  match s.ctxEntry gen lctx with
  | none => none
  | some c =>
    ((List.range 9).map (fun e => ctxId (9 * c.train + e) c.slot)).find? (fun id =>
      let x := s.ctxAt id
      x.st != .unused && x.gen == gen && x.lctx == lctx)

/-- Engine (0-8) that holds position `p` of train `t` (spec 12 R343). -/
def State.engOfPos (s : State) (t p : Nat) : Nat := (s.trainAt t).map.get (fun i => i) p

/-- The position that engine `e` of train `t` holds. -/
def State.posOfEng (s : State) (t e : Nat) : Option Nat :=
  (List.range 8).find? (fun p => s.engOfPos t p == e && !(s.trainAt t).unserved.contains p)

/-- Live contributors of group `g`: (gen, CONTEXTS entry). -/
def State.contributors (s : State) (g : Nat) : List (Bool × CtxE) :=
  s.gens.flatMap (fun gen => ((s.img gen).ctxs.filter
    (fun c => c.groups.getLsbD g && s.ctxLive gen c.lctx)).map (fun c => (gen, c)))

/-- Group `g` of a generation acts now: one of its contributors is live. -/
def State.grpLive (s : State) (gen : Bool) (g : Nat) : Bool :=
  (s.img gen).ctxs.any (fun c => c.groups.getLsbD g && s.ctxLive gen c.lctx)

/-- The live GROUPS entry of `g` with its generation. -/
def State.group (s : State) (g : Nat) : Option (Bool × GroupE) :=
  s.gens.findSome? (fun gen =>
    if s.grpLive gen g then ((s.img gen).groups.find? (fun x => x.group == g)).map (fun x => (gen, x)) else none)

/-- The live outlet route of channel `n` with its generation. -/
def State.outRoute (s : State) (n : Nat) : Option (Bool × RouteE) :=
  s.gens.findSome? (fun gen =>
    ((s.img gen).routes.find? (fun r => r.kind == 1 && r.chan == n && s.ctxLive gen r.owner)).map (fun r => (gen, r)))

/-- The live converter-command route of channel `c`. -/
def State.cvcRoute (s : State) (c : Nat) : Option (Bool × RouteE) :=
  s.gens.findSome? (fun gen =>
    ((s.img gen).routes.find? (fun r => r.kind == 2 && r.chan == c && s.ctxLive gen r.owner)).map (fun r => (gen, r)))

/-- The generations whose routes are in force: the RUNNING image's with that of one loaded beside it, and before a start every admitted
image's (spec 02 R14, 17 R422). -/
def State.routeGens (s : State) : List Bool :=
  if s.anyRunning then s.gens.filter (fun g => s.running g || s.coexist) else s.gens

/-- Trains whose sample windows receive channel `ch`; the union during coexistence (spec 13 R349). -/
def State.schTrains (s : State) (ch : Nat) : Nat :=
  s.routeGens.foldl (fun a g =>
    match (s.img g).routes.find? (fun r => r.kind == 0 && r.chan == ch) with
    | some r => a ||| r.trains
    | none => a) 0

/-- The sample route of channel `ch` in force. -/
def State.schRoute (s : State) (ch : Nat) : Option RouteE :=
  s.routeGens.findSome? (fun g =>
    (s.img g).routes.find? (fun r => r.kind == 0 && r.chan == ch))

/-- Outlet channels of group `g` of a generation, ascending. -/
def Image.outletsOf (i : Image) (g : Nat) : List Nat :=
  (List.range 320).filter (fun n => i.routes.any (fun r => r.kind == 1 && r.chan == n && r.group == g))

/-- The safe value of outlet `n` in its group (spec 08 R226). -/
def Image.safeOf (i : Image) (g n : Nat) : Word :=
  match i.groups.find? (fun x => x.group == g) with
  | some x => x.safe.getD ((i.outletsOf g).takeWhile (· ≠ n)).length 0
  | none => 0

/-- Groups that trip channel `n` guards in force. -/
def State.guards (s : State) (n : Nat) : List Nat :=
  s.gens.flatMap (fun gen => ((s.img gen).routes.filter
    (fun r => r.kind == 3 && r.chan == n && s.grpLive gen r.group)).map (·.group))

/-- The generator `p` in force: PERIODS entry of any RUNNING image (spec 08 R218, 17 R421). -/
def State.period (s : State) (p : Nat) : Option PeriodE :=
  s.gens.findSome? (fun gen => if s.running gen then (s.img gen).periods[p]? else none)

/-- Generator `p` of one image. -/
def Image.period (i : Image) (p : Nat) : PeriodE := i.periods.getD p { ofs := 0, period := 8, phase := 0, hostev := false }

/-- Offset of tick `t` in the cycle of a generator (spec 08 R218). -/
def PeriodE.offset (p : PeriodE) (t : Nat) : Nat := (t + p.period - p.phase % p.period) % p.period

/-- The MACHINE entry of a position. -/
def Image.mach (i : Image) (t p : Nat) : Option MachE := i.machs.find? (fun m => m.train == t && m.pos == p)

/-- The lowest-numbered group of a context (spec 09 R252). -/
def CtxE.lowGroup (c : CtxE) : Option Nat := (List.range 64).find? (fun g => c.groups.getLsbD g)

/-! ### Published areas (spec 09 R249-R254) -/

/-- The area entry of train `t` in an image: BASE and SIZE. -/
def Image.area (i : Image) (t : Nat) : Option (Nat × Nat) :=
  (i.carries.find? (fun c => c.lctx == 0xFFFF && c.train == t)).map (fun c => (c.offset, c.length))

/-- The block entry of a context. -/
def Image.block (i : Image) (lctx : Nat) : Option CarryE := i.carries.find? (fun c => c.lctx == lctx && c.lctx != 0xFFFF)

/-- The half of a block that is published: `false` is half 0 (R253). -/
def State.pubHalf (s : State) (gen : Bool) (lctx : Nat) : Bool := s.sel.get (fun _ => false) (lkey gen lctx)

/-- Memory key of word `w` of a block in a half. -/
def State.blockKey (s : State) (gen : Bool) (b : CarryE) (half : Bool) (w : Nat) : Nat :=
  match (s.img gen).area b.train with
  | some (base, size) => tmKey b.train (base + half.toNat * 8 * size + b.offset + 4 * w)
  | none => tmKey b.train (b.offset + 4 * w)

/-- Word `w` of the published copy of a context's block (a fenced bank reads zero to agents other than engines, R301). -/
def State.pubWord (s : State) (gen : Bool) (lctx w : Nat) : Word :=
  match (s.img gen).block lctx with
  | some b =>
    if w < 2 * b.length then
      let a := s.blockKey gen b (s.pubHalf gen lctx) w
      if s.bankFenced a then 0 else s.rd32 a
    else 0
  | none => 0

/-! ### Beats and ticks (spec 08 R220) -/

/-- Ceiling division. -/
def ceilDiv (a b : Nat) : Nat := (a + b - 1) / b

/-- tick_need(b) (spec 08 R220). -/
def Header.tickNeed (h : Header) (b : Nat) : Nat := ceilDiv (b * 400000) (h.paceFloor * (1000 - h.margin))
/-- tick_floor(b) (spec 08 R220). -/
def Header.tickFloor (h : Header) (b : Nat) : Nat := ceilDiv (b * 400) h.paceFloor

/-! ### Lists -/

/-- Replaces element `i`. -/
def setAt {α : Type} (l : List α) (i : Nat) (a : α) : List α := l.set i a

end Sys2Proof.Machine
end

