-- ==== Sys2Proof/Machine/Faults.lean ====
section
/-! DEFINITION. Fault windows, severities, fencing, SAFE and the trace packets that these reactions emit
(spec 12 R313-R326, R337-R339, 14 R379-R380). -/

namespace Sys2Proof.Machine

/-! ### Sources (spec 12 R319, 10 R269, 11 R300, 13 R361, 14 R378) -/

/-- A source: default severity, allowed range, and whether it has a fence target. -/
structure SrcInfo where
  dflt : Nat
  lo : Nat
  hi : Nat
  tgt : Bool
  deriving DecidableEq, Repr

/-- Sources of an engine window. -/
def engineSrcs : List SrcInfo :=
  [⟨0, 0, 1, false⟩, ⟨3, 1, 4, true⟩, ⟨3, 3, 4, true⟩, ⟨3, 3, 4, true⟩, ⟨3, 2, 4, true⟩, ⟨1, 0, 4, true⟩, ⟨1, 0, 4, true⟩,
   ⟨1, 0, 2, false⟩, ⟨0, 0, 1, false⟩, ⟨3, 2, 4, true⟩, ⟨3, 3, 4, true⟩, ⟨3, 3, 3, true⟩, ⟨1, 0, 4, true⟩,
   ⟨3, 3, 4, true⟩, ⟨3, 3, 4, true⟩]

/-- Sources of a train window. -/
def trainSrcs : List SrcInfo :=
  [⟨0, 0, 1, false⟩, ⟨2, 1, 4, true⟩, ⟨2, 2, 4, true⟩, ⟨0, 0, 1, false⟩, ⟨3, 3, 4, true⟩, ⟨0, 0, 1, false⟩, ⟨1, 0, 3, true⟩,
   ⟨1, 0, 3, true⟩, ⟨0, 0, 4, false⟩, ⟨2, 1, 4, true⟩, ⟨3, 3, 4, true⟩, ⟨1, 0, 2, false⟩, ⟨2, 2, 4, false⟩,
   ⟨1, 1, 4, false⟩, ⟨0, 0, 1, false⟩]

/-- Sources of window `w`. -/
def srcsOf (w : Nat) : List SrcInfo :=
  if w < 72 then engineSrcs
  else if w < 80 then trainSrcs
  else match w with
    | 80 => [⟨1, 0, 4, false⟩, ⟨4, 4, 4, false⟩, ⟨4, 4, 4, false⟩]
    | 81 => [⟨0, 0, 1, false⟩, ⟨1, 0, 4, false⟩, ⟨1, 1, 4, false⟩, ⟨1, 1, 4, false⟩, ⟨4, 4, 4, false⟩]
    | 82 => [⟨1, 0, 4, true⟩, ⟨0, 0, 4, true⟩, ⟨0, 0, 3, true⟩, ⟨0, 0, 3, true⟩, ⟨1, 0, 4, true⟩, ⟨4, 4, 4, false⟩]
    | 83 => [⟨1, 0, 4, false⟩, ⟨2, 2, 4, false⟩, ⟨4, 4, 4, false⟩, ⟨1, 1, 4, false⟩]
    | 84 => [⟨0, 0, 1, false⟩, ⟨4, 4, 4, false⟩]
    | 85 => [⟨4, 4, 4, false⟩]
    | 86 => [⟨0, 0, 1, false⟩, ⟨1, 0, 4, true⟩, ⟨1, 0, 3, true⟩, ⟨1, 0, 3, true⟩, ⟨0, 0, 1, false⟩]
    | 87 => [⟨0, 0, 4, false⟩, ⟨0, 0, 1, false⟩, ⟨0, 0, 1, false⟩, ⟨0, 0, 1, false⟩, ⟨1, 0, 4, false⟩]
    | _ => []

/-- Source `n` of window `w`, if defined. -/
def srcInfo (w n : Nat) : Option SrcInfo := (srcsOf w)[n]?

/-- A source of fixed severity SAFE (R315). -/
def SrcInfo.fixedSafe (i : SrcInfo) : Bool := i.lo == 4

/-- A severity code that the source may hold (R315, R319). -/
def SrcInfo.allows (i : SrcInfo) (v : Nat) : Bool := decide (i.lo ≤ v ∧ v ≤ i.hi ∧ (v = 3 → i.tgt = true))

/-- FW_EN with a bit for every source of a list. -/
def enMask (l : List SrcInfo) : Word := BitVec.ofNat 32 (2 ^ l.length - 1)

/-- The default severities of a list, three bits each. -/
def sevPack (l : List SrcInfo) : BitVec 96 :=
  BitVec.ofNat 96 ((l.zipIdx.map (fun p => p.1.dflt * 8 ^ p.2)).foldl (· + ·) 0)

/-- A window's reset value (R314, R319). -/
def fwDefault (w : Nat) : FW := { en := enMask (srcsOf w), sev := sevPack (srcsOf w) }

/-- Fault window `w`. -/
def State.fwAt (s : State) (w : Nat) : FW := s.fw.get fwDefault w
/-- Changes a fault window. -/
def State.modFw (s : State) (w : Nat) (f : FW → FW) : State := { s with fw := s.fw.set fwDefault w (f (s.fwAt w)) }

/-- Severity code of source `n`. -/
def FW.sevOf (f : FW) (n : Nat) : Nat := (f.sev.extractLsb' (3 * n) 3).toNat
/-- Sets a severity code. -/
def FW.setSev (f : FW) (n v : Nat) : FW :=
  { f with sev := (f.sev &&& ~~~(7#96 <<< (3 * n))) ||| (BitVec.ofNat 96 (v % 8) <<< (3 * n)) }

/-- State of the window's interrupt line (R314). -/
def FW.line (f : FW) : Bool := (List.range 32).any (fun n => f.stat.getLsbD n && f.irq.getLsbD (f.sevOf n))

/-- A window of a present unit (R5, R313). -/
def State.hasWindow (s : State) (w : Nat) : Bool :=
  if w < 72 then s.hasEngine w
  else if w < 80 then s.hasTrain (w - 72)
  else if w = 86 then s.variant.optional else decide (w < 88)

/-- A word with bit `n` set. -/
def bitW (n : Nat) : Word := 1#32 <<< n

/-! ### Trace packets (spec 14 R379, R380) -/

/-- The bytes of `v`, little-endian. -/
def leBytes : Nat → Nat → List Byte
  | 0, _ => []
  | n + 1, v => BitVec.ofNat 8 v :: leBytes n (v / 256)

/-- A packet: header byte and payload. -/
def packet (typ : Nat) (payload : List Byte) : List Byte :=
  BitVec.ofNat 8 (typ * 16 + payload.length) :: payload

/-- ESC_TIME[15:0]. -/
def State.ts (s : State) : List Byte := leBytes 2 s.now

/-- The SYNC packet. -/
def State.syncPkt (s : State) : List Byte := packet 0 (leBytes 8 s.now)

/-- Capacity of the trace buffer in bytes. -/
def traceCap : Nat := 8192

/-- An event on its way into a fault window (R314, R317, R324). `arg` is `none` where no rule names the detail: FW_CAP.ARG then
takes a free value (log entry 8). -/
structure Ev where
  w : Nat
  src : Nat
  arg : Option Nat := none
  addr : Word := 0
  forced : Bool := false
  eng : Option Nat := none
  grp : Option Nat := none
  trn : Option Nat := none
  bank : Option (Nat × Nat) := none
  tgt : Option Target := none
  minSev : Nat := 0
  deriving DecidableEq, Repr

/-- An open quench window covers the event (R325). -/
def Quench.covers (q : Quench) (ev : Ev) : Bool :=
  let grpIn := match ev.grp with
    | some g => q.grps.contains g
    | none => false
  let rmt := ev.w == 81 && (ev.src == 0 || ev.src == 1 || ev.src == 3) && grpIn
  match q.target with
  | .engine k => ev.w == k || (ev.w == 80 && ev.src == 0 && ev.eng == some k) || rmt
  | .bank t b => ev.bank == some (t, b) &&
      ((decide (ev.w < 72) && ev.w / 9 == t && ev.src == 1) || (ev.w == 72 + t && ev.src == 1))
  | .train t => (decide (ev.w < 72) && ev.w / 9 == t) || (ev.w == 72 + t && ev.src != 9 && ev.src != 8) ||
      (ev.w == 80 && ev.src == 0 && ev.eng.map trainOf == some t) || rmt ||
      (ev.w == 82 && ev.src == 0 && ev.trn == some t)
  | .sample ch => ev.w == 82 && (ev.src == 0 || ev.src == 1) && ev.arg == some ch && !ev.forced
  | .command c => ev.w == 82 && (ev.src == 3 || ev.src == 4) && ev.arg == some c && !ev.forced
  | .queue t q => ev.w == 72 + t && (ev.src == 6 || ev.src == 7) && ev.arg == some q && !ev.forced
  | .link => false

/-- The event is quenched now (R324). -/
def State.quenched (s : State) (ev : Ev) : Bool :=
  match srcInfo ev.w ev.src with
  | some i => !i.fixedSafe && s.quench.any (fun q => q.covers ev)
  | none => false

/-- The source is enabled and its unit raises sources: an engine in OFF raises none (R315, R392). -/
def State.enabled (s : State) (ev : Ev) : Bool :=
  s.hasWindow ev.w && (srcInfo ev.w ev.src).isSome && (s.fwAt ev.w).en.getLsbD ev.src &&
    !(decide (ev.w < 72) && (s.engAt ev.w).st == .off)

/-- The severity at which an event acts. -/
def State.evSev (s : State) (ev : Ev) : Nat := Max.max ((s.fwAt ev.w).sevOf ev.src) ev.minSev

/-- Status, capture and count of an event (R314, R324). -/
def State.record (s : State) (ev : Ev) : State :=
  let cq := s.quenched ev
  let arg : BitVec 24 := match ev.arg with
    | some a => BitVec.ofNat 24 a
    | none => (Config.freeWord s.freeCtr).setWidth 24
  let s := if ev.arg.isNone && !ev.forced && !(s.fwAt ev.w).capValid then { s with freeCtr := s.freeCtr + 1 } else s
  s.modFw ev.w (fun f =>
    let f := { f with cnt := Min.min (f.cnt + 1) 0xFFFF, now := f.now ||| bitW ev.src }
    let f := if cq then { f with conseq := f.conseq ||| bitW ev.src } else { f with stat := f.stat ||| bitW ev.src }
    if f.capValid then f
    else { f with
      capValid := true, capConseq := cq, capForced := ev.forced, capSrc := BitVec.ofNat 5 ev.src
      capArg := if ev.forced then 0xFFFFFF else arg
      addr := if ev.forced then 0 else ev.addr })

/-- Raises a source that can stand at INFO or WARN only. -/
def State.raiseInfo (s : State) (ev : Ev) : State := if s.enabled ev then s.record ev else s

/-- Writes the OVF and SYNC packets once room has returned (spec 14 R379). -/
def State.flushOvf (s : State) : State :=
  if s.dbg.lost ≠ 0 ∧ s.dbg.buf.length + 12 ≤ traceCap then
    { s with dbg := { s.dbg with
        buf := s.dbg.buf ++ packet 9 (leBytes 2 (Min.min s.dbg.lost 0xFFFF)) ++ s.syncPkt, lost := 0 } }
  else s

/-- Trace is on: TRC_CTL.EN on a variant with trace, outside SCRAPPED (spec 14 R377, R379). -/
def State.tracing (s : State) : Bool := s.dbg.trcEn && s.variant.optional && s.lcs.st != .scrapped

/-- Writes a packet into the trace buffer, or loses it whole (spec 14 R379). -/
def State.emit (s : State) (p : List Byte) : State :=
  if !s.tracing then s
  else
    let s := s.flushOvf
    if s.dbg.lost = 0 ∧ s.dbg.buf.length + p.length ≤ traceCap then
      { s with dbg := { s.dbg with buf := s.dbg.buf ++ p } }
    else
      ({ s with dbg := { s.dbg with lost := s.dbg.lost + 1, ovf := true } }).raiseInfo { w := 87, src := 2 }

/-- SRC byte of an engine. -/
def srcByte (k : Nat) : Byte := BitVec.ofNat 8 k

/-- A context's activation on engine `k` gives flow packets (spec 14 R380). -/
def State.traced (s : State) (k : Nat) (c : Ctx) : Bool :=
  let d := (s.engAt k).dbg
  s.tracing && c.db && d.flow && (!d.flowctx || (s.selected c.gen c.lctx && BitVec.ofNat 10 c.lctx == d.ctxm))

/-- The outcome bits as bytes, least significant first. -/
def bitsNat : List Bool → Nat
  | [] => 0
  | b :: r => b.toNat + 2 * bitsNat r

/-- Emits the pending FBR packet of engine `k`. -/
def State.flushFbr (s : State) (k : Nat) : State :=
  let b := (s.engAt k).dbg.fbr
  if b.isEmpty then s
  else (s.modEng k (fun e => { e with dbg := { e.dbg with fbr := [] } })).emit
    (packet 2 (srcByte k :: BitVec.ofNat 8 b.length :: leBytes ((b.length + 7) / 8) (bitsNat b)))

/-- One branch outcome of a traced context (spec 14 R380). -/
def State.traceBranch (s : State) (k : Nat) (c : Ctx) (taken : Bool) : State :=
  if s.traced k c then
    let s := s.modEng k (fun e => { e with dbg := { e.dbg with fbr := e.dbg.fbr ++ [taken] } })
    if (s.engAt k).dbg.fbr.length = 64 then s.flushFbr k else s
  else s

/-- FTGT or FCNT of a traced context. -/
def State.traceWord (s : State) (k : Nat) (c : Ctx) (typ : Nat) (v : Word) : State :=
  if s.traced k c then (s.flushFbr k).emit (packet typ (srcByte k :: leBytes 4 v.toNat)) else s

/-- FEND with its reason. -/
def State.traceEnd (s : State) (k : Nat) (c : Ctx) (reason : Nat) : State :=
  if s.traced k c then
    let s := s.flushFbr k
    s.emit (packet 5 (s.ts ++ [srcByte k, BitVec.ofNat 8 reason] ++ leBytes 2 (Min.min c.beats 0xFFFF)))
  else s

/-! ### Trips seen by groups (spec 09 R246, 10 R277, R280) -/

/-- A trip channel is enabled: EN, or it guards a group of the running image (R277). -/
def State.tripOn (s : State) (n : Nat) : Bool := (s.tripAt n).cfg.getLsbD 31 || (s.anyRunning && (s.guards n) != [])

/-- The state code of a trip channel (R277). -/
def State.tripState (s : State) (n : Nat) : BitVec 2 :=
  let x := s.tripAt n
  if !s.tripOn n then 0b11
  else if x.latch then 0b01
  else if x.inp == 0b10 then 0b10
  else if x.cfg.extractLsb' 28 2 == 0b10 && x.inp == 0b01 && !(x.cfg.getLsbD 23 && x.blank) then 0b01
  else 0b00

/-- Group `g` is TRIPPED: a guarding trip is tripped or unresolved (R246). -/
def State.grpTripped (s : State) (g : Nat) : Bool :=
  s.anyRunning && (match s.group g with
    | some (gen, e) => e.tripguard && (s.img gen).routes.any (fun r => r.kind == 3 && r.group == g &&
        (s.tripState r.chan == 0b01 || s.tripState r.chan == 0b10))
    | none => false)

/-! ### SAFE (spec 12 R322) -/

/-- The outlets of every live group, with their groups. -/
def State.liveOutlets (s : State) : List (Nat × Nat) :=
  s.gens.flatMap (fun gen => if s.running gen || s.coexist then
    ((s.img gen).routes.filter (fun r => r.kind == 1 && s.ctxLive gen r.owner)).map (fun r => (r.chan, r.group)) else [])

/-- Drives code 0b11 on every outlet of the running image (R322, 16 R407). -/
def State.overrideAll (s : State) : State :=
  s.liveOutlets.foldl (fun s p => s.modOut p.1 (fun o => { o with cmd := 0b11 })) s

/-- Sends a stop request to engine `k` unless one is pending (08 R221, R322); the self-test program parks at its element
boundary (R337). -/
def State.sendStop (s : State) (k : Nat) : State :=
  s.modEng k (fun e =>
    if e.run == .mach none then { e with run := .parked }
    else if e.run == .parked || e.stopReq.isSome then e else { e with stopReq := some s.now })

/-- The substitutions of a train, the one that is next to hand over first. -/
def Train.subs (x : Train) : List Subst := x.sub.toList ++ x.more

/-- A substitution that began in the tick of a SAFE reaction has not begun: SAFE acts first (R318). -/
def State.undoSub (s : State) (t : Nat) (u : Subst) : State :=
  if u.begunAt ≠ s.now then s
  else
    let s := s.modEng (9 * t + u.dst) (fun e => if e.st == .recover then { e with st := u.was } else e)
    if u.role.any (fun e => (s.engAt (9 * t + e)).st == .fenced) then s else s.modTrain t (fun x => { x with spare := u.role })

/-- The substitutions and the rotation step of train `t` stop (R318, R322). -/
def State.stopSubs (s : State) (t : Nat) : State :=
  let x := s.trainAt t
  if x.rot.isSome || x.subs != [] then
    (x.subs.reverse.foldl (fun s u => s.undoSub t u) s).modTrain t (fun x => { x with rot := none, sub := none, more := [] })
  else s

/-- The SAFE reaction with its first cause (R321, R322): groups latch through GF_STAT.SAFE, engines get stop requests,
substitutions, rotation steps and the pending upgrade step stop. -/
def State.safeReact (s : State) (w src : Nat) (integ : Bool) : State :=
  if s.gf.safe then s
  else
    let s := { s with
      gf := { s.gf with safe := true, safeWin := BitVec.ofNat 8 w, safeSrc := BitVec.ofNat 5 src, integ := integ }
      pins := { s.pins with safeN := false }
      upg := { s.upg with pop := 0 } }
    let s := s.overrideAll
    let s := (List.range (9 * s.variant.trains)).foldl (fun s k => s.sendStop k) s
    (List.range s.variant.trains).foldl State.stopSubs s

/-! ### DEGRADE (spec 12 R315, R316) -/

/-- RAIL_LIMIT at DEGRADE: the rail of train `t` goes to 0.88 V at the window's end and stays (15 R385). -/
def State.holdRail (s : State) (t : Nat) : State :=
  s.modTrain t (fun x => { x with pace := { x.pace with holdRail := true, move := true } })

/-- The rails that a RAIL_LIMIT without a train holds: a free value (log entry 36). -/
def State.holdSome (s : State) : State :=
  let d := s.draw
  (List.range 8).foldl (fun s t => if d.1.getLsbD t && s.hasTrain t then s.holdRail t else s) d.2

/-- The own action of a source at DEGRADE; RAIL_LIMIT names its train in ARG. A forced RAIL_LIMIT names none: which rails it
holds is a free value (log entry 36). -/
def State.degradeAct (s : State) (ev : Ev) : State :=
  let s := { s with gf := { s.gf with degraded := true } }
  if ev.w < 72 ∧ ev.src = 9 then s.modEng ev.w (fun e => { e with lb := { e.lb with disabled := true } })
  else if 72 ≤ ev.w ∧ ev.w < 80 ∧ ev.src = 9 then
    s.modTrain (ev.w - 72) (fun x => { x with pace := { x.pace with holdPace := true, move := true } })
  else if 72 ≤ ev.w ∧ ev.w < 80 ∧ ev.src = 12 then s.modTrain (ev.w - 72) (fun x => { x with rotStop := true })
  else if ev.w = 83 ∧ ev.src = 1 then
    if ev.forced then s.holdSome else s.holdRail (ev.arg.getD 0)
  else s

/-- Raises a source that has no fence target (R315). -/
def State.raiseLow (s : State) (ev : Ev) : State :=
  if !s.enabled ev then s
  else
    let q := s.quenched ev
    let v := s.evSev ev
    let s := s.record ev
    if q then s
    else match v with
      | 2 => s.degradeAct ev
      | 4 => s.safeReact ev.w ev.src false
      | _ => s

/-! ### Fences (spec 12 R317, R318, R337, R339) -/

/-- Groups with a contributor whose context sits on one of the listed engines. -/
def State.groupsOn (s : State) (on : Nat → Bool) : List Nat :=
  (List.range 64).filter (fun g => (s.contributors g).any (fun p =>
    match s.locate p.1 p.2.lctx with
    | some id => on (engOfCtx id)
    | none => false))

/-- Adds a fence and opens its quench window. -/
def State.openQuench (s : State) (x : Target) (grps : List Nat) : State :=
  { s with quench := s.quench ++ [{ target := x, grps := grps }] }

/-- Engine `k` stops at once and enters FENCED; its contexts become RESTORING (R317). -/
def State.cutEngine (s : State) (k : Nat) : State :=
  let e := s.engAt k
  let s := match e.run with
    | .ctx slot => s.traceEnd k (s.ctxAt (ctxId k slot)) 4
    | _ => s
  let s := s.modEng k (fun e => { e with
    st := .fenced, run := .parked, mstop := false, sbuf := [], bload := none, lb := { disabled := e.lb.disabled }, lock := 0, lockBeats := 0
    pair := none, stopReq := none, late := none, standby := false, fusee := none, fill := none, fetch := none, begun := .none
    dbg := { e.dbg with halted := false, pend := false, hl := none, hlRun := .parked, stepping := false, fbr := [], skipped := [] } })
  (List.range 16).foldl (fun s i =>
    if (s.ctxAt (ctxId k i)).st != .unused then s.modCtx (ctxId k i) (fun c => { c with st := .restoring, act := none }) else s) s

/-- NO_SPARE in train `t` (R339). -/
def State.noSpare (s : State) (t : Nat) : State := s.raiseLow { w := 72 + t, src := 12 }

/-- Leaves position `p` of train `t` unserved (R339). -/
def State.unserve (s : State) (t p : Nat) : State :=
  s.modTrain t (fun x => { x with unserved := if x.unserved.contains p then x.unserved else x.unserved ++ [p] })

/-- Begins an unplanned substitution of position `p` by engine `d` of train `t` (R337); `loaded` when the engine already
holds the position's code, and then an engine in SERVICE goes on serving its contexts (R339). Behind another one of the train it waits.
SUBST is raised at the end of the tick, when no SAFE of the tick has undone it (R318; log entry 69). -/
def State.beginSub (s : State) (t p src d : Nat) (loaded : Bool) : State :=
  let u : Subst := { pos := p, src := src, dst := d, partLoaded := loaded, begunAt := s.now, was := (s.engAt (9 * t + d)).st
                     role := (s.trainAt t).spare }
  (s.modEng (9 * t + d) (fun e => if loaded && e.st == .service then e else { e with st := .recover, run := .parked })).modTrain t
    (fun x => { x with
      rot := none, spare := if x.spare == some d || x.spare == some src then none else x.spare
      sub := some (x.sub.getD u), more := if x.sub.isSome then x.more ++ [u] else x.more })

/-- SUBST for the substitutions that began in this tick, with the fenced engine in ARG (R319; log entry 70). -/
def State.raiseSubst (s : State) : State :=
  s.train.foldl (fun s p => (p.2.subs.filter (fun u => u.begunAt == s.now)).foldl (fun s u =>
    s.raiseLow { w := 72 + p.1, src := 11, arg := some (9 * p.1 + u.src) }) s) s

/-- The substitution `u` of a train is over. -/
def Train.endSub (x : Train) (u : Subst) : Train :=
  let l := x.subs.filter (fun v => v != u)
  { x with sub := l.head?, more := l.drop 1 }

/-- What the tourbillon does about fenced engine `e` of train `t` that held position `pos` (R339); nothing in SAFE (R318). -/
def State.substitute (s : State) (t e : Nat) (pos : Option Nat) : State :=
  if s.gf.safe then s
  else
    let x := s.trainAt t
    match x.rot with
    | some r =>
      if e = r.dst then
        if r.moved then s.beginSub t r.pos e r.src true
        else (s.modTrain t (fun x => { x with rot := none, spare := none })).noSpare t
      else if e = r.src then s.beginSub t r.pos e r.dst r.loaded
      else match pos with
        | none => s
        | some p =>
          if r.moved then
            ((s.modTrain t (fun x => { x with rot := some { r with third := r.third ++ [p] } })).unserve t p).noSpare t
          else s.beginSub t p e r.dst false
    | none =>
      match x.subs.find? (fun u => u.dst == e) with
      | some u => ((s.modTrain t (fun x => x.endSub u)).unserve t u.pos).noSpare t
      | none =>
        if x.spare = some e then (s.modTrain t (fun x => { x with spare := none })).noSpare t
        else match pos with
          | none => s
          | some p =>
            match x.spare with
            | some d => if (s.engAt (9 * t + d)).st == .spare || (s.engAt (9 * t + d)).st == .test then s.beginSub t p e d false
                        else (s.unserve t p).noSpare t
            | none => (s.unserve t p).noSpare t

/-- Fence of engine `k` (R317, R337). `retestable` is false for a fence that bars a retest (R340). -/
def State.fenceEngine (s : State) (k : Nat) (retestable : Bool) : State :=
  let e := s.engAt k
  if e.st == .off || e.st == .fenced then s
  else
    let pos := s.posOfEng (k / 9) (k % 9)
    let grps := s.groupsOn (· == k)
    let s := s.cutEngine k
    let s := s.modEng k (fun e => { e with retestable := retestable })
    let s := s.openQuench (.engine k) grps
    s.substitute (k / 9) (k % 9) pos

/-- Fence of train `t`: nine engines and 17 banks, none substituted (R317). -/
def State.fenceTrain (s : State) (t : Nat) : State :=
  if s.fences.contains (Target.train t) then s
  else
    let grps := s.groupsOn (fun k => k / 9 == t)
    let s := { s with fences := s.fences ++ [Target.train t] }
    let s := (List.range 9).foldl (fun s e =>
      let k := 9 * t + e
      if (s.engAt k).st == .off then s
      else (s.cutEngine k).modEng k (fun e => { e with retestable := false })) s
    let s := s.modTrain t (fun x => { x with rot := none, sub := none, more := [], spare := none })
    s.openQuench (.train t) grps

/-- Stops a streamer queue and drops its requests (11 R305, R317). -/
def State.stopQueue (s : State) (t q : Nat) : State :=
  s.modTrain t (fun x => { x with str := { x.str with
    stop := x.str.stop ||| (1#16 <<< q), fifo := x.str.fifo.filter (fun r => r.q != q) } })

/-- The fence of a target (R317). A fence of the link stops sending: halves of a frame that have not left are lost (13 R361). -/
def State.fence (s : State) (x : Target) (retestable : Bool) : State :=
  match x with
  | .engine k => s.fenceEngine k retestable
  | .train t => s.fenceTrain t
  | .queue t q =>
    let s := s.stopQueue t q
    if s.fences.contains x then s else ({ s with fences := s.fences ++ [x] }).openQuench x []
  | .link => if s.fences.contains x then s
    else ({ s with fences := s.fences ++ [x], link := { s.link with tx := [] } }).openQuench x []
  | _ => if s.fences.contains x then s else ({ s with fences := s.fences ++ [x] }).openQuench x []

/-- The fence target of a source; a forced event stands for unit number 0 where its detail names none (R319, log entry 15). -/
def Ev.target (ev : Ev) : Option Target :=
  match ev.tgt with
  | some x => some x
  | none =>
    if ev.w < 72 then some (.engine ev.w)
    else if ev.w < 80 then
      let t := ev.w - 72
      match ev.src with
      | 1 | 2 | 4 => some (.bank t 0)
      | 6 | 7 => some (.queue t 0)
      | _ => some (Target.train t)
    else match ev.w, ev.src with
      | 82, 0 | 82, 1 | 82, 2 => some (.sample 0)
      | 82, _ => some (.command 0)
      | 86, _ => some .link
      | _, _ => none

/-- Raises a source: status, capture, count and the reaction of its severity (R315, R322, R324). -/
def State.raise (s : State) (ev : Ev) : State :=
  if !s.enabled ev then s
  else
    let q := s.quenched ev
    let v := s.evSev ev
    let s := s.record ev
    if q then s
    else match v with
      | 2 => s.degradeAct ev
      | 3 => match ev.target with
        | some x => s.fence x (!(decide (ev.w < 72) && (ev.src == 11 || ev.src == 13 || ev.src == 14)))
        | none => s
      | 4 => s.safeReact ev.w ev.src false
      | _ => s

/-- MEM_UE for the 64-bit word of key `a` (11 R286, R300). -/
def State.raiseMemUE (s : State) (a : Nat) : State :=
  let ta := areaOf a
  s.raise { w := 72 + ta.1, src := 1, arg := some ta.2, addr := BitVec.ofNat 32 ((arrOf a).2 / 8 * 8), bank := bankOf a
            tgt := match bankOf a, (arrOf a).1 with
              | some b, _ => some (.bank b.1 b.2)
              | none, .ls k => some (.engine k)
              | none, _ => none }

/-- A reader corrects a single-bit error of the 64-bit word of key `a`: MEM_CE (11 R286, R300), and CE of the engine for its
local store (12 R319). A fenced bank is neither read nor merged into (11 R301). No rule gives the form of the address, so FW_ADDR is a
free value (log entry 8). -/
def State.noteWord (s : State) (a : Nat) : State :=
  if s.ce.contains (a / 8 * 8) && !s.bankFenced a then
    let d := s.draw
    match (arrOf a).1 with
    | .ls k => (d.2.raiseInfo { w := k, src := 0, addr := d.1 }).raiseInfo { w := 72 + k / 9, src := 0, addr := d.1 }
    | _ => d.2.raiseInfo { w := 72 + (areaOf a).1, src := 0, addr := d.1 }
  else s

/-- The single-bit errors that a read of `n` bytes from `a` corrects, word by word. -/
def State.noteCE (s : State) (a n : Nat) : State :=
  let s := s.noteWord a
  if (a + n - 1) / 8 = a / 8 then s else s.noteWord (a + n - 1)

/-- A word as the streamer reads it: zero from a fenced bank (11 R301), a free value with MEM_UE from an uncorrectable word
(11 R300, log entry 8). -/
def State.strRead (s : State) (a : Nat) : Word × State :=
  if s.bankFenced a then (0, s)
  else if s.isUE a then let d := s.draw; (d.1, d.2.raiseMemUE a)
  else (s.rd32 a, s.noteCE a 4)

/-- Word `w` of the published copy of a context's block as the remontoire or the link reads it: a single-bit error is corrected
(11 R300, R301). -/
def State.pubRead (s : State) (gen : Bool) (lctx w : Nat) : Word × State :=
  (s.pubWord gen lctx w,
    match (s.img gen).block lctx with
    | some b =>
      let a := s.blockKey gen b (s.pubHalf gen lctx) w
      if w < 2 * b.length ∧ !s.bankFenced a then s.noteWord a else s
    | none => s)

/-- The word of key `a` reads as uncorrectable: it is so, or its bank is fenced (11 R301). -/
def State.badWord (s : State) (a : Nat) : Bool := s.isUE a || s.bankFenced a

/-- The single-bit errors that a read of the 64-bit words `l` in order corrects, up to the first uncorrectable one. -/
def State.noteWords (s : State) (l : List Nat) : State := (l.takeWhile (fun a => !s.badWord a)).foldl State.noteWord s

/-- A write of `n` bytes from `a` by an agent, split at 64-bit words; partial writes into an uncorrectable word raise MEM_UE. -/
def State.write (s : State) (a n v : Nat) : State :=
  let n0 := Min.min n (8 - a % 8)
  let s := if n0 = 8 then s else s.noteCE a n
  let r := s.wrWord a n0 (v % 256 ^ n0)
  let s := if r.2 then r.1.raiseMemUE a else r.1
  if n0 < n then
    let r := s.wrWord (a + n0) (n - n0) (v / 256 ^ n0)
    if r.2 then r.1.raiseMemUE (a + n0) else r.1
  else s

/-- As `putRange` by an agent: the words at its ends that are covered in part are read and merged, which corrects a single-bit error and
raises MEM_UE for an uncorrectable one (11 R286, R300). -/
def State.place (s : State) (a : Nat) (l : List Byte) : State :=
  let w0 := a / 8 * 8
  let w1 := (a + l.length) / 8 * 8
  let ends := if l = [] then [] else
    (if a = w0 ∧ a + 8 ≤ a + l.length then [] else [w0]) ++ (if w1 = a + l.length ∨ w1 = w0 then [] else [w1])
  let ends := ends.filter (fun w => !s.bankFenced w)
  let s1 := (ends.foldl State.noteWord s).putRange a l
  (ends.filter s.isUE).foldl State.raiseMemUE s1

/-- ARG of a source that names a context: [9:0] LCTX, [10] GEN (R314). -/
def ctxArg (gen : Bool) (lctx : Nat) : Nat := lctx % 1024 + 1024 * gen.toNat

end Sys2Proof.Machine
end

