-- ==== Sys2Proof/Machine/TrainRegs.lean ====
section
/-! DEFINITION. The train control registers that host and Machine-level code share: streamer, sweep, tourbillon
(spec 11 R299, R304-R306, 12 R336, R340, R343, 17 R423). -/

namespace Sys2Proof.Machine

/-- MSTATE code of an engine state (spec 07 R210). -/
def ES.code : ES → Nat
  | .off => 0 | .start => 1 | .service => 2 | .test => 3 | .recover => 4 | .spare => 5 | .fenced => 6

/-- The image that a queue lookup uses: every RUNNING image (spec 11 R304). -/
def State.queueOf (s : State) (t q : Nat) : Option QueueE :=
  s.gens.findSome? (fun g => if s.running g then (s.img g).queues.find? (fun x => x.train == t && x.qnum == q) else none)

/-- Fenced engines of a train as a 9-bit mask (spec 12 R343). -/
def State.fencedMask (s : State) (t : Nat) : Nat :=
  (List.range 9).foldl (fun a e => if (s.engAt (9 * t + e)).st == .fenced then a + 2 ^ e else a) 0

/-- TRB_STAT (spec 12 R343). -/
def State.trbStat (s : State) (t : Nat) : Word :=
  let x := s.trainAt t
  let migr := match x.rot with
    | some r => if r.loaded then r.pos else 0xF
    | none => 0xF
  let sp := match x.spare with
    | some e => e * 4096 + (s.engAt (9 * t + e)).st.code * 256
    | none => 0xF000
  BitVec.ofNat 32 (s.fencedMask t * 2 ^ 23 + migr * 65536 + sp + x.subcnt.toNat * 16 + x.rotcnt.toNat)

/-- TRB_MAP and TPOS (spec 12 R341, R343). -/
def State.trbMap (s : State) (t : Nat) : Word :=
  BitVec.ofNat 32 ((List.range 8).foldl (fun a p => a + s.engOfPos t p * 16 ^ p) 0)

/-- TSPARE (spec 12 R341). -/
def State.tspare (s : State) (t : Nat) : Word :=
  let x := s.trainAt t
  let sp := match x.spare with
    | some e => e + (s.engAt (9 * t + e)).st.code * 16
    | none => 0xF
  BitVec.ofNat 32 (s.fencedMask t * 256 + sp)

/-- SRC latch of a master (spec 11 R304). -/
def Streamer.src (x : Streamer) (mach : Bool) : Word := if mach then x.srcMach else x.srcHost

/-- A write of STR_CMD: posts or rejects a request (spec 11 R304, R306). ARG of the streamer's sources is the queue (log entry 70). -/
def State.strPost (s : State) (t : Nat) (mach : Bool) (v : Word) : State :=
  let x := (s.trainAt t).str
  let q := v.toNat % 16
  let len := (v.toNat / 65536) * 32
  let src := (x.src mach).toNat
  let bad := decide (16 ≤ x.fifo.length) || s.gf.safe || x.stop.getLsbD q || len == 0 ||
    decide (src < 0x40000000 ∨ 0x80000000 < src + len) || (s.link.en && s.link.rxTrain.toNat == t && s.link.rxq.toNat == q) ||
    (match s.queueOf t q with
     | some e => decide (e.maxreq < len)
     | none => true)
  if bad then
    (s.modTrain t (fun x => { x with str := { x.str with reject := true } })).raiseInfo { w := 72 + t, src := 5, arg := some q }
  else
    s.modTrain t (fun x => { x with str := { x.str with
      fifo := x.str.fifo ++ [{ q := q, src := src, left := len, tag := v.extractLsb' 8 8 }] } })

/-- A write of STR_QSTOP: RD := WR in the header of each stopped queue named, and the queue restarts. A fenced queue is stopped as on
STR_PTR, so its fence and its quench window end with the restart (spec 11 R306, 12 R317, R324). -/
def State.strRestart (s : State) (t : Nat) (v : Word) : State :=
  (List.range 16).foldl (fun s q =>
    let x := (s.trainAt t).str
    if v.getLsbD q && x.stop.getLsbD q then
      let s := { s with
        fences := s.fences.filter (fun y => y != Target.queue t q), quench := s.quench.filter (fun y => y.target != Target.queue t q) }
      let s := s.modTrain t (fun x => { x with str := { x.str with stop := x.str.stop &&& ~~~(1#16 <<< q) } })
      match s.queueOf t q with
      | some e => let h := tmKey t e.base
                  if s.bankFenced h then s else let r := s.strRead h; r.2.write (h + 8) 4 r.1.toNat
      | none => s
    else s) s

/-- The self-test program overwrites the whole local store of engine `k`; what it leaves is free (spec 11 R288; log entry 8). -/
def State.overwriteStore (s : State) (k : Nat) : State :=
  let n := s.freeCtr
  { s with freeCtr := n + 0x4000 }.putRange (lsKey k 0)
    ((List.range 0x4000).flatMap (fun i => leBytes 4 (Config.freeWord (n + i)).toNat))

/-- Engine `k` enters TEST: the self-test program of the tourbillon ROM runs at Machine level (spec 12 R336). -/
def State.enterTest (s : State) (k : Nat) : State :=
  (s.overwriteStore k).modEng k (fun e => { e with
    st := .test, run := .mach none, mstop := false, standby := false, retest := false, icache := [], lb := {}, tbuf := [], pair := none
    fill := none, fetch := none, begun := .none, stopReq := none, late := none, mb := { e.mb with docc := 0, rocc := 0, nest := 0, pc := 0, level := 3, db := true } })

/-- A write of TRB_RETEST (spec 12 R340). A quench window without a replacement ends with the fence (R324). -/
def State.trbRetest (s : State) (t : Nat) (v : Word) : State :=
  (List.range 9).foldl (fun s e =>
    let k := 9 * t + e
    let x := s.engAt k
    let tr := s.trainAt t
    if v.getLsbD e && x.st == .fenced && x.retestable &&
        !(s.rmt.startedSecured && s.quench.any (fun q => q.target == .engine k)) &&
        !(tr.spare.isSome && tr.unserved == []) then
      (({ s with quench := s.quench.filter (fun q => !(q.target == Target.engine k && q.closeAt.isNone)) }).enterTest k).modEng k
        (fun e => { e with retest := true })
    else s) s

/-- SWP_STAT without its read effect (spec 11 R299). -/
def Sweep.stat (x : Sweep) : Word :=
  BitVec.ofNat 32 (x.skips * 65536 + x.eccchk.toNat * 8 + x.fail.toNat * 4 + x.ue.toNat * 2 + x.ce.toNat)

/-- STR_STAT (spec 11 R306). -/
def Streamer.stat (x : Streamer) : Word :=
  BitVec.ofNat 32 (x.doneCnt.toNat * 65536 + (16 - x.fifo.length) * 256 + x.ptr.toNat * 8 + x.berr.toNat * 4 +
    x.reject.toNat * 2 + (decide (x.fifo ≠ [])).toNat)

/-- Reads offset `x` of the train control registers 0x100-0x30B; `mach` selects the master, `quiet` keeps RC fields.
`none` for an undefined offset. -/
def State.trainCtlRead (s : State) (t x : Nat) (mach quiet : Bool) : Option (Word × State) :=
  let tr := s.trainAt t
  match x with
  | 0x100 => some (tr.str.src mach, s)
  | 0x104 => some (0, s)
  | 0x108 => some (tr.str.stat, s)
  | 0x10C => some (tr.str.stop.setWidth 32, s)
  | 0x200 => some (BitVec.ofNat 32 (tr.swp.lsEn.toNat * 2 + tr.swp.tmEn.toNat), s)
  | 0x204 => some (tr.swp.stat, if quiet then s else s.modTrain t (fun x => { x with swp := { x.swp with skips := 0 } }))
  | 0x208 => some (tr.swp.addr, s)
  | 0x20C => some (tr.swp.pass, s)
  | 0x300 => some (s.trbStat t, s)
  | 0x304 => some (s.trbMap t, s)
  | 0x308 => some (0, s)
  | _ => none

/-- Writes offset `x` of the train control registers. `none` for an undefined offset. -/
def State.trainCtlWrite (s : State) (t x : Nat) (mach : Bool) (v : Word) : Option State :=
  match x with
  | 0x100 => some (s.modTrain t (fun y => { y with str :=
      if mach then { y.str with srcMach := v &&& 0xFFFFFFE0 } else { y.str with srcHost := v &&& 0xFFFFFFE0 } }))
  | 0x104 => some (s.strPost t mach v)
  | 0x108 => some (s.modTrain t (fun y => { y with str := { y.str with
      ptr := y.str.ptr && !v.getLsbD 3, berr := y.str.berr && !v.getLsbD 2, reject := y.str.reject && !v.getLsbD 1 } }))
  | 0x10C => some (s.strRestart t v)
  | 0x200 => some (if s.rmt.startedSecured then s else
      s.modTrain t (fun y => { y with swp := { y.swp with lsEn := v.getLsbD 1, tmEn := v.getLsbD 0 } }))
  | 0x204 => some (s.modTrain t (fun y => { y with swp := { y.swp with
      eccchk := y.swp.eccchk && !v.getLsbD 3, fail := y.swp.fail && !v.getLsbD 2
      ue := y.swp.ue && !v.getLsbD 1, ce := y.swp.ce && !v.getLsbD 0 } }))
  | 0x208 | 0x20C | 0x300 | 0x304 => some s
  | 0x308 => some (s.trbRetest t v)
  | _ => none

end Sys2Proof.Machine
end

