-- ==== Sys2Proof/Machine/Operands.lean ====
section
/-! DEFINITION. Operand forms: the two stacks, auxiliary registers, A-register addressing, fault and wait outcomes
(spec 03 R61-R79, 04 R90-R93, R107-R108, 05 R116). -/

namespace Sys2Proof.Machine

/-- An engine fault (spec 07 R184); `reti` marks a failed RETI check (R195), `csr` the number of a faulting CSR write (R204),
`key` the memory key of the word an ECC_UE has read. -/
structure Flt where
  code : Nat
  arg : Nat := 0
  addr : Word := 0
  reti : Bool := false
  csr : Nat := 0
  key : Option Nat := none
  deriving DecidableEq, Repr

/-- ILLEGAL. -/
def Flt.illegal : Flt := { code := 1 }
/-- MISALIGN at an address. -/
def Flt.misalign (a : Word) : Flt := { code := 2, addr := a }
/-- BERR at an address. -/
def Flt.berr (a : Word) : Flt := { code := 3, addr := a }
/-- PRIV with its subcause (spec 07 R201). -/
def Flt.priv (arg : Nat) (a : Word := 0) : Flt := { code := 5, arg := arg, addr := a }
/-- ECC_UE at a 64-bit line of memory. -/
def Flt.ecc (a : Word) (key : Option Nat := none) : Flt := { code := 0xB, addr := a, key := key }

/-- How one execution of an instruction ends: it completes, changes flow, leaves PC on itself (a wait or an element
boundary), faults with the progress its section defines, or has already settled the engine's state itself. -/
inductive IRes where
  | done (s : State) (c : Ctx) (cost : Nat)
  | flow (s : State) (c : Ctx) (target : Word) (cost : Nat)
  | wait (s : State) (c : Ctx) (cost : Nat)
  | fault (s : State) (c : Ctx) (f : Flt)
  | ended (s : State)

/-- The state that an outcome carries. -/
def IRes.state : IRes → State
  | .done s _ _ => s
  | .flow s _ _ _ => s
  | .wait s _ _ => s
  | .fault s _ _ => s
  | .ended s => s

/-- What stands in the way of an instruction: a fusee batch (R73) or a fault. -/
inductive Stop where
  | fusee (op : FuseeOp)
  | flt (f : Flt)
  deriving DecidableEq, Repr

/-- The instruction at PC of engine `k` has begun as `b` says. -/
def State.begin (s : State) (k : Nat) (b : Begun) : State := s.modEng k (fun e => { e with begun := b })

/-- An instruction that waits inside itself keeps a value it has read. -/
def Begun.within : Begun → Begun
  | .value v => .value v
  | _ => .inner

/-- The outcome of a stop: a wait for the fusee, in empty beats while the store buffer holds its batch off (R73), or the fault. The
beats of the batch are its words. -/
def Stop.res (x : Stop) (k : Nat) (s : State) (c : Ctx) : IRes :=
  match x with
  | .fusee op => .wait (s.modEng k (fun e => { e with fusee := some op, begun := e.begun.within })) c
      (if (s.engAt k).sbuf = [] then 0 else 1)
  | .flt f => .fault s c f

/-! ### Upsets of the bore (R68) -/

/-- Place of the context record among the marks of a bank. -/
def recordPlace : Nat := 64

/-- A whole write gives place `w` of a bank valid check bits. -/
def Ctx.valid (c : Ctx) (w : Nat) : Ctx := { c with bad := c.bad.filter (· ≠ w), cor := c.cor.filter (· ≠ w) }

/-- No word of the bank and no field of its record is upset. -/
def Ctx.sound (c : Ctx) : Bool := c.bad == [] && c.cor == []

/-! ### Data stack -/

/-- The bank word of data entry `i`, counted from T (R64, R65). -/
def Ctx.dataAt (c : Ctx) (i : Nat) : Nat := (c.dtop.toNat + 32 - i % 32) % 32
/-- Data entry `i`, counted from T (R64, R65). -/
def Ctx.data (c : Ctx) (i : Nat) : Word := c.dw.get (fun _ => 0) (c.dataAt i)
/-- T. -/
def Ctx.t (c : Ctx) : Word := c.data 0
/-- The `n` youngest data entries, T first. -/
def Ctx.top (c : Ctx) (n : Nat) : List Word := (List.range n).map c.data
/-- Writes data entry `i`. -/
def Ctx.setData (c : Ctx) (i : Nat) (v : Word) : Ctx :=
  { c.valid (c.dataAt i) with dw := c.dw.set (fun _ => 0) (c.dataAt i) v }
/-- Pushes one data entry. -/
def Ctx.push (c : Ctx) (v : Word) : Ctx :=
  let p := c.dtop + 1
  { c.valid p.toNat with dw := c.dw.set (fun _ => 0) p.toNat v, dtop := p, docc := c.docc + 1 }
/-- Discards `n` data entries. -/
def Ctx.drop (c : Ctx) (n : Nat) : Ctx := { c with dtop := c.dtop - BitVec.ofNat 5 n, docc := c.docc - n }
/-- Pushes a list, first element first. -/
def Ctx.pushAll (c : Ctx) : List Word → Ctx
  | [] => c
  | v :: r => (c.push v).pushAll r
/-- Takes `n` entries and pushes results, bottom first. -/
def Ctx.replace (c : Ctx) (n : Nat) (res : List Word) : Ctx := (c.drop n).pushAll res

/-- Size of the data spill area in words (spec 03 R83). -/
def Ctx.dsize (c : Ctx) : Nat := (c.dspill.extractLsb' 16 13).toNat
/-- Size of the return spill area in words. -/
def Ctx.rsize (c : Ctx) : Nat := (c.rspill.extractLsb' 16 13).toNat

/-- The data entries an instruction consumes (R63, R73, R75). -/
def Ctx.needData (c : Ctx) (n : Nat) : Option Stop :=
  if n ≤ c.docc then none
  else if 0 < c.dused then some (.fusee .fillData) else some (.flt { code := 8 })

/-- Room for the entries an instruction leaves, counted after those it takes (R73, R75). -/
def Ctx.roomData (c : Ctx) (pop push : Nat) : Option Stop :=
  if c.docc + push ≤ 32 + pop then none
  else if c.dused < c.dsize then some (.fusee .spillData) else some (.flt { code := 6 })

/-! ### Return stack -/

/-- KIND of a tag {KIND[4:3], MASK[2:0]} (R62; log entry 10). -/
def tagKind (t : BitVec 5) : Nat := t.toNat / 8
/-- The window position of return entry `i`, counted from RT. -/
def Ctx.retAt (c : Ctx) (i : Nat) : Nat := (c.rtop.toNat + 16 - i % 16) % 16
/-- Return entry `i`, counted from RT. -/
def Ctx.ret (c : Ctx) (i : Nat) : Word := c.rw.get (fun _ => 0) (c.retAt i)
/-- Tag of return entry `i`. -/
def Ctx.rtag (c : Ctx) (i : Nat) : BitVec 5 := c.rt.get (fun _ => 0) (c.retAt i)
/-- Writes return entry `i` with its tag. -/
def Ctx.setRet (c : Ctx) (i : Nat) (v : Word) (tag : BitVec 5) : Ctx :=
  { c.valid (32 + c.retAt i) with rw := c.rw.set (fun _ => 0) (c.retAt i) v, rt := c.rt.set (fun _ => 0) (c.retAt i) tag }
/-- Pushes one return entry with its tag. -/
def Ctx.rpush (c : Ctx) (v : Word) (tag : BitVec 5) : Ctx :=
  let p := c.rtop + 1
  { c.valid (32 + p.toNat) with rw := c.rw.set (fun _ => 0) p.toNat v, rt := c.rt.set (fun _ => 0) p.toNat tag, rtop := p, rocc := c.rocc + 1 }
/-- Discards `n` return entries. -/
def Ctx.rdrop (c : Ctx) (n : Nat) : Ctx := { c with rtop := c.rtop - BitVec.ofNat 4 n, rocc := c.rocc - n }

/-- The return entries an instruction consumes (R63, R73). -/
def Ctx.needRet (c : Ctx) (n : Nat) : Option Stop :=
  if n ≤ c.rocc then none
  else if 0 < c.rused then some (.fusee .fillReturn) else some (.flt { code := 8 })

/-- Room for return entries (R73, R75). -/
def Ctx.roomRet (c : Ctx) (push : Nat) : Option Stop :=
  if c.rocc + push ≤ 16 then none
  else if c.rused < c.rsize then some (.fusee .spillReturn) else some (.flt { code := 7 })

/-! ### Auxiliary registers (R90-R93, R108) -/

/-- Register `r` of group 15: A0-A3, I, C, FL, MODE. -/
def Ctx.auxR (c : Ctx) (r : Nat) : Word := c.aux.get (fun _ => 0) r
/-- Writes a register; reserved bits of FL and MODE are ignored (R92, R93). -/
def Ctx.setAux (c : Ctx) (r : Nat) (v : Word) : Ctx :=
  let v := if r = 6 then v &&& 0x1F else if r = 7 then v &&& 0xF else v
  { c.valid (48 + r) with aux := c.aux.set (fun _ => 0) r v }
/-- FL. -/
def Ctx.fl (c : Ctx) : Fl := Fl.ofWord (c.auxR 6)
/-- Writes FL. -/
def Ctx.setFl (c : Ctx) (f : Fl) : Ctx := c.setAux 6 f.toWord
/-- MODE. -/
def Ctx.md (c : Ctx) : Md := Md.ofWord (c.auxR 7)
/-- The count register C. -/
def Ctx.cnt (c : Ctx) : Nat := (c.auxR 5).toNat
/-- A shadow-bank word (spec 07 R200). -/
def Ctx.shw (c : Ctx) (i : Nat) : Word := c.sh.get (fun _ => 0) i
/-- Writes a shadow-bank word. -/
def Ctx.setSh (c : Ctx) (i : Nat) (v : Word) : Ctx := { c.valid (56 + i) with sh := c.sh.set (fun _ => 0) i v }

/-- Sets FL.S when a result clamped (R92). -/
def Ctx.stick (c : Ctx) (b : Bool) : Ctx := if b then c.setFl { c.fl with s := true } else c

/-! ### A-register addressing (R107, R138) -/

/-- Width in bytes of a width code. -/
def widthBytes (w : BitVec 2) : Nat := 2 ^ w.toNat

/-- Access address and new An of an update code; `none` for a reserved code (R107). -/
def Ctx.addrUpd (c : Ctx) (an : Nat) (w : BitVec 2) (upd : BitVec 3) : Option (Word × Word) :=
  let a := c.auxR an
  let n : Word := BitVec.ofNat 32 (widthBytes w)
  let i := c.auxR 4
  match upd.toNat with
  | 0 => some (a, a)
  | 1 => some (a, a + n)
  | 2 => some (a - n, a - n)
  | 3 => some (a + i, a)
  | 4 => some (a, a + i)
  | _ => none

/-- The words a load of value `v` pushes (R107, R137). -/
def loadWords (w : BitVec 2) (sx : Bool) (v : Nat) : List Word :=
  match w.toNat with
  | 0 => [if sx then (BitVec.ofNat 8 v).signExtend 32 else BitVec.ofNat 32 (v % 256)]
  | 1 => [if sx then (BitVec.ofNat 16 v).signExtend 32 else BitVec.ofNat 32 (v % 65536)]
  | 2 => [BitVec.ofNat 32 v]
  | _ => [BitVec.ofNat 32 v, BitVec.ofNat 32 (v / 2 ^ 32)]

/-- The value a store of a width takes from the top entries: ( x -- ) or ( lo hi -- ) (R107, R137). -/
def Ctx.storeVal (c : Ctx) (w : BitVec 2) : Nat :=
  if w = 3 then (c.data 1).toNat + (c.data 0).toNat * 2 ^ 32 else (c.data 0).toNat % 256 ^ widthBytes w

/-- Entries a store consumes and a load pushes. -/
def widthEntries (w : BitVec 2) : Nat := if w = 3 then 2 else 1

end Sys2Proof.Machine
end

