-- ==== Sys2Proof/Machine/Access.lean ====
section
/-! DEFINITION. Accesses of an engine to its address map: checks, store buffer, windows, comparators
(spec 02 R48-R56, 04 R98-R102, 05 R137-R143, 09 R239-R254, 10 R259-R274, 11 R291-R301, 14 R375-R376). -/

namespace Sys2Proof.Machine

/-- What executes on an engine: CTXID of the running or interrupted context, and the rights of the code. `sel`: a field that
selects by LCTX selects this context (spec 13 R355). -/
structure Who where
  k : Nat
  id : Option Nat
  gen : Bool
  lctx : Nat
  level : Nat
  world : Bool
  db : Bool
  sel : Bool
  deriving DecidableEq, Repr

/-- The code of the context of a slot. -/
def State.whoCtx (s : State) (k slot : Nat) : Who :=
  let c := s.ctxAt (ctxId k slot)
  { k := k, id := some (ctxId k slot), gen := c.gen, lctx := c.lctx, level := c.level.toNat, world := c.world, db := c.db
    sel := s.selected c.gen c.lctx }

/-- The code that engine `k` executes now; Machine-level code has the routes and the world of the interrupted
context (log entry 17). -/
def State.who (s : State) (k : Nat) : Who :=
  match (s.engAt k).run with
  | .ctx slot => s.whoCtx k slot
  | .mach (some slot) => { s.whoCtx k slot with level := 3, db := true }
  | _ => { k := k, id := none, gen := false, lctx := 0x400, level := 3, world := false, db := true, sel := false }

/-- Regions of the engine address map (spec 04 R98). -/
inductive Rgn where
  | ls | tm | sealed | sample | staging | cvc | pub | mbox | ectl | tctl | bnd
  deriving DecidableEq, Repr

/-- The region of an address. -/
def rgnOf (a : Nat) : Option Rgn :=
  if a ≤ 0xFFFF then some .ls
  else if 0x01000000 ≤ a ∧ a ≤ 0x011FFFFF then some .tm
  else if 0x01200000 ≤ a ∧ a ≤ 0x01207FFF then some .sealed
  else if 0x02000000 ≤ a ∧ a ≤ 0x020003FF then some .sample
  else if 0x02100000 ≤ a ∧ a ≤ 0x021004FF then some .staging
  else if 0x02200000 ≤ a ∧ a ≤ 0x022000FF then some .cvc
  else if 0x02300000 ≤ a ∧ a ≤ 0x0237FFFF then some .pub
  else if 0x02400000 ≤ a ∧ a ≤ 0x024007FF then some .mbox
  else if 0x03000000 ≤ a ∧ a ≤ 0x03000FFF then some .ectl
  else if 0x03010000 ≤ a ∧ a ≤ 0x03010FFF then some .tctl
  else if 0x40000000 ≤ a ∧ a ≤ 0x7FFFFFFF then some .bnd
  else none

/-- The dual-world arrangement of the image in force (spec 07 R192). -/
def State.dual (s : State) (gen : Bool) : Bool := (s.img gen).hdr.flags % 2 == 1

/-- Any byte of an access lies in the engine's spill region (spec 03 R70, R71). -/
def Engine.inSpill (e : Engine) (a n : Nat) : Bool :=
  let r := e.spillRgn
  r.getLsbD 29 && decide (a < ((r.extractLsb' 16 13).toNat + 1) * 8 ∧ (r.extractLsb' 0 13).toNat * 8 < a + n)

/-- The context owns or checks the staging channel: `some true` for a checker (spec 04 R101, 12 R330). -/
def State.stagingRight (s : State) (w : Who) (ch : Nat) : Option Bool :=
  match s.outRoute ch with
  | some (gen, r) =>
    if gen = w.gen ∧ r.owner = w.lctx then some false
    else if (s.img gen).faults.any (fun f => match f with
        | .pair _ g _ ck => g == r.group && ck == w.lctx && gen == w.gen
        | _ => false) then some true
    else none
  | none => none

/-- The EVENTS mailbox entry in force for mailbox `m` of train `t`, with its generation (spec 06 R182, 13 R352). -/
def State.mboxEntry (s : State) (t m : Nat) : Option (Bool × MboxE) :=
  s.gens.findSome? (fun gen =>
    ((s.img gen).mboxes.find? (fun x => x.train == t && x.mb == m && s.ctxLive gen x.receiver)).map (fun x => (gen, x)))

/-- Sender or receiver of a mailbox. -/
def State.mboxParty (s : State) (w : Who) (t m : Nat) : Bool :=
  match s.mboxEntry t m with
  | some (gen, x) => gen == w.gen && (x.receiver == w.lctx || x.senders.contains w.lctx)
  | none => false

/-- May load words of a mailbox (spec 06 R427). -/
def State.mboxLoad (s : State) (w : Who) (t m : Nat) : Bool :=
  match s.mboxEntry t m with
  | some (gen, x) => s.mboxParty w t m || !s.dual gen || x.world == w.world
  | none => false

/-- The carried-state blocks of a train under the resident images, with half-0 and half-1 areas (spec 09 R251). -/
def State.areasOf (s : State) (t : Nat) : List (Bool × Nat × Nat) :=
  s.gens.filterMap (fun g => (s.img g).area t |>.map (fun a => (g, a.1, a.2)))

/-- An engine's access of `n` bytes to train-memory offset `x`: its memory key, or `none` for BERR (spec 09 R251). `own` is
set for groups 9-12, SAVEM and LOADM; other accesses never enter an area. -/
def State.tmPlace (s : State) (w : Who) (x n : Nat) (store own : Bool) : Option Nat :=
  let t := trainOf w.k
  if (s.areasOf t).any (fun a => decide (a.2.1 < x + n ∧ x < a.2.1 + 16 * a.2.2)) then
    match (s.img w.gen).area t, (s.img w.gen).block w.lctx with
    | some (base, size), some b =>
      let lo := base + b.offset
      if own && decide (w.level ≠ 3) && b.train == t && decide (lo ≤ x ∧ x + n ≤ lo + 8 * b.length) &&
          !(store && decide (x < lo + 8)) then
        some (tmKey t (if s.pubHalf w.gen w.lctx then x else x + 8 * size))
      else none
    | _, _ => none
  else some (tmKey t x)

/-- The memory key of an engine access, or its fault, in the order BERR, then PRIV (spec 04 R112). -/
def State.memPlace (s : State) (w : Who) (a n : Nat) (store own : Bool) : Except Flt Nat :=
  let addr : Word := BitVec.ofNat 32 a
  if rgnOf a ≠ rgnOf (a + n - 1) then .error (.berr addr)
  else match rgnOf a with
    | some .ls =>
      if w.level ≠ 3 ∧ (s.engAt w.k).inSpill a n then .error (.priv 2 addr) else .ok (lsKey w.k a)
    | some .tm =>
      match s.tmPlace w (a % 0x200000) n store own with
      | some key => .ok key
      | none => .error (.berr addr)
    | some .sealed =>
      if w.level = 3 ∨ (w.level = 1 ∧ w.world ∧ s.dual w.gen) then .ok (seKey (trainOf w.k) (a % 0x8000))
      else .error (.priv 3 addr)
    | _ => .error (.berr addr)

/-! ### The store buffer (spec 02 R48-R53, 11 R292, R308) -/

/-- The entry holds byte `a`. -/
def SBE.holds (e : SBE) (a : Nat) : Bool := decide (e.line ≤ a ∧ a < e.line + 8) && e.mask.getLsbD (a - e.line)

/-- How a load of `n` bytes from `a` meets the store buffer (R53). -/
inductive Fwd where
  | clear
  | hit (v : Nat)
  | overlap
  deriving DecidableEq, Repr

/-- Forwarding decision; the list runs from the youngest entry. -/
def forwardFrom (a n : Nat) : List SBE → Fwd
  | [] => .clear
  | e :: r =>
    if (List.range n).any (fun i => e.holds (a + i)) then
      if (List.range n).all (fun i => e.holds (a + i)) then
        .hit ((e.data.toNat / 256 ^ (a - e.line)) % 256 ^ n)
      else .overlap
    else forwardFrom a n r

/-- Forwarding from the store buffer of engine `k`. -/
def Engine.forward (e : Engine) (a n : Nat) : Fwd := forwardFrom a n e.sbuf.reverse

/-- Bytes of `data` selected by a mask over those of `old`. -/
def mergeMask (mask : BitVec 8) (data old : Word64) : Word64 :=
  (List.range 8).foldl (fun r i =>
    if mask.getLsbD i then (r &&& ~~~(0xFF#64 <<< (8 * i))) ||| (data &&& (0xFF#64 <<< (8 * i))) else r) old

/-- The sealed regions are being wiped after a tamper (spec 11 R308). -/
def State.sealWiping (s : State) (a : Nat) : Bool :=
  s.lcs.wiping && (match (arrOf a).1 with | .sealed _ => true | _ => false)

/-- An entry's bytes enter memory (R50, R51, 11 R286, R301). -/
def State.retireEntry (s : State) (e : SBE) : State :=
  if s.sealWiping e.line || s.bankFenced e.line then s
  else if e.mask = 0xFF then (s.wrWord e.line 8 e.data.toNat).1
  else if s.isUE e.line then s.raiseMemUE e.line
  else
    let s := s.noteCE e.line 8
    (s.wrWord e.line 8 (mergeMask e.mask e.data (s.rd64 e.line)).toNat).1

/-- The oldest store-buffer entry of engine `k` retires. -/
def State.retireOne (s : State) (k : Nat) : State :=
  match (s.engAt k).sbuf with
  | [] => s
  | e :: r => (s.modEng k (fun x => { x with sbuf := r })).retireEntry e

/-- What the executing instruction does with the ports in one beat (spec 02 R32): a restart fetch, its own access to local store, its
own use of the train path in free mode (R291), or neither. -/
inductive Beat where
  | restart | port | train | idle
  deriving DecidableEq, Repr

/-- The beat is free for the local-store port's other agents. -/
def Beat.free : Beat → Bool
  | .restart | .port => false
  | _ => true

/-- The entry goes to a local store. -/
def SBE.isLs (e : SBE) : Bool := match (arrOf e.line).1 with | .ls _ => true | _ => false

/-- One beat of the entry that is next to retire. Deadbeat: a slot is two adjacent beats that qualify (R51). Free: a beat of the
local-store port, or two of the train path (R50). -/
def SBE.beat (db : Bool) (b : Beat) (e : SBE) : SBE :=
  if db then (if b.free then { e with got := e.got + 1, done := e.got == 1 } else { e with got := 0 })
  else if e.isLs then { e with done := b.free }
  else if b = .train then e
  else { e with got := e.got + 1, done := e.got == 1 }

/-- One beat of the store buffer: entries retire in order, each after the beat in which it was written. -/
def sbBeat (db : Bool) (b : Beat) : List SBE → List SBE
  | [] => []
  | e :: r =>
    if e.done then e :: sbBeat db b r
    else (if e.wait = 0 then e.beat db b else { e with wait := e.wait - 1 }) :: r.map (fun x => { x with wait := x.wait - 1 })

/-- The entry that may use this beat to retire. -/
def Engine.retiring (e : Engine) : Option SBE := (e.sbuf.find? (fun x => !x.done)).filter (fun x => x.wait == 0)

/-- A pending sequential fetch is served (R35). -/
def FetchBuf.grant (f : FetchBuf) : FetchBuf := if 0 < f.due then { f with held := f.held + 1, due := f.due - 1 } else f

/-- One beat of the sequential fetch, at priority 5 (R32, R58). A beat that qualified alone began no slot, so the fetch had it. -/
def FetchBuf.beat (f : FetchBuf) (db : Bool) (b : Beat) (retiring : Option SBE) : FetchBuf :=
  let g := { (if !b.free && f.lone then f.grant else f) with lone := false }
  if !b.free then g
  else match retiring with
    | none => g.grant
    | some x =>
      if db then { g with lone := x.got == 0 && decide (0 < f.due) } else if x.isLs then g else g.grant

/-- One beat of an engine's local-store port; an active loop buffer suppresses the fetch (R39). -/
def Engine.beat (e : Engine) (db : Bool) (b : Beat) : Engine :=
  { e with
    sbuf := sbBeat db b e.sbuf
    fetch := if e.lb.active.isSome then e.fetch else e.fetch.map (fun f => f.beat db b e.retiring) }

/-- Beats pass on engine `k`. -/
def State.pass (s : State) (k : Nat) (l : List Beat) : State :=
  s.modEng k (fun e => l.foldl (fun e b => e.beat (s.who k).db b) e)

/-- The entries whose slots have ended are in memory (R51). -/
def State.settle (s : State) (k : Nat) : State :=
  (List.range ((s.engAt k).sbuf.takeWhile (·.done)).length).foldl (fun s _ => s.retireOne k) s

/-- Empty beats pass until the store buffer has room for `n` entries, at most `fuel`: the state and their number (R52, R53). -/
def State.untilRoom (k n : Nat) : Nat → State → Nat → State × Nat
  | 0, s, b => (s, b)
  | fuel + 1, s, b =>
    if (s.engAt k).sbuf.length + n ≤ 4 then (s, b) else State.untilRoom k n fuel ((s.pass k [.idle]).settle k) (b + 1)

/-- Beats of the executing instruction pass, and store-buffer entries that retire in them are in memory. Its cost counts them. -/
def State.elapse (s : State) (k : Nat) (l : List Beat) : State := (s.pass k l).settle k

/-- The drain allowance of a deadbeat load, LOADM or MOVE: eight beats in which the whole store buffer retires in its slots (spec 02
R43, R53, R59). -/
def State.allowance (s : State) (k : Nat) : State := s.elapse k (List.replicate 8 .idle)

/-- The part of a store of `n` bytes at `a` that lies in the line of `a`. -/
def sbPart (a n v : Nat) : SBE :=
  let o := a % 8
  { line := a - o, data := BitVec.ofNat 64 (v % 256 ^ n * 256 ^ o)
    mask := BitVec.ofNat 8 ((2 ^ n - 1) * 2 ^ o) }

/-- Writes a store of `n` bytes into the store buffer; `none` when it must wait (R50, R52, R56). -/
def Engine.bufferStore (e : Engine) (a n v : Nat) (free : Bool) : Option Engine :=
  let n0 := Min.min n (8 - a % 8)
  if n0 < n then
    if 4 < e.sbuf.length + 2 then none
    else some { e with sbuf := e.sbuf ++ [sbPart a n0 v, sbPart (a + n0) (n - n0) (v / 256 ^ n0)] }
  else
    let p := sbPart a n v
    match e.sbuf.getLast? with
    | some y =>
      if free && y.line == p.line && y.got == 0 then
        some { e with sbuf := e.sbuf.dropLast ++
          [{ line := y.line, data := mergeMask p.mask p.data y.data, mask := y.mask ||| p.mask }] }
      else if 4 ≤ e.sbuf.length then none else some { e with sbuf := e.sbuf ++ [p] }
    | none => some { e with sbuf := [p] }

/-! ### Samples (spec 10 R259-R268) -/

/-- The read of channel `ch` in train `t` returns STALE now (R265); a fenced channel reads STALE (12 R317). -/
def State.stale (s : State) (t ch : Nat) : Bool :=
  s.fences.contains (.sample ch) ||
  (match s.schRoute ch with
   | some r =>
     match s.period r.pg with
     | some p =>
       let dt := (p.offset s.now + p.period - r.arrive % p.period) % p.period
       match (s.recAt t ch).arrived with
       | some x => decide (x + p.period + dt ≤ s.now)
       | none => true
     | none => false
   | none => false)

/-- A non-quiet read of channel `ch` by bank `c` on engine `k`: STALE, CONSUMED, the marks and SAMPLE_LATE (R265-R267). -/
def State.readSample (s : State) (k : Nat) (c : Ctx) (ch : Nat) : Bool × Bool × State × Ctx :=
  let t := trainOf k
  let st := s.stale t ch
  let cons := c.marks.contains ch
  let s := if st then s.raise { w := 82, src := 0, arg := some ch, trn := some t, tgt := some (.sample ch) } else s
  (st, cons, s, if cons then c else { c with marks := c.marks ++ [ch] })

/-- Channel `ch` is routed to the engine's train (R179). -/
def State.schRouted (s : State) (k ch : Nat) : Bool := (s.schTrains ch).testBit (trainOf k)

/-! ### Converter commands (spec 10 R272-R275) -/

/-- A state code is outstanding: PENDING, ACCEPTED or DEFERRED. -/
def cvcOut (st : BitVec 4) : Bool := st == 1 || st == 2 || st == 4

/-- The status word (R274). -/
def Cvc.status (x : Cvc) : Word :=
  BitVec.ofNat 32 (x.op.toNat * 2 ^ 28 + x.st.toNat * 2 ^ 24 + x.reason.toNat * 2 ^ 20 + x.pst.toNat * 2 ^ 16 +
    x.ptag.toNat * 256 + x.tag.toNat)

/-- A PENDING command goes to the port, unless an older word is still there (16 R410; log entry 77). -/
def Cvc.present (x : Cvc) : Cvc := if x.st == 1 && !x.stale then { x with req := true, cmd := x.word } else x

/-- An INJECT of the channel is sent and its record not yet delivered. -/
def Cvc.injecting (x : Cvc) : Bool :=
  (x.op == 2 && cvcOut x.st) || (x.pword.extractLsb' 28 4 == 2 && cvcOut x.pst)

/-- Whether a field that the OP does not use is non-zero, or the OP is reserved (R273). -/
def cvcInvalid (v : Word) : Bool :=
  match (v.extractLsb' 28 4).toNat with
  | 1 => false
  | 2 => v.extractLsb' 22 6 != 0
  | 3 => v.extractLsb' 8 20 != 0
  | _ => true

/-- CMD_REJECT of channel `n`. -/
def State.cvcReject (s : State) (n : Nat) : State := s.raise { w := 82, src := 3, arg := some n, tgt := some (.command n) }

/-- A command word stored to channel `n` (R273, R274, 12 R317). -/
def State.cvcStore (s : State) (n : Nat) (v : Word) : State :=
  let x := s.cvcAt n
  let op := v.extractLsb' 28 4
  let can := (!cvcOut x.st || ((x.st == 2 || x.st == 4) && !cvcOut x.pst)) && !(op == 2 && x.injecting)
  if s.fences.contains (.command n) || !can then
    (s.modCvc n (fun x => { x with reason := 1 })).cvcReject n
  else
    let place (st reason : BitVec 4) (x : Cvc) : Cvc :=
      let x := if cvcOut x.st then { x with pst := x.st, ptag := x.tag, pword := x.word } else x
      { x with op := op, st := st, tag := v.extractLsb' 0 8, word := v, reason := reason }
    let kindBad := (op == 2 && Config.sigmaDelta n) || (op == 1 && !Config.sigmaDelta n && v.extractLsb' 22 3 != 0)
    if cvcInvalid v then (s.modCvc n (place 5 2)).cvcReject n
    else if kindBad then (s.modCvc n (place 5 3)).cvcReject n
    else s.modCvc n (fun x => (place 1 0 x).present)

/-! ### Window loads and stores -/

/-- An outlet staging store of engine `k` (spec 09 R240, 12 R330, 16 R404). -/
def State.stagingStore (s : State) (k ch : Nat) (v : Word) (checker : Bool) : State :=
  if checker then s.modOut ch (fun o => { o with check := v, checked := true })
  else
    let s := s.modOut ch (fun o => { o with staging := v, staged := true })
    s.modEng k (fun e => { e with otlReq := !e.otlReq, otlCh := BitVec.ofNat 9 ch, otlD := v })

/-- A mailbox word (spec 06 R180). -/
def Mbox.word (x : Mbox) (i : Nat) : Word :=
  if i < 14 then x.data.get (fun _ => 0) i
  else if i = 14 then x.seq.setWidth 32
  else BitVec.ofNat 32 (x.ovr.toNat * 2 + x.full.toNat)

/-- A store to a mailbox word (spec 06 R180, R427). -/
def Mbox.store (x : Mbox) (i : Nat) (v : Word) : Mbox :=
  if i < 14 then { x with data := x.data.set (fun _ => 0) i v, stored := if x.stored.contains i then x.stored else i :: x.stored }
  else if i = 15 then { x with ovr := x.ovr && !v.getLsbD 1 } else x

/-- A host write of word `i`: an engine's store and an overrun of the same tick come last (spec 17 R419, R425). -/
def Mbox.hostWrite (x : Mbox) (i : Nat) (v : Word) : Mbox :=
  if i < 14 then (if x.stored.contains i then x else { x with data := x.data.set (fun _ => 0) i v })
  else if i = 15 then { x with ovr := x.ovr && (!v.getLsbD 1 || x.ovrNow) } else x

/-- A write to a stimulus port from a source byte (spec 14 R381). -/
def State.stimWrite (s : State) (p : Nat) (v : Word) (src : Byte) : State :=
  if s.dbg.stimen.getLsbD p then s.emit (packet 7 (s.ts ++ [src, BitVec.ofNat 8 p] ++ leBytes 4 v.toNat)) else s

/-- A load of the engine control space (spec 03 R71, 14 R381); other words read a free value (log entry 11). -/
def State.ectlLoad (s : State) (k x : Nat) : Word × State :=
  if x = 0x40 then ((s.engAt k).spillRgn, s)
  else if 0x800 ≤ x ∧ x < 0x900 then (0, s) else s.draw

/-- A store to the engine control space. -/
def State.ectlStore (s : State) (k x : Nat) (v : Word) : State :=
  if 0x800 ≤ x ∧ x < 0x900 then s.stimWrite ((x - 0x800) / 4) v (srcByte k) else s

/-- A load of the train control space by Machine-level code (spec 17 R423); other words read a free value. -/
def State.tctlLoad (s : State) (k x : Nat) (quiet : Bool) : Word × State :=
  match s.trainCtlRead (trainOf k) x true quiet with
  | some r => r
  | none => s.draw

/-- Memory key of byte `o` of the published-state window of train `t` under a generation: `some none` outside every block,
`none` beyond the declared area (spec 04 R98, 09 R254). -/
def State.pubPlace (s : State) (gen : Bool) (t o n : Nat) : Option (Option Nat) :=
  if !s.hasTrain t || s.fences.contains (.train t) then none
  else match (s.img gen).area t with
    | none => none
    | some (base, size) =>
      if 8 * size < o + n then none
      else some (((s.img gen).carries.find? (fun b => b.lctx != 0xFFFF && b.train == t &&
          decide (b.offset ≤ o ∧ o < b.offset + 8 * b.length))).map (fun b =>
        tmKey t (base + o + (s.pubHalf gen b.lctx).toNat * 8 * size)))

/-- Data addresses an access touches, for the comparators (spec 14 R375). -/
def ACmp.hits (cmp prev : ACmp) (odd : Bool) (exec store : Bool) (a n : Nat) : Bool :=
  let kind := (cmp.ctl.extractLsb' 2 2).toNat
  let kindOk := if exec then kind == 0 else if store then kind == 2 || kind == 3 else kind == 1 || kind == 3
  let range := odd && cmp.ctl.getLsbD 4
  let lo := if range then prev.addr.toNat else if exec then cmp.addr.toNat else cmp.addr.toNat / 4 * 4
  let hi := if range then cmp.addr.toNat else if exec then cmp.addr.toNat else cmp.addr.toNat / 4 * 4 + 3
  cmp.ctl.getLsbD 0 && kindOk && decide (a ≤ hi ∧ lo < a + n)

/-- Comparator `i` of an engine matches (spec 14 R375); `vals` are the values a data comparator looks at. -/
def EDbg.matches (d : EDbg) (w : Who) (i : Nat) (exec store : Bool) (a n : Nat) (vals : List Word) : Bool :=
  let at' (j : Nat) : ACmp := d.ac.get (fun _ => {}) j
  let x := at' i
  let shadowed := i % 2 == 0 && (at' (i + 1)).ctl.getLsbD 4 && (at' (i + 1)).ctl.getLsbD 0
  let ctxOk := !x.ctl.getLsbD 7 || (decide (w.level ≠ 3) && w.sel && d.ctxm == BitVec.ofNat 10 w.lctx)
  let link (j : Nat) : Bool := !x.ctl.getLsbD (5 + j) ||
    vals.any (fun v => let c : DCmp := d.dc.get (fun _ => {}) j; (v ^^^ c.val) &&& c.mask == 0)
  !shadowed && ctxOk && x.hits (at' (i - 1)) (i % 2 == 1) exec store a n && link 0 && link 1

/-- A halt request with its cause (spec 14 R366); inside a bracket it is deferred. Ignored in SCRAPPED (R377). -/
def State.requestHalt (s : State) (k : Nat) (cause : BitVec 3) : State :=
  let e := s.engAt k
  if s.lcs.st == .scrapped || e.dbg.halted || e.dbg.pend then s
  else
    let s := s.modEng k (fun e => { e with dbg := { e.dbg with pend := true, pendCause := cause } })
    if e.lock ≠ 0 then
      (s.modEng k (fun e => { e with dbg := { e.dbg with deferred := true } })).raiseInfo { w := 87, src := 1, arg := some k }
    else s

/-- The first comparator whose ACTION includes HALT and that matches. -/
def EDbg.haltMatch (d : EDbg) (w : Who) (exec store : Bool) (a n : Nat) (vals : List Word) : Option Nat :=
  (List.range 4).find? (fun i => d.matches w i exec store a n vals && (d.ac.get (fun _ => {}) i).ctl.getLsbD 8)

/-- What every matching comparator does beside a halt: DBG_ESTAT.CMP, DBG_EWADDR of a data match, TRACE and TRIG (spec 14 R376,
R382). -/
def State.watch (s : State) (w : Who) (exec store : Bool) (a n : Nat) (vals : List Word) : State :=
  (List.range 4).foldl (fun s i =>
    let d := (s.engAt w.k).dbg
    if d.matches w i exec store a n vals then
      let ctl := (d.ac.get (fun _ => {}) i).ctl
      let s := s.modEng w.k (fun e => { e with dbg := { e.dbg with
        cmp := BitVec.ofNat 2 i, ewaddr := if exec then e.dbg.ewaddr else BitVec.ofNat 32 a } })
      let s := if ctl.getLsbD 10 then { s with pins := { s.pins with tapTrig := true } } else s
      if ctl.getLsbD 9 then
        s.emit (packet 6 (s.ts ++ [srcByte w.k, BitVec.ofNat 8 i] ++ leBytes 4 a ++
          leBytes 4 (if exec then 0 else (vals.getD 0 0).toNat)))
      else s
    else s) s

/-- The comparators after a completed data access (spec 14 R376). -/
def State.watchData (s : State) (w : Who) (store : Bool) (a n : Nat) (vals : List Word) : State :=
  let h := (s.engAt w.k).dbg.haltMatch w false store a n vals
  let s := s.watch w false store a n vals
  match h with
  | some i => (s.modEng w.k (fun e => { e with dbg := { e.dbg with cmp := BitVec.ofNat 2 i } })).requestHalt w.k 4
  | none => s

/-- What a load finds: a value with its cost, an uncorrectable word with its cost (11 R301), a wait, a boundary read to issue, or a
fault without an access. Its beats have passed in the state that a value or an uncorrectable word leaves. -/
inductive Ld where
  | val (s : State) (c : Ctx) (v : Nat) (cost : Nat)
  | ue (s : State) (f : Flt) (cost : Nat)
  | wait (s : State)
  | bnd
  | flt (f : Flt)

/-- Checks of a load or store of `n` bytes at `a` in the windows, control and boundary regions, in the order of R112: width
and mode, alignment, rights (spec 04 R98-R101, 05 R141). -/
def State.winCheck (s : State) (w : Who) (r : Rgn) (a n : Nat) (store : Bool) : Except Flt Unit :=
  let addr : Word := BitVec.ofNat 32 a
  let o := a % 0x10000
  let widthOk := match r with
    | .sample | .pub => !store && (n == 4 || n == 8)
    | .bnd => !w.db
    | _ => n == 4
  let inMap := match r with
    | .pub => (s.pubPlace w.gen (a / 0x10000 - 0x230) o n).isSome
    | .ectl => s.variant.optional || !(decide (0x800 ≤ o) && decide (o < 0x900))
    | _ => true
  if rgnOf (a + n - 1) ≠ some r ∨ !widthOk ∨ !inMap then .error (.berr addr)
  else if a % n ≠ 0 then .error (.misalign addr)
  else match r with
    | .sample => if s.schRouted w.k (o / 8) then .ok () else .error (.priv 4 addr)
    | .staging =>
      match s.stagingRight w (o / 4) with
      | some false => .ok ()
      | some true => if store then .ok () else .error (.priv 4 addr)
      | none => .error (.priv 4 addr)
    | .cvc =>
      match s.cvcRoute (o / 4) with
      | some (gen, x) => if gen = w.gen ∧ x.owner = w.lctx then .ok () else .error (.priv 4 addr)
      | none => .error (.priv 4 addr)
    | .mbox =>
      let m := o / 64
      if (if store then s.mboxParty w (trainOf w.k) m else s.mboxLoad w (trainOf w.k) m) then .ok ()
      else .error (.priv 6 addr)
    | .ectl | .tctl => if w.level = 3 then .ok () else .error (.priv 5 addr)
    | _ => .ok ()

/-- The value of a checked window load. -/
def State.winLoad (s : State) (w : Who) (c : Ctx) (r : Rgn) (a n : Nat) (cost : Nat) : Ld :=
  let s := s.elapse w.k (List.replicate cost .idle)
  let o := a % 0x10000
  match r with
  | .sample =>
    let v := (s.recAt (trainOf w.k) (o / 8)).word
    let x := s.readSample w.k c (o / 8)
    .val x.2.2.1 x.2.2.2 ((v.toNat / 256 ^ (a % 8)) % 256 ^ n) cost
  | .staging => .val s c (s.outAt (o / 4)).staging.toNat cost
  | .cvc => .val s c (s.cvcAt (o / 4)).status.toNat cost
  | .pub =>
    match s.pubPlace w.gen (a / 0x10000 - 0x230) o n with
    | some (some key) =>
      match s.firstUE key n with
      | some x => .ue s (.ecc (BitVec.ofNat 32 (a / 8 * 8)) (some x)) cost
      | none => .val (s.noteCE key n) c (s.rdBytes key n) cost
    | _ => .val s c 0 cost
  | .mbox => .val s c ((s.mboxAt (trainOf w.k) (o / 64)).word (o % 64 / 4)).toNat cost
  | .ectl => let x := s.ectlLoad w.k o; .val x.2 c x.1.toNat cost
  | .tctl => let x := s.tctlLoad w.k o false; .val x.2 c x.1.toNat cost
  | _ => .bnd

/-- Table cost of a load from local store, train memory or the sealed region (spec 02 R59, R56). -/
def loadCost (db : Bool) (r : Rgn) (a n : Nat) : Nat :=
  if db then (if r = .ls then 10 else 12)
  else (if r = .ls then 1 else 3) + (if 8 < a % 8 + n then 1 else 0)

/-- `n` bytes at address `a`, memory key `key`, that an engine reads past the store buffer: the state and the value, or ECC_UE
(spec 11 R292, R301, R308). -/
def State.memRead (s : State) (a key n : Nat) : Except Flt (State × Nat) :=
  if s.sealWiping key then .ok (s, 0)
  else match s.firstUE key n with
    | some x => .error (.ecc (BitVec.ofNat 32 (a + x - key)) (some x))
    | none => .ok (s.noteCE key n, s.rdBytes key n)

/-- What the executing instruction does with the ports in a beat of its access to region `r` (R32): a deadbeat train path uses no
port. -/
def accessBeat (db : Bool) (r : Option Rgn) : Beat :=
  match r with
  | some .ls => .port
  | some .tm | some .sealed => if db then .idle else .train
  | _ => .idle

/-- The beats of a load of cost `cost` from region `r` that lie behind its drain allowance (R32, R59). -/
def ownBeats (db : Bool) (r : Rgn) (cost : Nat) : List Beat :=
  List.replicate (if db then cost - 8 else cost) (accessBeat db (some r))

/-- The beats of a load that reads memory pass: in deadbeat mode its drain allowance first (R59). -/
def State.loadBeats (s : State) (w : Who) (l : List Beat) : State := (if w.db then s.allowance w.k else s).elapse w.k l

/-- A load that reads memory at key `key`, behind its drain allowance in deadbeat mode. Its table cost counts also when it meets an
uncorrectable word (11 R301). -/
def State.memLoad (s : State) (w : Who) (c : Ctx) (r : Rgn) (a key n : Nat) : Ld :=
  let cost := loadCost w.db r a n
  let s := s.loadBeats w (ownBeats w.db r cost)
  match s.memRead a key n with
  | .ok (s, v) => .val s c v cost
  | .error f => .ue s f cost

/-- A load of `n` bytes at `a` by the code `w` with bank `c` (spec 05 R139-R143). The store buffer as the load finds it decides between
memory and a forwarded value, which makes no access in free mode; in deadbeat mode the beats are the same (02 R43). In free mode a
load that overlaps it otherwise waits, once it waits until the buffer is empty (02 R53). -/
def State.load (s : State) (w : Who) (c : Ctx) (a n : Nat) : Ld :=
  match rgnOf a with
  | none => .flt (.berr (BitVec.ofNat 32 a))
  | some r =>
    if r = .ls ∨ r = .tm ∨ r = .sealed then
      match s.memPlace w a n false true with
      | .error f => .flt f
      | .ok key =>
        let e := s.engAt w.k
        let fwd := e.forward key n
        if !w.db && (fwd == .overlap || (e.begun == .inner && e.sbuf != [])) then .wait (s.begin w.k .inner)
        else match fwd with
          | .hit v =>
            let cost := loadCost w.db r a n
            .val (s.loadBeats w (if w.db then ownBeats true r cost else List.replicate cost .idle)) c v cost
          | _ => s.memLoad w c r a key n
    else
      match s.winCheck w r a n false with
      | .error f => .flt f
      | .ok _ => if r = .bnd then .bnd else s.winLoad w c r a n (if w.db then 4 else 3)

/-- Boundary address `a` on the memory initiator: BND_BASE of the image in whose name the code runs, and AxPROT (spec 04 R102,
16 R413). -/
def State.bndAddr (s : State) (w : Who) (a : Nat) (fetch : Bool) : MemAddr :=
  { host := BitVec.ofNat 64 ((s.img w.gen).hdr.bndBase + (a - 0x40000000))
    id := BitVec.ofNat 8 (0x80 + w.k), cache := if fetch then 2 else 0
    prot := BitVec.ofNat 3 (fetch.toNat * 4 + (!(w.world && s.dual w.gen)).toNat * 2 + (w.level == 1).toNat) }

/-- What a store does: it is done, waits, or faults. -/
inductive Str where
  | ok (s : State)
  | wait (s : State)
  | flt (f : Flt)

/-- A store of the `n` low bytes of `v` at `a` (spec 02 R48-R52, 05 R139-R142). -/
def State.store (s : State) (w : Who) (a n v : Nat) : Str :=
  match rgnOf a with
  | none => .flt (.berr (BitVec.ofNat 32 a))
  | some r =>
    if r = .ls ∨ r = .tm ∨ r = .sealed then
      match s.memPlace w a n true true with
      | .error f => .flt f
      | .ok key =>
        match (s.engAt w.k).bufferStore key n v (!w.db) with
        | some e => .ok (s.setEng w.k e)
        | none => .wait (s.begin w.k .inner)
    else
      match s.winCheck w r a n true with
      | .error f => .flt f
      | .ok _ =>
        let o := a % 0x10000
        let word : Word := BitVec.ofNat 32 v
        let e := s.engAt w.k
        match r with
        | .staging => .ok (s.stagingStore w.k (o / 4) word (s.stagingRight w (o / 4) == some true))
        | .bnd =>
          if 8 ≤ e.bq.length then .wait (s.modEng w.k (fun e => { e with begun := .boundary }))
          else .ok (s.modEng w.k (fun e => { e with bq := e.bq ++
            [{ addr := BitVec.ofNat 32 a, bytes := n, data := BitVec.ofNat 64 v, ctxid := w.id.getD 0, gen := w.gen
               lctx := w.lctx, builds := (s.ctxAt (w.id.getD 0)).builds
               bus := { s.bndAddr w a false with bytes := n } }] }))
        | _ =>
          if e.sbuf ≠ [] then .wait (s.begin w.k .inner)
          else match r with
            | .cvc => .ok (s.cvcStore (o / 4) word)
            | .mbox => .ok (s.modMbox (trainOf w.k) (o / 64) (fun m => m.store (o % 64 / 4) word))
            | .ectl => .ok (s.ectlStore w.k o word)
            | .tctl => .ok ((s.trainCtlWrite (trainOf w.k) o true word).getD s)
            | _ => .ok s

end Sys2Proof.Machine
end

