-- ==== Sys2Proof/Machine/Entry.lean ====
section
/-! DEFINITION. Taking a fault or event entry, the fusee's batches, and the return (spec 03 R70-R76, 07 R184-R208). -/

namespace Sys2Proof.Machine

/-! ### The running bank -/

/-- The bank in use on engine `k`: the running context's or the Machine bank (spec 07 R200). -/
def State.bank (s : State) (k : Nat) : Ctx :=
  match (s.engAt k).run with
  | .ctx slot => s.ctxAt (ctxId k slot)
  | _ => (s.engAt k).mb

/-- Writes the bank in use. -/
def State.setBank (s : State) (k : Nat) (c : Ctx) : State :=
  match (s.engAt k).run with
  | .ctx slot => s.setCtx (ctxId k slot) c
  | _ => s.modEng k (fun e => { e with mb := c })

/-- The running or interrupted context of engine `k`. -/
def State.ctxOn (s : State) (k : Nat) : Option Nat :=
  match (s.engAt k).run with
  | .ctx slot => some (ctxId k slot)
  | .mach (some slot) => some (ctxId k slot)
  | _ => none

/-- Counts beats of the running or interrupted context (spec 02 R31, 07 R197). -/
def State.addBeats (s : State) (k n : Nat) : State :=
  match s.ctxOn k with
  | some id => s.modCtx id (fun c => { c with beats := c.beats + n })
  | none => s

/-- Beats of an entry and of RETI: two of them restart (spec 02 R36, 07 R197). -/
def entryBeats : List Beat := List.replicate 4 .idle ++ List.replicate 2 .restart

/-- A single-bit error of the bore or a parity error of a cache line of engine `k` (02 R47, 03 R68); FW_ADDR is free (log
entry 44). -/
def State.reportCE (s : State) (k : Nat) : State := let d := s.draw; d.2.raiseInfo { w := k, src := 0, addr := d.1 }

/-! ### The fusee (spec 03 R70-R76) -/

/-- What a batch has done: state, bank, and the address of the word that was uncorrectable. -/
abbrev Batch := State × Ctx × Option Word

/-- An uncorrectable bore word stops a batch; it has no address (R68, log entry 44). -/
def Batch.upset (p : Batch) : Batch := let d := p.1.draw; (d.2, p.2.1, some d.1)

/-- A corrected bore word is reported (R68). -/
def Batch.report (k : Nat) (c : Ctx) (l : List Nat) (s : State) : State :=
  if l.any c.cor.contains then s.reportCE k else s

/-- Spills one word of the two oldest data entries. -/
def spillDataWord (k : Nat) (p : Batch) : Batch :=
  let c := p.2.1
  let l := [c.dataAt (c.docc - 1), c.dataAt (c.docc - 2)]
  if p.2.2.isSome ∨ c.docc < 2 ∨ c.dsize ≤ c.dused then p
  else if l.any c.bad.contains then p.upset
  else
    let lo := c.data (c.docc - 1)
    let hi := c.data (c.docc - 2)
    let a := lsKey k (8 * ((c.dspill.extractLsb' 0 13).toNat + c.dused))
    (Batch.report k c l (p.1.wrWord a 8 (lo.toNat + hi.toNat * 2 ^ 32)).1, { c with docc := c.docc - 2, dused := c.dused + 1 }, none)

/-- Spills the oldest return entry with its tag. -/
def spillRetWord (k : Nat) (p : Batch) : Batch :=
  let c := p.2.1
  let l := [32 + c.retAt (c.rocc - 1)]
  if p.2.2.isSome ∨ c.rocc < 1 ∨ c.rsize ≤ c.rused then p
  else if l.any c.bad.contains then p.upset
  else
    let v := c.ret (c.rocc - 1)
    let tag := c.rtag (c.rocc - 1)
    let a := lsKey k (8 * ((c.rspill.extractLsb' 0 13).toNat + c.rused))
    (Batch.report k c l (p.1.wrWord a 8 (v.toNat + tag.toNat * 2 ^ 32)).1, { c with rocc := c.rocc - 1, rused := c.rused + 1 }, none)

/-- Fills one word of two data entries below the window; the failing line when it is uncorrectable (R76). -/
def fillDataWord (k : Nat) (p : Batch) : Batch :=
  let c := p.2.1
  if p.2.2.isSome ∨ c.dused = 0 ∨ 32 < c.docc + 2 then p
  else
    let x := 8 * ((c.dspill.extractLsb' 0 13).toNat + c.dused - 1)
    let a := lsKey k x
    if p.1.isUE a then (p.1, c, some (BitVec.ofNat 32 x))
    else
      let v := p.1.rd64 a
      let c := { c with docc := c.docc + 2, dused := c.dused - 1 }
      (p.1.noteCE a 8, (c.setData (c.docc - 2) (v.extractLsb' 32 32)).setData (c.docc - 1) (v.extractLsb' 0 32), none)

/-- Fills one return entry; non-zero bits [63:37] count as uncorrectable (R72). -/
def fillRetWord (k : Nat) (p : Batch) : Batch :=
  let c := p.2.1
  if p.2.2.isSome ∨ c.rused = 0 ∨ 16 < c.rocc + 1 then p
  else
    let x := 8 * ((c.rspill.extractLsb' 0 13).toNat + c.rused - 1)
    let a := lsKey k x
    let v := p.1.rd64 a
    if p.1.isUE a ∨ v.extractLsb' 37 27 ≠ 0 then (p.1, c, some (BitVec.ofNat 32 x))
    else
      (p.1.noteCE a 8, { (c.setRet c.rocc (v.extractLsb' 0 32) (v.extractLsb' 32 5)) with
        rocc := c.rocc + 1, rused := c.rused - 1 }, none)

/-- One batch: the words it moved are counted as beats by its caller (R73). -/
def fuseeBatch (op : FuseeOp) (k : Nat) (s : State) (c : Ctx) : Batch :=
  match op with
  | .spillData => (List.range 4).foldl (fun p _ => spillDataWord k p) (s, c, none)
  | .spillReturn => (List.range 4).foldl (fun p _ => spillRetWord k p) (s, c, none)
  | .fillData => (List.range 4).foldl (fun p _ => fillDataWord k p) (s, c, none)
  | .fillReturn => (List.range 4).foldl (fun p _ => fillRetWord k p) (s, c, none)

/-- Words a batch moved, from the spill counts before and after. -/
def fuseeWords (a b : Ctx) : Nat := (a.dused - b.dused) + (b.dused - a.dused) + (a.rused - b.rused) + (b.rused - a.rused)

/-- Return batches that make room for `n` entries before an entry, at most four (R197): each begins once the store buffer is empty,
and the beats of the wait and of its words are counted (R73). -/
def makeRetRoom (k n : Nat) : Nat → Batch → Nat → Batch × Nat
  | 0, p, b => (p, b)
  | m + 1, p, b =>
    match p.2.2, p.2.1.roomRet n with
    | none, some (.fusee op) =>
      let d := State.untilRoom k 4 16 p.1 b
      let r := fuseeBatch op k d.1 p.2.1
      makeRetRoom k n m r (d.2 + fuseeWords p.2.1 r.2.1)
    | _, _ => (p, b)

/-! ### The entry sequence (R195-R202) -/

/-- What an entry records besides the fault: saved PC, SINSTR, and the SSTAT and SCAUSE marks. `self` is the faulting instruction
where the saved PC is not. -/
structure EntryInfo where
  pc : Word
  self : Option Word := none
  instr : Word := 0
  term : Bool := false
  lateOvf : Bool := false
  event : Bool := false
  deriving DecidableEq, Repr

/-- SSTAT of a bank at entry (R200). -/
def Ctx.sstat (c : Ctx) (term : Bool) : Word :=
  BitVec.ofNat 32 (c.divp.toNat * 2 ^ 31 + term.toNat * 2 ^ 30 + c.ie.toNat * 2 ^ 27 + c.world.toNat * 2 ^ 26 +
    c.level.toNat * 2 ^ 24 + (c.auxR 7).toNat % 16 * 256 + (c.auxR 6).toNat % 32)

/-- The eight shadow words of an entry from bank `c`, handled at level `h` with NEST `nest` (R200). -/
def shadowWords (c : Ctx) (f : Flt) (x : EntryInfo) (beats : Nat) (h : Nat) (nest : Nat) (hworld : Bool) : List Word :=
  [x.pc &&& 0xFFFFFFFE, c.sstat x.term,
   BitVec.ofNat 32 (x.event.toNat * 2 ^ 17 + x.lateOvf.toNat * 2 ^ 16 + f.arg % 256 * 256 + f.code),
   f.addr, x.instr, BitVec.ofNat 32 beats, BitVec.ofNat 32 (c.rocc * 256 + c.docc),
   BitVec.ofNat 32 (nest % 65536 * 65536 + hworld.toNat * 64 + h * 16 + c.world.toNat * 4 + c.level.toNat)]

/-- Writes a whole shadow bank, words 56-63, with valid check bits (03 R68). -/
def Ctx.setShadow (c : Ctx) (l : List Word) : Ctx :=
  { c with
    sh := (l.zipIdx.foldl (fun t p => t.set (fun _ => 0) p.2 p.1) [])
    bad := c.bad.filter (fun w => w / 8 ≠ 7), cor := c.cor.filter (fun w => w / 8 ≠ 7) }

/-- The tag of a SHADOW entry. -/
def shadowTag : BitVec 5 := 24

/-- The return words to which `pushShadow` takes the shadow words among `l`. -/
def Ctx.shadowMarks (c : Ctx) (l : List Nat) : List Nat :=
  (List.range 8).filterMap (fun i => if l.contains (56 + i) then some (32 + (c.rtop.toNat + 1 + i) % 16) else none)

/-- Pushes the current shadow bank as SHADOW entries, SPC first (R197); an upset word stays one (log entry 44). -/
def Ctx.pushShadow (c : Ctx) : Ctx :=
  let c1 := (List.range 8).foldl (fun c i => c.rpush (c.shw i) shadowTag) c
  { c1 with bad := c1.bad ++ c.shadowMarks c.bad, cor := c1.cor ++ c.shadowMarks c.cor }

/-- The bank as an entry leaves it before the handler: run and division marks are in the shadow bank. -/
def Ctx.leave (c : Ctx) (pc : Word) : Ctx := { c with pc := pc, rep := false, divp := false }

/-- The fault is taken at M (R195). -/
def Ctx.toMachine (c : Ctx) (f : Flt) : Bool :=
  f.code == 6 || f.code == 7 || f.code == 9 || f.code == 0xA || f.code == 0xB || f.reti ||
  (f.code == 0xC && decide (0xC0 ≤ f.arg)) || c.db || !c.vbase.getLsbD 0

/-- The loop buffer without contents (spec 02 R40). -/
def LoopBuf.off (l : LoopBuf) : LoopBuf := { disabled := l.disabled }

/-- Engine state an entry ends: LOCK bracket, loop buffer, pairing, fetch, and what the instruction at PC has begun. -/
def Engine.endFlow (e : Engine) : Engine :=
  { e with lock := 0, lockBeats := 0, lb := e.lb.off, pair := none, fusee := none, fill := none, fetch := none, begun := .none }

/-- An entry at M from the context of `slot` (R197, R203). -/
def State.enterMachine (s : State) (k slot : Nat) (f : Flt) (x : EntryInfo) : State :=
  let id := ctxId k slot
  let c := s.ctxAt id
  let e := s.engAt k
  let mb := e.mb.setShadow (shadowWords c f x c.beats 3 1 false)
  let mb := { mb with
    dtop := 0, docc := 0, rtop := 0, rocc := 0, nest := 1, level := 3, db := true, rep := false, divp := false, ie := false
    pc := (e.mvbase &&& 0xFF80) + BitVec.ofNat 32 (8 * f.code) }
  let s := s.traceEnd k c 2
  let s := s.setCtx id ({ c.leave x.pc with act := c.act.map (fun a => { a with mEntry := true }), beats := c.beats + 6 })
  let s := s.modEng k (fun e => { e.endFlow with mb := mb, run := .mach (some slot) })
  if f.code = 0xB then
    s.raise { w := k, src := 1, arg := some (ctxArg c.gen c.lctx), addr := f.addr
              bank := f.key.bind bankOf }
  else s

/-- An entry at S in the context's own bank, nested or not. Without return room RSOVF is taken at M, and after an uncorrectable word
in a batch of the entry ECC_UE; both carry the original code (R197, R198; log entry 51). -/
def State.enterSuper (s : State) (k slot : Nat) (f : Flt) (x : EntryInfo) : State :=
  let id := ctxId k slot
  let c := s.ctxAt id
  let r := if c.nest = 0 then ((s, c, none), 0) else makeRetRoom k 8 4 (s, c, none) 0
  let room := c.nest = 0 ∨ ((r.1.2.1.roomRet 8).isNone ∧ r.1.2.2 = none)
  if room then
    let c := { r.1.2.1 with beats := c.beats + r.2 }
    let words := shadowWords c f x c.beats 1 (c.nest + 1) c.world
    let c1 := if c.nest = 0 then c else c.pushShadow
    let c2 := (c1.setShadow words).leave ((c.vbase &&& 0xFF80) + BitVec.ofNat 32 (8 * (if x.event then 0 else f.code)))
    let s := r.1.1.setCtx id { c2 with nest := c.nest + 1, level := 1, ie := false, beats := c.beats + 6 }
    s.modEng k (fun e => e.endFlow)
  else
    let s := r.1.1.setCtx id { r.1.2.1 with beats := c.beats + r.2 }
    let f := match r.1.2.2 with
      | some a => { Flt.ecc a with arg := f.code }
      | none => { code := 7, arg := f.code }
    s.enterMachine k slot f { pc := x.self.getD x.pc, instr := x.instr }

/-- MFAULT or MBANK_STK: the engine stops at the faulting instruction (R66, R204). -/
def State.machineFault (s : State) (k : Nat) (f : Flt) : State :=
  let pc := (s.engAt k).mb.pc
  let s := s.modEng k (fun e => { e.endFlow with mstop := true })
  if f.code = 6 ∨ f.code = 7 ∨ f.code = 8 then s.raise { w := k, src := 3, addr := pc }
  else s.raise { w := k, src := 2, arg := some (f.csr * 256 + f.code), addr := pc }

/-- A step of the debugger ends at this stopping point: the engine halts with CAUSE = STEP (spec 14 R371). -/
def State.endStep (s : State) (k : Nat) : State :=
  let e := s.engAt k
  if e.dbg.stepping ∧ e.lock = 0 then
    (s.modEng k (fun e => { e with dbg := { e.dbg with stepping := false } })).requestHalt k 6
  else s

/-- Where a fault or event of engine `k` is taken (R195). -/
def State.enter (s : State) (k : Nat) (f : Flt) (x : EntryInfo) : State :=
  match (s.engAt k).run with
  | .ctx slot =>
    if (s.ctxAt (ctxId k slot)).toMachine f then s.enterMachine k slot f x else s.enterSuper k slot f x
  | .mach _ => s.machineFault k f
  | .parked => s

/-- Takes a fault or event entry on engine `k`. Its beats pass at the store buffer as any other's (02 R51), and it ends a debugger's
step (14 R371). -/
def State.takeFault (s : State) (k : Nat) (f : Flt) (x : EntryInfo) : State :=
  ((((s.enter k f x).modEng k (fun e => { e with dbg := { e.dbg with pass := false } })).pass k entryBeats).settle k).endStep k

/-- Resume address of a stopping point: between repetitions it is the REP (spec 06 R163). -/
def Ctx.resumePc (c : Ctx) : Word := if c.rep then c.pc - 2 else c.pc

/-! ### Fetch (spec 02 R36, R37, R47) -/

/-- The address can be fetched in a mode (R37). -/
def fetchable (db : Bool) (a : Nat) : Bool :=
  match rgnOf a with
  | some .ls => true
  | some .tm => !db
  | some .bnd => !db
  | _ => false

/-- The cached line of an address. -/
def Engine.line? (e : Engine) (a : Nat) : Option ICLine := e.icache.find? (fun l => l.addr == a / 32 * 32)

/-- The active loop buffer serves the instruction at address `a` (R39). -/
def LoopBuf.serves (l : LoopBuf) (a : Nat) : Bool :=
  match l.active with
  | some (t, b) => decide (t.toNat ≤ a ∧ a ≤ b.toNat) && l.words.any (fun x => x.1 == a)
  | none => false

/-- Instruction `w` at `a` as it executes in a captured iteration, its closing branch included (R38). -/
def LoopBuf.copy (l : LoopBuf) (a : Nat) (w : BitVec 16) : LoopBuf :=
  let here := match l.capture, l.active with
    | some (t, b), _ => decide (t.toNat ≤ a ∧ a ≤ b.toNat)
    | none, some (_, b) => a == b.toNat && !l.serves a
    | none, none => false
  if here then { l with words := l.words.set (fun _ => 0) a w, bad := l.bad.filter (· ≠ a) } else l

/-- The instruction word at an address: from the active loop buffer, which does not observe stores (R40), the local store or the
cache; a line that is not cached reads 0. -/
def State.fetch (s : State) (k : Nat) (a : Nat) : BitVec 16 :=
  if (s.engAt k).lb.serves a then (s.engAt k).lb.words.get (fun _ => 0) a
  else match rgnOf a with
  | some .ls => BitVec.ofNat 16 (s.rdBytes (lsKey k a) 2)
  | _ => match (s.engAt k).line? a with
    | some l => l.data.extractLsb' (8 * (a % 32)) 16
    | none => 0

/-! ### The return (R208) -/

/-- The checks of RETI in order, with the NEST, the running level and the fetchability of the target's mode. -/
def retiCheck (c : Ctx) (level : Nat) (world : Bool) (targetDb : Bool) : Option Flt :=
  let sw := c.shw 7
  let st := c.shw 1
  let fl := (sw.extractLsb' 0 2).toNat
  let sl := (st.extractLsb' 24 2).toNat
  if c.nest = 0 then some .illegal
  else if (sw.extractLsb' 4 2).toNat ≠ level ∨ (level ≠ 3 ∧ sw.getLsbD 6 ≠ world) then some { Flt.priv 0x12 with reti := true }
  else if (sw.extractLsb' 16 16).toNat ≠ c.nest % 65536 then some { Flt.priv 0x13 with reti := true }
  else if st.getLsbD 26 ≠ sw.getLsbD 2 then some { Flt.priv 0x11 with reti := true }
  else if fl < sl ∨ level < sl then some { Flt.priv 0x10 with reti := true }
  else if 1 < c.nest ∧ !(decide (8 ≤ c.rocc) && (List.range 8).all (fun i => tagKind (c.rtag i) == 3)) then
    some { Flt.priv 0x14 with reti := true }
  else if !fetchable targetDb (c.shw 0).toNat then some (.berr (c.shw 0))
  else none

/-- The address in a register or stack word that PC takes: PC is even (04 R91). -/
def evenPc (a : Word) : Word := a &&& 0xFFFFFFFE

/-- Restores PC, FL, MODE, LEVEL, IE and the division mark from shadow words (R134, R170, R208). -/
def Ctx.restore (c : Ctx) (sh : Ctx) : Ctx :=
  let st := sh.shw 1
  let c := (c.setAux 6 (st &&& 0x1F)).setAux 7 ((st >>> 8) &&& 0xF)
  { c with pc := evenPc (sh.shw 0), level := st.extractLsb' 24 2, ie := st.getLsbD 27, divp := st.getLsbD 31, rep := false }

/-- Pops the enclosing shadow bank: SEAL is at RT, SPC eighth (R197). -/
def Ctx.popShadow (c : Ctx) : Ctx := (c.setShadow ((List.range 8).map (fun i => c.ret (7 - i)))).rdrop 8

end Sys2Proof.Machine
end

