-- ==== Sys2Proof/Machine/Issue.lean ====
section
/-! DEFINITION. How one instruction issues on an engine: what must hold, fetch, loop buffer, pairing, REP, LOCK, beats
(spec 02 R29-R46, R57, 06 R161-R166, 07 R185-R188). -/

namespace Sys2Proof.Machine

/-! ### Stopping points (R188) -/

/-- The activation has a beat budget: all have but a FREE one with 0 (spec 08 R219). -/
def Ctx.limited (c : Ctx) : Bool := c.act.any (fun a => a.kind != 1 || c.budget != 0)

/-- The beat count of an activation exceeds its budget and BUDGET has not been raised yet (spec 02 R31). -/
def Ctx.overdue (c : Ctx) : Bool := c.limited && decide (c.budget < c.beats) && !c.overrun

/-- An event entry is due (R207). -/
def Ctx.eventDue (c : Ctx) : Bool := !c.db && c.level != 3 && c.ie && (c.evpend &&& c.evmask) != 0

/-- The six asynchronous conditions, in the order of R188. -/
inductive Async where
  | budget | wdog | stop | halt | late | event
  deriving DecidableEq, Repr

/-- The first asynchronous condition that a running context would take at this stopping point. An event that WAIT waits for lets
it complete first (06 R160). -/
def State.async (s : State) (k : Nat) (c : Ctx) : Option Async :=
  let e := s.engAt k
  if c.budgetPend then some .budget
  else if c.wdogPend then some .wdog
  else if e.stopReq.isSome then some .stop
  else if e.dbg.pend then some .halt
  else if c.latePend then some .late
  else if c.eventDue && e.begun != .event then some .event
  else none

/-- The instruction at PC waits inside itself, for the store buffer or the fusee (R52, R53, 03 R73). -/
def Engine.inside (e : Engine) : Bool :=
  match e.begun with
  | .inner | .value _ => true
  | _ => false

/-- The running context of engine `k` stands at a stopping point, outside any LOCK bracket (R57): a wait for the store buffer or the
fusee belongs to its instruction. -/
def State.atStop (s : State) (k : Nat) : Option Nat :=
  let e := s.engAt k
  match e.run with
  | .ctx slot => if e.lock = 0 ∧ !e.dbg.halted ∧ !e.inside then some slot else none
  | _ => none

/-- A boundary load of the running context waits for its response (R142). -/
def Engine.held (e : Engine) : Bool :=
  match e.bload, e.run with
  | some b, .ctx slot => b.slot == slot
  | _, _ => false

/-- The running context waits on boundary space: for a load response, for the write queue, or in a free-mode SYNC (R57, R188). -/
def Engine.waiting (e : Engine) : Bool :=
  e.held || (e.begun == .boundary && (match e.run with | .ctx _ => true | _ => false))

/-- The engine can execute its next instruction now. A wait on boundary space ends before any condition but a stop (R188). -/
def State.canRun (s : State) (k : Nat) : Bool :=
  let e := s.engAt k
  e.st != .off && e.st != .fenced && !e.mstop && !e.dbg.halted && !e.held && !(decide (16 ≤ e.lockBeats) && e.lock != 0) &&
  (match e.run with
   | .parked => false
   | .mach _ => true
   | .ctx slot =>
     let c := s.ctxAt (ctxId k slot)
     c.st == .running && !c.overdue &&
       (if e.begun == .boundary then e.stopReq.isNone else e.lock != 0 || e.inside || (s.async k c).isNone))

/-! ### Dual issue (R45) -/

/-- Group number of a general-format word. -/
def groupOf (w : BitVec 16) : Nat := (w.toNat / 256) % 32
/-- The word is in the general format. -/
def isGeneral (w : BitVec 16) : Bool := w.toNat / 8192 == 3
/-- A producer: LIT, LDK, DUP, OVER, INL or an auxiliary push. -/
def isProducer (w : BitVec 16) : Bool :=
  w.msb || (isGeneral w && (groupOf w == 13 || groupOf w == 24 || w == 0x6000 || w == 0x6003 ||
    (groupOf w == 15 && (w.toNat / 64) % 4 == 0)))
/-- A consumer: groups 1, 2, 3, 8 and 10. -/
def isConsumer (w : BitVec 16) : Bool :=
  isGeneral w && (groupOf w == 1 || groupOf w == 2 || groupOf w == 3 || groupOf w == 8 || groupOf w == 10)
/-- A conditional branch. -/
def isBcc (w : BitVec 16) : Bool := w.toNat / 8192 == 1
/-- First of a pair before a conditional branch: groups 1 and 2. -/
def isAlu (w : BitVec 16) : Bool := isGeneral w && (groupOf w == 1 || groupOf w == 2)

/-- The instruction at `pc` issues as the second of a pair (R45); an execute match suppresses it (14 R375). -/
def State.isSecond (s : State) (k : Nat) (c : Ctx) (w : BitVec 16) (execHit : Bool) : Bool :=
  let e := s.engAt k
  match e.pair with
  | some p => !c.db && !c.rep && !execHit && p.entered && c.pc == p.pc + 2 && c.pc.toNat / 8 == p.pc.toNat / 8 &&
      ((isProducer p.instr && isConsumer w) || (isAlu p.instr && isBcc w)) &&
      !(match e.lb.capture with | some x => x.2 == c.pc | none => false)
  | none => false

/-! ### Before execution -/

/-- A fetch that fails. The word was not read, so the instruction saved with it is a free value (07 R200, log entry 8). -/
def State.fetchFault (s : State) (k : Nat) (f : Flt) (pc : Word) : State :=
  let d := s.draw
  d.2.takeFault k f { pc := pc, instr := d.1 &&& 0xFFFF }

/-- Beats that pass on engine `k` outside any instruction's own count: a restart, empty beats, a batch, a line fill. They count
against the budget (R31) and in a LOCK bracket (06 R165). -/
def State.emptyBeats (s : State) (k : Nat) (l : List Beat) : State :=
  (((s.addBeats k l.length).modEng k (fun e => { e with
    lockBeats := if e.lock = 0 then 0 else e.lockBeats + l.length })).pass k l).settle k

/-- The fetch waits for the cache line of `a` (R47). -/
def State.wantLine (s : State) (k a : Nat) : State :=
  let f : ICFill := { addr := a / 32 * 32, bus := if rgnOf a = some .bnd then some (s.bndAddr (s.who k) (a / 32 * 32) true) else none }
  s.modEng k (fun e => { e with fill := some f })

/-- The cache line of `a` has a parity error: it is dropped, reported and fetched again (R47). -/
def State.dropLine (s : State) (k a : Nat) : State :=
  ((s.modEng k (fun e => { e with icache := e.icache.filter (fun l => l.addr != a / 32 * 32) })).reportCE k).wantLine k a

/-- The sequential fetch when the instruction at `pc` is next: entering the next word frees the one before it (R35). -/
def Engine.fetchAt (e : Engine) (pc : Nat) : FetchBuf :=
  match e.fetch with
  | none => { word := pc / 8 }
  | some f =>
    if pc / 8 = f.word then f
    else if pc / 8 = f.word + 1 then { f with word := pc / 8, held := f.held - 1, due := f.due + 1 }
    else { word := pc / 8 }

/-- Code of local store whose word has not arrived yet: a fetch-starved beat (R35). -/
def State.starved (s : State) (k : Nat) (pc : Nat) : Bool :=
  rgnOf pc == some .ls && !(s.engAt k).lb.serves pc && ((s.engAt k).fetchAt pc).held == 0

/-- An execute match with HALT: the request, with what else the comparators do (14 R376). A Machine handler goes on (R366). -/
def State.execHalt (s : State) (k : Nat) (w : Who) (pc : Nat) (t : Word) (i : Nat) : State :=
  let s := s.watch w true false pc 1 [t]
  (s.modEng k (fun e => { e with dbg := { e.dbg with cmp := BitVec.ofNat 2 i, pass := true } })).requestHalt k 3

/-- Fetch and execute-comparator conditions. -/
def State.preFetch (s : State) (k : Nat) (c : Ctx) (e : Engine) (w : Who) : Option State :=
  let pc := c.pc.toNat
  let line := e.line? pc
  let eccAddr : Word := BitVec.ofNat 32 (pc / 8 * 8)
  if e.lb.serves pc ∧ e.lb.bad.contains pc then
    some (((s.modEng k (fun e => { e with lb := e.lb.off, fetch := none, pair := none })).emptyBeats k [.restart, .restart]).raise
      { w := k, src := 9, addr := c.pc })
  else if !fetchable c.db pc then some (s.fetchFault k (.berr c.pc) c.resumePc)
  else if s.starved k pc then
    some ((s.modEng k (fun e => { e with fetch := some (e.fetchAt pc) })).emptyBeats k [.idle])
  else if rgnOf pc = some .ls ∧ !e.lb.serves pc ∧ s.isUE (lsKey k pc) then some (s.fetchFault k (.ecc eccAddr) c.resumePc)
  else if rgnOf pc = some .tm ∧ !e.lb.serves pc ∧ (s.tmPlace w (pc / 8 * 8 % 0x200000) 8 false false).isNone then
    some (s.fetchFault k (.berr c.pc) c.resumePc)
  else if rgnOf pc ≠ some .ls ∧ line.isNone then some (s.wantLine k pc)
  else if rgnOf pc ≠ some .ls ∧ line.any (·.par) then some (s.dropLine k pc)
  else if rgnOf pc ≠ some .ls ∧ line.any (fun l => l.bad.getLsbD (pc % 32 / 8)) then
    some (s.fetchFault k (.ecc eccAddr (if rgnOf pc = some .tm then some (tmKey (trainOf k) (pc / 8 * 8 % 0x200000)) else none)) c.resumePc)
  else if e.lock = 0 ∧ w.level ≠ 3 ∧ !e.dbg.pass ∧ s.lcs.st ≠ .scrapped then
    (e.dbg.haltMatch w true false pc 1 [c.t]).map (fun i => s.execHalt k w pc c.t i)
  else none

/-- What happens in place of the instruction: a held bus error (05 R142), a loop-buffer parity error (R40), a fetch fault (R34, R37),
a fetch-starved beat, a cache miss, an execute halt (14 R376). `none` when it executes. -/
def State.preIssue (s : State) (k : Nat) : Option State :=
  let c := s.bank k
  match c.lerr with
  | some (a, i) => some ((s.setBank k { c with lerr := none }).takeFault k (.berr a) { pc := c.resumePc, instr := i.setWidth 32 })
  | none => s.preFetch k c (s.engAt k) (s.who k)

/-! ### After execution -/

/-- PC, REP count and division mark after a completed instruction (R91, R161). -/
def Ctx.advance (c : Ctx) : Ctx :=
  if c.rep then
    let n := c.cnt - 1
    let c := c.setAux 5 (BitVec.ofNat 32 n)
    if n = 0 then { c with rep := false, pc := c.pc + 2, divp := false } else { c with divp := false }
  else { c with pc := c.pc + 2, divp := false }

/-- LOCK accounting of one completed instruction (R164, R165): a bracket whose 16th beat passes inside its last instruction waits
for LOCK_TRUNC. -/
def Engine.tickLock (e : Engine) (cost : Nat) : Engine :=
  if e.lock = 0 then e
  else if e.lock = 1 ∧ e.lockBeats + cost ≤ 16 then { e with lock := 0, lockBeats := 0 }
  else if e.lock = 1 then { e with lockBeats := e.lockBeats + cost }
  else { e with lock := e.lock - 1, lockBeats := e.lockBeats + cost }

/-- LOCK accounting of a change of flow: it ends the bracket, unless the 16th beat has passed inside it (R165). -/
def Engine.flowLock (e : Engine) (cost : Nat) : Engine :=
  if e.lock = 0 ∨ e.lockBeats + cost ≤ 16 then { e with lock := 0, lockBeats := 0 }
  else { e with lock := 1, lockBeats := e.lockBeats + cost }

/-- The beats of a change of flow: its last two restart, but a closing branch that stays in the loop buffer takes one (R36, R39). -/
def flowBeats (cost : Nat) : List Beat :=
  if cost ≤ 1 then List.replicate cost .idle else List.replicate (cost - 2) .idle ++ [.restart, .restart]

/-- What the completed instruction `w` does with the ports in its beats (R32, R59): LDK reads local store. Groups 7, 9, 11, 20, 21
and 23 (XMAC, loads, SAVEM, LOADM, MOVE and FILL) have passed their beats themselves. -/
def beatsOf (w : BitVec 16) (cost : Nat) : List Beat :=
  if isBcc w then flowBeats cost
  else if !isGeneral w then List.replicate cost .idle
  else match groupOf w with
  | 7 | 9 | 11 | 20 | 21 | 23 => []
  | 13 => List.replicate cost .port
  | _ => List.replicate cost .idle

/-- The beats of a wait, which makes no own access (R32). At an element boundary the instruction has passed them itself. -/
def waitBeats (b : Begun) (cost : Nat) : List Beat :=
  match b with
  | .setup _ => []
  | _ => List.replicate cost .idle

/-- Instruction `w` at `pc` is over: the loop buffer has copied it if it captures, and nothing of it is left (R38). -/
def Engine.over (e : Engine) (pc : Nat) (w : BitVec 16) : Engine :=
  { e with lb := e.lb.copy pc w, fusee := none, begun := .none, dbg := { e.dbg with pass := false } }

/-- Settles the outcome of instruction `w`; `second` marks the second of a pair. An instruction that waits on its PC is the one that a
comparator has seen; REP has moved PC on (06 R161, 14 R376). An instruction whose own effect fenced the
engine ends with the fence (spec 12 R317). A step of the debugger ends here, but not in a wait that completes nothing (14 R371). -/
def finishAs (k : Nat) (w : BitVec 16) (second : Bool) (r : IRes) : State :=
  if (r.state.engAt k).st == .fenced then r.state
  else
  let b := r.state.bank k
  match r with
  | .done s c cost =>
    let pair : PairInfo := { pc := c.pc, instr := w, entered := !second && !c.rep }
    let cost := if second then cost - 1 else cost
    let s := (s.setBank k c.advance).modEng k (fun e => { (e.tickLock cost).over b.pc.toNat w with pair := some pair })
    ((s.pass k (beatsOf w cost)).addBeats k cost).endStep k
  | .flow s c target cost =>
    let cost := if second then cost - 1 else cost
    let s := (s.setBank k { c with pc := target, divp := false, rep := false }).modEng k (fun e => { (e.flowLock cost).over b.pc.toNat w with
      pair := none, fetch := none })
    ((s.pass k (flowBeats cost)).addBeats k cost).endStep k
  | .wait s c cost =>
    let s := (s.setBank k c).modEng k (fun e => { e with
      lockBeats := if e.lock = 0 then 0 else e.lockBeats + cost, dbg := { e.dbg with pass := c.pc == b.pc }
      pair := some (if c.pc = b.pc then { e.pair.getD { pc := c.pc, instr := w, entered := false } with waited := true }
        else { pc := b.pc, instr := w, entered := false }) })
    let s := (s.pass k (waitBeats (s.engAt k).begun cost)).addBeats k cost
    match (s.engAt k).begun with
    | .setup _ => s.endStep k
    | _ => s
  | .fault s c f =>
    let s := s.setBank k c
    let x : EntryInfo := { pc := c.resumePc, instr := BitVec.ofNat 32 (second.toNat * 65536 + w.toNat) }
    s.takeFault k f (if f.code = 0xC then { x with pc := c.pc + 2, self := some c.resumePc } else x)
  | .ended s => s

/-- Settles the outcome of instruction `w`; store-buffer entries whose retire slots end in its beats are then in memory (R51). -/
def finish (k : Nat) (w : BitVec 16) (second : Bool) (r : IRes) : State := (finishAs k w second r).settle k

/-- Counts beats that passed before a fault: elements that completed, and the access of a load that met an uncorrectable word (11
R301). -/
def charge (s : State) (w : Who) (c : Ctx) (n : Nat) : State × Ctx :=
  if w.level = 3 then (s.addBeats w.k n, c) else (s, { c with beats := c.beats + n })

/-- Beats of the set-up that a resumable instruction has behind it. -/
def Begun.paid : Begun → Nat
  | .setup n => n
  | _ => 0

/-- A run of elements ends at its next boundary: a debugger steps, or the code below Machine level has met a halt (14 R366, R371,
R376). -/
def State.cutsRun (s : State) (w : Who) : Bool :=
  let d := (s.engAt w.k).dbg
  d.stepping || (d.pend && decide (w.level ≠ 3))

/-- What an instruction does once it executes: state, executing code and its bank. -/
abbrev Body := State → Who → Ctx → IRes

/-- Execution enters the fetch word at `pc`: at its first instruction or after a restart, and not again while the instruction
waits or repeats (R35, R36, 06 R161). -/
def Engine.entersWord (e : Engine) (c : Ctx) : Bool :=
  match e.pair with
  | none => !c.rep
  | some p => c.pc.toNat % 8 == 0 && !p.waited && !(c.rep && p.pc == c.pc)

/-- What the fetch leaves: a line of the instruction cache becomes the most recently used one (R47), and a word of local store
corrects its single-bit error when execution enters it (R34, R35, 11 R286; log entry 7). -/
def State.touchLine (s : State) (k : Nat) (c : Ctx) : State :=
  match (s.engAt k).line? c.pc.toNat, rgnOf c.pc.toNat with
  | some l, some .tm | some l, some .bnd =>
    s.modEng k (fun e => { e with icache := l :: e.icache.filter (fun x => x.addr != l.addr) })
  | _, some .ls =>
    if (s.engAt k).entersWord c && !(s.engAt k).lb.serves c.pc.toNat then s.noteWord (lsKey k c.pc.toNat)
    else s
  | _, _ => s

/-! ### Upsets of the bore (03 R68) -/

/-- Bank words of the `n` youngest data entries. -/
def Ctx.dataWords (c : Ctx) (n : Nat) : List Nat := (List.range n).map c.dataAt
/-- Bank words of the `n` youngest return entries. -/
def Ctx.retWords (c : Ctx) (n : Nat) : List Nat := (List.range n).map (fun i => 32 + c.retAt i)
/-- Bank words of the auxiliary registers named in a mask. -/
def auxWords (m : Nat) : List Nat := ((List.range 8).filter (fun r => m.testBit r)).map (48 + ·)
/-- Registers that a save mask of R77 names, as a mask of the eight. -/
def saveRegs (m : Nat) : Nat := (if m.testBit 0 then 3 else 0) + (if m.testBit 1 then 12 else 0) + (if m.testBit 2 then 48 else 0)

/-- Fields of the context record that instruction `w` reads as data: Q in groups 6 and 7, EVPEND, and what a CSR shows of the record
(03 R65, 06 R147, R181, 07 R202, R209; log entry 44). -/
def readsRecord (w : BitVec 16) : Bool :=
  let f := w.toNat % 256
  isGeneral w && (match groupOf w with
    | 6 => [0, 1, 3, 8, 9, 0xA, 0xB, 0xD].contains f
    | 7 => true
    | 16 => f == 0x20
    | 18 => decide (0x10 ≤ f ∧ f ≤ 0x12) || f == 0x48 || f == 0x4A || f == 0x4B
    | 25 => decide (f < 0x40)
    | _ => false)

/-- The bank words that instruction `w` reads: the entries and registers whose values its operation uses; FL where it keeps or
tests a flag, MODE in the groups that round, shift or saturate (03 R64, 04 R92, R93). -/
def bankReads (w : BitVec 16) (c : Ctx) : List Nat :=
  let f := w.toNat % 256
  let n (l : List Nat) : Nat := l.getD f 0
  if w.msb then []
  else match w.toNat / 8192 with
  | 0 => []
  | 1 => if (w.toNat / 1024) % 8 = 7 then c.dataWords 1 else auxWords 0x40
  | 2 => auxWords (saveRegs ((w.toNat / 1024) % 8))
  | _ => match groupOf w with
    | 0 =>
      if f < 12 then c.dataWords (n [1, 0, 2, 2, 1, 2, 3, 3, 2, 0, 4, 4])
      else if f = 0x10 then c.dataWords 1
      else if f < 0x14 then c.retWords 1
      else if f < 0x40 then [c.dataAt (f - 0x20)]
      else c.dataWords 1
    | 1 => c.dataWords (if [5, 7, 12, 13, 14, 20].contains f then 1 else if f = 21 then 3 else 2) ++ auxWords 0x40
    | 2 => c.dataWords (if f = 2 ∨ f = 3 then 1 else if f = 4 then 3 else 2) ++ auxWords 0xC0
    | 3 => c.dataWords 1 ++ auxWords 0xC0
    | 4 | 5 => c.dataWords 2 ++ auxWords 0xC0
    | 6 => c.dataWords (n [2, 2, 2, 2, 0, 0, 0, 0, 0, 0, 1, 0, 1, 0, 3]) ++ auxWords 0xC0
    | 7 => auxWords 0xE3
    | 8 => c.dataWords (if 3 ≤ f ∧ f ≤ 6 then 1 else if f = 2 then 3 else 2) ++ auxWords 0x40
    | 9 => auxWords (2 ^ (f / 64) + if 3 ≤ f % 8 then 16 else 0)
    | 10 => c.dataWords (if f / 16 % 4 = 3 then 2 else 1) ++ auxWords (2 ^ (f / 64) + if 3 ≤ f % 8 then 16 else 0)
    | 11 => auxWords (2 ^ (f / 64))
    | 12 => c.dataWords 1 ++ auxWords (2 ^ (f / 64))
    | 14 => c.dataWords 1
    | 15 => (if f / 64 = 0 then [] else c.dataWords 1) ++ (if f / 64 = 1 then [] else auxWords (2 ^ (f % 8)))
    | 16 =>
      if f = 0x70 then auxWords 0x20
      else if f = 0x10 then
        let m := (c.rtag 0).toNat
        c.retWords (1 + 2 * ((m % 2) + (m / 2 % 2) + (m / 4 % 2)))
      else if f = 0x20 then (List.range 8).map (56 + ·) ++ (if 1 < c.nest then c.retWords 8 else [])
      else []
    | 18 => if 0x40 ≤ f ∧ f ≤ 0x47 ∧ c.nest ≠ 0 then [56 + (f - 0x40)] else []
    | 19 | 21 => c.dataWords 1
    | 20 => c.dataWords 1 ++ auxWords f
    | 22 => c.dataWords 1 ++ auxWords (saveRegs (if f < 128 then f % 8 else 0))
    | 23 => auxWords (if f < 128 then 0x23 else 0x22) ++ c.dataWords (if f < 128 then 0 else if f / 32 % 4 = 3 then 2 else 1)
    | _ => []

/-- The outcome of an instruction in a bank with upsets: an uncorrectable word that it reads raises ECC_UE, after every other fault
but those that arise only from data (04 R112, 07 R187); a corrected one is reported (R68). The fault of a CSR write names its CSR (07
R204). -/
def eccGate (k : Nat) (w : BitVec 16) (s : State) (c : Ctx) (r : IRes) : IRes :=
  if c.sound then r
  else
    let l := bankReads w c ++ (if readsRecord w then [recordPlace] else [])
    let bad := l.any c.bad.contains
    let cor := l.any c.cor.contains
    let ue : IRes := let d := s.draw; .fault d.2 c { Flt.ecc d.1 with csr := if isGeneral w && groupOf w == 19 then w.toNat % 256 else 0 }
    match r with
    | .fault s1 c1 f => if bad && f.code == 0xE then ue else .fault s1 c1 f
    | .wait s1 c1 n =>
      if (s1.engAt k).fusee.isSome then .wait s1 c1 n
      else if bad then ue else .wait (if cor then s1.reportCE k else s1) c1 n
    | .done s1 c1 n => if bad then ue else .done (if cor then s1.reportCE k else s1) c1 n
    | .flow s1 c1 a n => if bad then ue else .flow (if cor then s1.reportCE k else s1) c1 a n
    | .ended s1 => if bad then ue else .ended (if cor then s1.reportCE k else s1)

/-- The sequential fetch as the instruction at `pc` issues (R35). -/
def Engine.issue (e : Engine) (pc : Nat) : Engine :=
  { e with fetch := if rgnOf pc = some .ls ∧ !e.lb.serves pc then some (e.fetchAt pc) else e.fetch }

/-- Executes instruction `w` on engine `k`: inside a bracket an instruction of R166 is ILLEGAL. The execute comparators see it once,
when it begins (14 R376). -/
def State.execute (s : State) (k : Nat) (w : BitVec 16) (lockOk : Bool) (body : Body) : State :=
  let c := s.bank k
  let s := (s.touchLine k c).modEng k (fun e => e.issue c.pc.toNat)
  let who := s.who k
  let d := (s.engAt k).dbg
  let hit := (List.range 4).any (fun i => d.matches who i true false c.pc.toNat 1 [c.t])
  let second := s.isSecond k c w hit
  let s := if hit ∧ !d.pass then s.watch who true false c.pc.toNat 1 [c.t] else s
  let s := if (d.haltMatch who true false c.pc.toNat 1 [c.t]).isSome ∧ !d.pass then s.requestHalt k 3 else s
  if (s.engAt k).lock ≠ 0 ∧ !lockOk then finish k w second (.fault s c .illegal)
  else finish k w second (eccGate k w s c (body s who c))

/-- One instruction command on engine `k`. When the engine cannot execute an instruction now, nothing happens (log entry 2). -/
def runInstr (k : Nat) (w : BitVec 16) (lockOk : Bool) (body : Body) (s : State) : Res :=
  if !s.hasEngine k then .fault .noSuchUnit
  else .next (
    if !s.canRun k then s
    else match s.preIssue k with
      | some s' => s'
      | none => s.execute k w lockOk body)

/-- The word of a general-format instruction (spec 05 R119, 04 R103). -/
def gword (g f : Nat) : BitVec 16 := BitVec.ofNat 16 (0x6000 + g * 0x100 + f)

/-! ### Bodies over the stacks -/

/-- An instruction pushes `v`, which it has read already: the fusee's batch for its room comes after the read (03 R73, R83, 05 R122;
log entry 52). -/
def pushRead (v : Word) (s : State) (w : Who) (c : Ctx) (cost : Nat) : IRes :=
  match c.roomData 0 1 with
  | some x => x.res w.k (s.begin w.k (.value v)) c
  | none => .done s (c.push v) cost

/-- An instruction that takes `pop` data entries and pushes `push`, with nothing else that can fault (R116). -/
def stackBody (pop push : Nat) (cost : Nat) (f : State → Who → Ctx → State × Ctx) : Body := fun s w c =>
  match c.needData pop with
  | some x => x.res w.k s c
  | none =>
    match c.roomData pop push with
    | some x => x.res w.k s c
    | none => let r := f s w c; .done r.1 r.2 cost

/-- An instruction on the bank alone: the `pop` youngest entries, top first, give the results, bottom first. -/
def dataBody (pop push cost : Nat) (f : Ctx → List Word → AluOut) : Body :=
  stackBody pop push cost (fun s _ c =>
    let o := f c (c.top pop)
    (s, (c.replace pop o.res).setFl o.fl))

/-- A rearrangement of the stack that leaves FL unchanged. -/
def shuffleBody (pop push : Nat) (f : List Word → List Word) : Body :=
  stackBody pop push 1 (fun s _ c => (s, c.replace pop (f (c.top pop))))

end Sys2Proof.Machine
end

