-- ==== Sys2Proof/Machine/Release.lean ====
section
/-! DEFINITION. Releases, the end of an activation, and the rebuild of a context from its published carried state
(spec 03 R86, R89, 08 R221-R224, 09 R240, R249, 12 R328, R338). -/

namespace Sys2Proof.Machine

/-! ### Staging periods (09 R240, 12 R330) -/

/-- Clears the staging and check registers of outlet `n`. -/
def State.clearStaging (s : State) (n : Nat) : State :=
  s.modOut n (fun o => { o with staging := 0, staged := false, check := 0, checked := false })

/-- The outlet channels that a context owns. -/
def State.ownedOutlets (s : State) (gen : Bool) (lctx : Nat) : List Nat :=
  ((s.img gen).routes.filter (fun r => r.kind == 1 && r.owner == lctx)).map (·.chan)

/-! ### Releases -/

/-- The data window a deadbeat release leaves: the PDEPTH oldest entries, missing younger ones zero (03 R86). -/
def Ctx.persist (c : Ctx) : Ctx :=
  let oldest := (c.dtop.toNat + 33 - c.docc % 33) % 32
  let zero (c : Ctx) (i : Nat) : Ctx := { c.valid ((oldest + c.docc + i) % 32) with dw := c.dw.set (fun _ => 0) ((oldest + c.docc + i) % 32) 0 }
  let d := (List.range (c.pdepth - c.docc)).foldl zero c
  { d with dtop := BitVec.ofNat 5 (oldest + c.pdepth + 31), docc := c.pdepth }

/-- The bank of a context as its release finds it (03 R86, 07 R191): both bank-switch beats are counted (02 R31). -/
def Ctx.released (c : Ctx) (now budget kind endAt : Nat) : Ctx :=
  let c := if c.db then { c.persist with pc := c.entry, rtop := 0, rocc := 0, divp := false } else { c with pc := c.resumePc }
  { c with
    rep := false, st := .running, level := c.home, beats := 2, budget := budget, overrun := false, budgetPend := false
    act := some { relAt := now, kind := kind, endAt := endAt }
    wdAt := if c.fresh ∧ c.wdW ≠ 0 then some now else c.wdAt, fresh := false }

/-- The record of a context that is released shows an uncorrectable error: ECC_UE before its first instruction; a corrected one is
reported (03 R68). -/
def State.recordUpset (s : State) (k slot : Nat) : State :=
  let c := s.ctxAt (ctxId k slot)
  if c.bad.contains recordPlace then let d := s.draw; d.2.fetchFault k (.ecc d.1) c.pc
  else if c.cor.contains recordPlace then s.reportCE k else s

/-- Releases the context of `slot` on engine `k`, whose bank switch restarts the fetch (02 R36, 08 R221, R222, R224). -/
def State.release (s : State) (k slot budget kind endAt : Nat) : State :=
  let id := ctxId k slot
  let c := s.ctxAt id
  let s := (s.ownedOutlets c.gen c.lctx).foldl (fun s n => s.clearStaging n) s
  let s := s.setCtx id (c.released s.now budget kind endAt)
  let s := s.modEng k (fun e => { e.endFlow with
    run := .ctx slot, late := none, stopReq := none, dbg := { e.dbg with fbr := [] } })
  let s := s.pass k [.restart, .restart]
  let s := if s.traced k c then
      s.emit (packet 1 (s.ts ++ [srcByte k] ++ leBytes 2 id ++ leBytes 2 c.lctx))
    else s
  (s.settle k).recordUpset k slot

/-- A retired context becomes UNUSED at its stopping point (13 R352); after COMPLETE its bank and record are zeroed then (13 R354). -/
def State.retire (s : State) (k slot : Nat) : State :=
  let c := s.ctxAt (ctxId k slot)
  if s.retired c then s.setCtx (ctxId k slot) (if (s.slotOf c.gen).st == .empty then {} else { c with st := .unused }) else s

/-- An activation that ends in the beat that passes its budget raises BUDGET in that beat (02 R31, 12 R319). -/
def State.overrun (s : State) (k : Nat) : State :=
  match s.ctxOn k with
  | some id =>
    let c := s.ctxAt id
    if c.overdue then
      (s.modCtx id (fun c => { c with overrun := true, budgetPend := true })).raise
        { w := k, src := if c.db then 4 else 5, arg := some (ctxArg c.gen c.lctx) }
    else s
  | none => s

/-- The engine returns to the escapement and parks (02 R30). -/
def State.toEscapement (s : State) (k : Nat) : State :=
  let s := match (s.engAt k).run with
    | .ctx slot => s.retire k slot
    | .mach (some slot) => s.retire k slot
    | _ => s
  s.modEng k (fun e => { e.endFlow with run := .parked, stopReq := none, dbg := { e.dbg with pass := false } })

/-- A context stops at a stopping point before YIELD (03 R84); the loop buffer's contents are discarded (02 R40). -/
def State.stopCtx (s : State) (k slot : Nat) (reason : Nat) : State :=
  let id := ctxId k slot
  let s := s.traceEnd k (s.ctxAt id) reason
  let s := s.modCtx id (fun c => { c with st := if c.db then .idle else .stopped })
  s.toEscapement k

/-- MACT.ABANDON, also the end of a terminal entry and of a resume outside its slot entry (07 R205, R206, 14 R370). A free context
stops at `pc` with the division that was in progress there (05 R134). -/
def Ctx.abandon (c : Ctx) (pc : Word) (divp : Bool) : Ctx :=
  { c with pc := pc, divp := divp, st := if c.db then .idle else .stopped, act := none }

/-! ### Rebuild (03 R89, 12 R338) -/

/-- Keys of the 64-bit words of the published copy of a context's block; none without a block (R338). -/
def State.blockWords (s : State) (gen : Bool) (lctx : Nat) : List Nat :=
  match (s.img gen).block lctx with
  | none => []
  | some b => (List.range b.length).map (fun i => s.blockKey gen b (s.pubHalf gen lctx) (2 * i))

/-- The words of the published copy of a context's block, or `none` when the restore is prevented (R338): an uncorrectable
word, a fenced bank, or a header of another layout generation. A context without a block has no words. -/
def State.restoreWords (s : State) (gen : Bool) (lctx : Nat) : Option (List Word) :=
  match (s.img gen).block lctx with
  | none => some []
  | some b =>
    let key (w : Nat) := s.blockKey gen b (s.pubHalf gen lctx) w
    if (s.blockWords gen lctx).any s.badWord then none
    else
      let l := (List.range (2 * b.length)).map (fun w => s.rd32 (key w))
      if ((l.getD 1 0) >>> 16).toNat = (s.img gen).hdr.layoutGen then some l else none

/-- Auxiliary registers from the mapped words, in the order of R80. -/
def mapAux (m : BitVec 8) (l : List Word) : Tab Word × List Word :=
  (List.range 8).foldl (fun (p : Tab Word × List Word) i =>
    if m.getLsbD i then (p.1.set (fun _ => 0) i (if i = 6 then p.2.headD 0 &&& 0x1F else if i = 7 then p.2.headD 0 &&& 0xF
      else p.2.headD 0), p.2.drop 1) else p) (([] : Tab Word), l)

/-- The bank of a context rebuilt from block words (03 R89). What the record holds besides is the image's, and the pending
and enabled events stay (log entry 20). -/
def CtxE.rebuild (e : CtxE) (gen : Bool) (old : Ctx) (b : Option CarryE) (words : List Word) : Ctx :=
  let npers := match b with | some b => b.npers | none => 0
  let am := match b with | some b => b.auxmap | none => 0
  let qm := match b with | some b => b.qmap | none => false
  let l := words.drop 2
  let dw := ((l.take npers).zipIdx).foldl (fun (t : Tab Word) p => t.set (fun _ => 0) p.2 p.1) ([] : Tab Word)
  let a := mapAux am (l.drop npers)
  let q : Acc := if qm then ((a.2.getD 2 0).extractLsb' 0 8) ++ (a.2.getD 1 0) ++ (a.2.getD 0 0) else 0
  { dw := dw, dtop := BitVec.ofNat 5 (e.pdepth + 31), docc := e.pdepth, aux := a.1, q := q
    pc := if e.db then e.entry else e.restart, st := .idle, db := e.db, gen := gen, lctx := e.lctx, entry := e.entry
    restart := e.restart, pdepth := e.pdepth, world := e.world, home := e.home, level := e.home, kbase := e.kbase
    vbase := e.vbase, dspill := e.dspill, rspill := e.rspill
    evpend := old.evpend, evmask := old.evmask, ie := old.ie, wdW := old.wdW, wdAt := old.wdAt, fresh := old.fresh
    wdogPend := old.wdogPend, marks := old.marks, builds := old.builds }

/-- RESTORE_FAIL in the window of train `t` (12 R338). -/
def State.restoreFail (s : State) (t arg : Nat) : State := s.raiseLow { w := 72 + t, src := 13, arg := some arg }

/-- Rebuilds the bank at `dst` from the published state of the context whose record is `old`; a failed restore leaves it
RESTORING. `subst` marks a rebuild on another engine (07 R190, 12 R328, R338). -/
def State.restoreCtx (s : State) (dst : Nat) (old : Ctx) (subst : Bool) : State :=
  match s.ctxEntry old.gen old.lctx with
  | none => s
  | some e =>
    match s.restoreWords old.gen old.lctx with
    | some l =>
      let c := e.rebuild old.gen old ((s.img old.gen).block old.lctx) l
      (s.noteWords (s.blockWords old.gen old.lctx)).setCtx dst (if subst then { c with builds := c.builds + 1, fresh := true, wdAt := none } else c)
    | none =>
      ((s.noteWords (s.blockWords old.gen old.lctx)).setCtx dst { old with st := .restoring, act := none }).restoreFail (dst / 256) (ctxArg old.gen old.lctx)

/-! ### Pending events (06 R180-R182, 08 R218, R227) -/

/-- Sets EVPEND bit `bit` of a context. -/
def State.pend (s : State) (gen : Bool) (lctx bit : Nat) : State :=
  match s.locate gen lctx with
  | some id => s.modCtx id (fun c => { c with evpend := c.evpend ||| (1#32 <<< bit) })
  | none => s

/-- Sets every EVPEND bit that an EVENTS source of a kind assigns to an index, under every live context, a context of an image
that is being started among them (08 R227). -/
def State.pendAll (s : State) (kind index : Nat) : State :=
  s.gens.foldl (fun s gen =>
    ((s.img gen).sources.filter (fun x => x.kind == kind && x.index == index && (!s.coexist || s.ctxLive gen x.lctx))).foldl
      (fun s x => s.pend gen x.lctx x.bit) s) s

end Sys2Proof.Machine
end

