-- ==== Sys2Proof/Machine/Control.lean ====
section
/-! DEFINITION. Meanings of groups 16 to 19, 24 and 25: CTRL, TRAP, CSR access, INL and EVT
(spec 04 R113-R115, 06 R157-R171, R177-R183, 07 R200-R210, 12 R341). -/

namespace Sys2Proof.Machine

/-! ### Group 16 -/

/-- NOP. -/
def execNop (k : Nat) (s : State) : Res := runInstr k (gword 16 0) true (fun s _ c => .done s c 1) s

/-- The context of `slot` ends its activation by YIELD: bank, contribution, watchdog (R158, 12 R328). -/
def Ctx.yielded (c : Ctx) (now : Nat) : Ctx :=
  { c with
    pc := c.pc + 2, divp := false, st := .idle
    act := c.act.map (fun a => { a with yieldAt := some now }), wdAt := if c.wdW ≠ 0 then some now else none }

/-- YIELD (02 R55, R158): it completes with the first beat at whose end the store buffer is empty, its own among them. ILLEGAL at
Machine level (07 R203). -/
def yieldBody : Body := fun s w c =>
  if w.level = 3 then .fault s c .illegal
  else
    let s0 := s
    let s := s.elapse w.k [.idle]
    if (s.engAt w.k).sbuf ≠ [] then .wait (s0.begin w.k .inner) c 1 else
    let s := (s.setBank w.k { c with beats := c.beats + 1 }).overrun w.k
    if (s.engAt w.k).st == .fenced then .ended s
    else
      let s := s.setBank w.k ((s.bank w.k).yielded s.now)
      let s := match w.id with
        | some id => s.traceEnd w.k (s.ctxAt id) 0
        | none => s
      .ended ((s.toEscapement w.k).endStep w.k)
/-- YIELD. -/
def execYield (k : Nat) (s : State) : Res := runInstr k (gword 16 0x30) false yieldBody s

/-- WAIT (R160): once it waits, an event lets it complete before its entry is taken. ILLEGAL in deadbeat mode and at Machine level
(02 R44, 07 R203). -/
def execWait (k : Nat) (s : State) : Res :=
  runInstr k (gword 16 0x40) false (fun s w c =>
    if w.db then .fault s c .illegal
    else if (c.evpend &&& c.evmask) ≠ 0 then .done s c 1 else .wait (s.begin w.k .event) c 1) s

/-- SYNC counts its beats as YIELD does; in free mode it waits for the boundary write queue too (02 R55, R57, R159). -/
def syncBody : Body := fun s w c =>
  let e := (s.elapse w.k [.idle]).engAt w.k
  if e.sbuf = [] ∧ (w.db ∨ e.bq = []) then .done s c 1
  else .wait (s.begin w.k (if w.db ∨ e.bq = [] then .inner else .boundary)) c 1
/-- SYNC. -/
def execSync (k : Nat) (s : State) : Res := runInstr k (gword 16 0x50) false syncBody s

/-- LOCK n; its own beat is the first of the bracket (R157, R164, R165). -/
def execLock (k : Nat) (n : BitVec 4) (s : State) : Res :=
  runInstr k (gword 16 (0x60 + n.toNat)) false (fun s w c =>
    if n = 0 ∨ 8 < n.toNat then .fault s c .illegal
    else .done (s.modEng w.k (fun e => { e with lock := n.toNat + 1, lockBeats := 0 })) c 1) s

/-- The 16th beat of a bracket ends it (R165). -/
def execLockTrunc (k : Nat) (s : State) : Res :=
  if !s.hasEngine k then .fault .noSuchUnit
  else
    let e := s.engAt k
    if e.lock ≠ 0 ∧ 16 ≤ e.lockBeats then
      .next (((s.modEng k (fun e => { e with lock := 0, lockBeats := 0 })).raiseInfo { w := k, src := 8 }).endStep k)
    else .next s

/-- The instructions that REP may precede (R162). -/
def repLegal (w : BitVec 16) : Bool :=
  let g := groupOf w
  let f := w.toNat % 256
  w.msb || (isGeneral w &&
    (decide (g ≤ 4) || (g == 5 && decide (f ≤ 5)) || g == 6 || (decide (8 ≤ g) && decide (g ≤ 14)) ||
     (g == 15 && !((f / 64 == 1 || f / 64 == 2) && f % 8 == 5)) || g == 24))

/-- REP (R161-R163). With C = 0 the next instruction is skipped; a miss of its cache line waits. A following address that cannot be
fetched faults the REP in no case: only its fetch for a repetition does. Legality is judged on the stored bytes of the next word, one that
decodes as uncorrectable too (log entry 56). -/
def repBody : Body := fun s w c =>
  let a := c.pc.toNat + 2
  let known := fetchable c.db a
  let line := (s.engAt w.k).line? a
  if known && rgnOf a != some .ls && line.isNone then .wait (s.wantLine w.k a) c 0
  else if known && rgnOf a != some .ls && line.any (·.par) then .wait (s.dropLine w.k a) c 0
  else if known && !repLegal (s.fetch w.k a) then .fault s c .illegal
  else
    let s := if w.level = 3 then s else s.traceWord w.k c 4 (c.auxR 5)
    if c.cnt = 0 then .done s { c with pc := c.pc + 2 } 1
    else .wait s { c with rep := true, pc := c.pc + 2 } 1
/-- REP. -/
def execRep (k : Nat) (s : State) : Res := runInstr k (gword 16 0x70) false repBody s

/-- BKPT t: the debug halt, or the fault (R169, 14 R366). -/
def bkptBody (t : BitVec 4) : Body := fun s w c =>
  let d := (s.engAt w.k).dbg
  if d.bkhalt && decide (w.level ≠ 3) && w.sel && d.ctxm == BitVec.ofNat 10 w.lctx && s.lcs.st != .scrapped then
    .wait (s.requestHalt w.k 2) c 6
  else .fault s c { code := 0xD, arg := t.toNat }
/-- BKPT. -/
def execBkpt (k : Nat) (t : BitVec 4) (s : State) : Res := runInstr k (gword 16 (0x80 + t.toNat)) false (bkptBody t) s

/-- TRAP n (R168). -/
def execTrap (k : Nat) (n : BitVec 8) (s : State) : Res :=
  runInstr k (gword 17 n.toNat) false (fun s _ c => .fault s c { code := 0xC, arg := n.toNat }) s

/-! ### RETI (R170, 07 R208) -/

/-- A passed RETI at Machine level to the context of `slot`: a terminal entry acts as MACT.ABANDON (07 R205). -/
def State.retiMachine (s : State) (k slot : Nat) (m : Ctx) : State :=
  let id := ctxId k slot
  let s := s.addBeats k 6
  let c := s.ctxAt id
  if (m.shw 1).getLsbD 30 then
    let s := s.overrun k
    if (s.engAt k).st == .fenced then s else
    ((s.modEng k (fun e => { e with mb := { m with nest := 0 } })).setCtx id (c.abandon (evenPc (m.shw 0)) ((m.shw 1).getLsbD 31))).toEscapement k
  else
    let s := s.setCtx id (c.restore m)
    let s := s.modEng k (fun e => { e.endFlow with mb := { m with nest := 0 }, run := .ctx slot, dbg := { e.dbg with pass := false } })
    s.traceWord k c 3 (evenPc (m.shw 0))

/-- RETI. -/
def retiBody : Body := fun s w c =>
  let inner := (s.engAt w.k).run
  match inner with
  | .mach none => .fault s c .illegal
  | .parked => .ended s
  | .mach (some slot) =>
    match retiCheck c 3 false (s.ctxAt (ctxId w.k slot)).db with
    | some f => .fault s c f
    | none => .ended (((s.pass w.k entryBeats).retiMachine w.k slot c).endStep w.k)
  | .ctx _ =>
    match retiCheck c w.level w.world c.db with
    | some f =>
      if f.reti ∧ f.arg = 0x14 ∧ c.rocc < 8 ∧ 0 < c.rused then Stop.res (.fusee .fillReturn) w.k s c
      else .fault s c f
    | none =>
      let r := c.restore c
      let r := { (if 1 < c.nest then r.popShadow else r) with nest := c.nest - 1, beats := c.beats + 6 }
      let s := ((s.pass w.k entryBeats).setBank w.k r).modEng w.k (fun e => { e.endFlow with dbg := { e.dbg with pass := false } })
      .ended (s.endStep w.k)
/-- RETI. -/
def execReti (k : Nat) (s : State) : Res := runInstr k (gword 16 0x20) false retiBody s

/-! ### CSRs (04 R113, R114, 07 R200, R209, R210, 12 R341) -/

/-- A defined CSR number. -/
def csrDefined (n : Nat) : Bool :=
  decide (n ≤ 3) || decide (8 ≤ n ∧ n ≤ 0xB) || decide (0x10 ≤ n ∧ n ≤ 0x15) || n == 0x18 ||
  decide (0x40 ≤ n ∧ n ≤ 0x4B) || decide (0xC0 ≤ n ∧ n ≤ 0xC4) || decide (0xD0 ≤ n ∧ n ≤ 0xD4)

/-- The lowest level that may access a CSR (R113). -/
def csrLevel (n : Nat) : Nat := if n < 0x40 then 0 else if n < 0x80 then 1 else 3

/-- ILLEGAL or PRIV of a CSR access. -/
def csrCheck (n level : Nat) : Option Flt :=
  if !csrDefined n then some .illegal
  else if level < csrLevel n then some (.priv 1 (BitVec.ofNat 32 n)) else none

/-- FW_CAP of a window without its read effect (12 R314). -/
def FW.cap (f : FW) : Word :=
  BitVec.ofNat 32 (f.capValid.toNat * 2 ^ 31 + f.capConseq.toNat * 2 ^ 30 + f.capForced.toNat * 2 ^ 29 +
    f.capSrc.toNat * 2 ^ 24 + f.capArg.toNat)

/-- CTXINFO of a bank (03 R83). -/
def Ctx.info (c : Ctx) (id : Nat) : Word :=
  BitVec.ofNat 32 (c.gen.toNat * 2 ^ 31 + c.db.toNat * 2 ^ 30 + c.lctx % 1024 * 65536 + id % 2048)

/-- The value of a defined CSR; Machine-level code reads the Machine bank's record. The Machine bank has no CTXID: CTXINFO at M shows the
interrupted context's beside GEN, DB and LCTX of the record (log entry 21). -/
def csrValue (s : State) (w : Who) (c : Ctx) (n : Nat) : Word :=
  let ctx := match w.id with
    | some id => if w.level = 3 then s.ctxAt id else c
    | none => c
  match n with
  | 0x00 => s.time.extractLsb' 0 32
  | 0x01 => s.time.extractLsb' 32 32
  | 0x02 => BitVec.ofNat 32 ctx.beats
  | 0x03 => BitVec.ofNat 32 ctx.budget
  | 0x08 => s.variant.feat 0
  | 0x09 => s.variant.feat 1
  | 0x0A => s.variant.feat 2
  | 0x0B => s.variant.feat 3
  | 0x10 => c.info (w.id.getD 0)
  | 0x11 => BitVec.ofNat 32 (c.dused % 8192 * 65536 + c.docc)
  | 0x12 => BitVec.ofNat 32 (c.rused % 8192 * 65536 + c.rocc)
  | 0x13 => c.dspill
  | 0x14 => c.rspill
  | 0x15 => c.kbase
  | 0x48 => BitVec.ofNat 32 (c.nest % 65536 * 65536 + (s.dual w.gen).toNat * 8 +
      (if w.level = 3 then 0 else w.world.toNat) * 4 + w.level)
  | 0x49 => c.vbase
  | 0x4A => c.evmask
  | 0x4B => BitVec.ofNat 32 c.ie.toNat
  | 0xC0 => match w.id with
    | some id => BitVec.ofNat 32 (w.gen.toNat * 2 ^ 31 + w.lctx % 1024 * 65536 + id % 2048)
    | none => 0
  | 0xC1 => BitVec.ofNat 32 (s.engAt w.k).st.code
  | 0xC3 => BitVec.ofNat 32 (s.engAt w.k).mhb
  | 0xC4 => (s.engAt w.k).mvbase
  | 0xD1 => (s.fwAt w.k).stat
  | 0xD2 => (s.fwAt w.k).cap
  | 0xD3 => s.trbMap (trainOf w.k)
  | 0xD4 => s.tspare (trainOf w.k)
  | n => if 0x40 ≤ n ∧ n ≤ 0x47 then (if c.nest = 0 then 0 else c.shw (n - 0x40)) else 0

/-- CSRR (R113, R171). DSTAT and RSTAT return the state before the instruction: they are read before the push makes room (03 R83; log
entry 52). -/
def csrrBody (n : Nat) : Body := fun s w c =>
  match csrCheck n w.level with
  | some f => .fault s c f
  | none =>
    match (s.engAt w.k).begun with
    | .value v => pushRead v s w c 1
    | _ =>
      if n = 0x11 ∨ n = 0x12 then pushRead (csrValue s w c n) s w c 1
      else match c.roomData 0 1 with
        | some x => x.res w.k s c
        | none => .done s (c.push (csrValue s w c n)) 1
/-- CSRR n. -/
def execCsrr (k : Nat) (n : BitVec 8) (s : State) : Res := runInstr k (gword 18 n.toNat) true (csrrBody n.toNat) s

/-- SSTAT after a CSR write: DIVP and TERM are read-only, LEVEL 0b10 is ignored, and a write of SPC elsewhere ends the
division mark, which belongs to SPC (R200). -/
def sstatWrite (old v : Word) : Word :=
  let m : Word := if v.extractLsb' 24 2 = 0b10 then 0x0C000F1F else 0x0F000F1F
  (old &&& ~~~m) ||| (v &&& m)

/-- A write to the shadow bank (R200). -/
def Ctx.csrShadow (c : Ctx) (n : Nat) (v : Word) : Ctx :=
  if c.nest = 0 then c
  else if n = 0x40 then
    let spc := v &&& 0xFFFFFFFE
    let c1 := c.setSh 0 spc
    if spc = c.shw 0 then c1 else c1.setSh 1 (c.shw 1 &&& 0x7FFFFFFF)
  else if n = 0x41 then c.setSh 1 (sstatWrite (c.shw 1) v)
  else c

/-- MACT: the handler ends without a return (07 R206). The Machine bank `m` has lost its operand. -/
def State.mact (s : State) (k : Nat) (m : Ctx) (v : Word) : State :=
  match (s.engAt k).run with
  | .mach (some slot) =>
    let id := ctxId k slot
    let s := ((s.pass k [.idle, .idle]).addBeats k 2).overrun k
    if (s.engAt k).st == .fenced then s else
    let s := s.modEng k (fun e => { e with mb := { m.advance with nest := 0 } })
    let s := if v.getLsbD 1 then s.restoreCtx id (s.ctxAt id) false
             else s.setCtx id ((s.ctxAt id).abandon (evenPc (m.shw 0)) ((m.shw 1).getLsbD 31))
    s.toEscapement k
  | _ => s

/-- The effect of a CSR write that passed its checks, on a bank that has lost the operand `v`. -/
def csrEffect (s : State) (w : Who) (c : Ctx) (n : Nat) (v : Word) : IRes :=
  let c1 := c.drop 1
  if n = 0xC2 then
    if v &&& 3 = 0 then .fault s c { Flt.illegal with csr := n }
    else match (s.engAt w.k).run with
      | .mach (some _) => .ended ((s.mact w.k c1 v).endStep w.k)
      | _ => .done s c1 2
  else if n = 0xD0 then
    let sev := (v.extractLsb' 24 3).toNat
    if 4 < sev then .fault s c { Flt.illegal with csr := n }
    else .done (s.raise { w := w.k, src := 12, arg := some (v.toNat % 2 ^ 24), minSev := sev }) c1 2
  else if n = 0x18 then
    .done (if v.getLsbD 0 then s.modEng w.k (fun e => { e with icache := [] }) else s) c1 2
  else if n = 0x4A then .done s { c1 with evmask := v } 2
  else if n = 0x4B then .done s { c1 with ie := v.getLsbD 0 } 2
  else .done s (c1.csrShadow n v) 2

/-- CSRW (R113, R171). -/
def csrwBody (n : Nat) : Body := fun s w c =>
  match csrCheck n w.level with
  | some f => .fault s c { f with csr := n }
  | none =>
    match c.needData 1 with
    | some (.flt f) => .fault s c { f with csr := n }
    | some x => x.res w.k s c
    | none => csrEffect s w c n c.t
/-- CSRW n. -/
def execCsrw (k : Nat) (n : BitVec 8) (s : State) : Res := runInstr k (gword 19 n.toNat) true (csrwBody n.toNat) s

/-- ICINV: a CSRW of CSR 0x18 with INV set (04 R114). -/
def execIcinv (k : Nat) (s : State) : Res :=
  if s.hasEngine k && !(s.bank k).t.getLsbD 0 then .next s else runInstr k (gword 19 0x18) true (csrwBody 0x18) s

/-- MACT.RESTART: a CSRW of CSR 0xC2 with RESTART set (07 R206). -/
def execMactRestart (k : Nat) (s : State) : Res :=
  if s.hasEngine k && !(s.bank k).t.getLsbD 1 then .next s else runInstr k (gword 19 0xC2) true (csrwBody 0xC2) s

/-- MACT.ABANDON: a CSRW of CSR 0xC2 with ABANDON set and RESTART clear (07 R206). -/
def execMactAbandon (k : Nat) (s : State) : Res :=
  if s.hasEngine k && ((s.bank k).t.getLsbD 1 || !(s.bank k).t.getLsbD 0) then .next s
  else runInstr k (gword 19 0xC2) true (csrwBody 0xC2) s

/-- FREC: a CSRW of CSR 0xD0 (12 R341). -/
def execFrec (k : Nat) (s : State) : Res := runInstr k (gword 19 0xD0) true (csrwBody 0xD0) s

/-! ### INL (R177-R179) -/

/-- The status word of INLS: STALE, CONSUMED, then VALID, SETTLE, TSAMP and SEQ of the record (R178, 10 R259). -/
def inlStatus (stale consumed : Bool) (r : Word64) : Word :=
  BitVec.ofNat 32 (stale.toNat * 2 ^ 31 + consumed.toNat * 2 ^ 30 + (r.extractLsb' 32 4).toNat % 2 * 2 ^ 29 +
    (r.extractLsb' 33 3).toNat * 2 ^ 26 + (r.extractLsb' 49 15).toNat * 2 ^ 11 + (r.extractLsb' 24 8).toNat)

/-- INL and INLS of channel `ch`. -/
def inlBody (ch : Nat) (status : Bool) : Body := fun s w c =>
  if !s.schRouted w.k ch then .fault s c (.priv 4 (BitVec.ofNat 32 (0x02000000 + 8 * ch)))
  else match c.roomData 0 (if status then 2 else 1) with
    | some x => x.res w.k s c
    | none =>
      let r := (s.recAt (trainOf w.k) ch).word
      let x := s.readSample w.k c ch
      let v : Word := (r.extractLsb' 0 24).setWidth 32 <<< 8
      .done x.2.2.1 (x.2.2.2.pushAll (if status then [inlStatus x.1 x.2.1 r, v] else [v])) 1
/-- INL ch. -/
def execInl (k : Nat) (ch : BitVec 7) (s : State) : Res := runInstr k (gword 24 ch.toNat) true (inlBody ch.toNat false) s
/-- INLS ch. -/
def execInls (k : Nat) (ch : BitVec 7) (s : State) : Res :=
  runInstr k (gword 24 (0x80 + ch.toNat)) true (inlBody ch.toNat true) s

/-! ### EVT and mailboxes (R180-R183) -/

/-- EVT.ACK e (R181). At M it acts on the Machine bank's own EVPEND (log entry 21). -/
def execEvtAck (k : Nat) (e : BitVec 5) (s : State) : Res :=
  runInstr k (gword 25 e.toNat) true (fun s _ c =>
    .done s { c with evpend := c.evpend &&& ~~~(1#32 <<< e.toNat) } 2) s
/-- EVT.PEND (R181), at M of the Machine bank's own EVPEND (log entry 21). -/
def execEvtPend (k : Nat) (s : State) : Res :=
  runInstr k (gword 25 0x20) true (stackBody 0 1 2 (fun s _ c => (s, c.push c.evpend))) s

/-- The mailbox PRIV fault; SADDR names the mailbox (07 R184, R201; log entry 22). -/
def mboxPriv (m : Nat) : Flt := Flt.priv 6 (BitVec.ofNat 32 (0x02400000 + 0x40 * m))

/-- MB.POST m (R182). -/
def mbPostBody (m : Nat) : Body := fun s w c =>
  let t := trainOf w.k
  if (s.engAt w.k).sbuf ≠ [] then .wait (s.begin w.k .inner) c 1
  else match s.mboxEntry t m with
    | none => .fault s c (mboxPriv m)
    | some (gen, x) =>
      if gen ≠ w.gen ∨ !x.senders.contains w.lctx then .fault s c (mboxPriv m)
      else match c.roomData 0 1 with
        | some y => y.res w.k s c
        | none =>
          if (s.mboxAt t m).full then .done (s.modMbox t m (fun b => { b with ovr := true, ovrNow := true })) (c.push 0) 2
          else
            let s := s.modMbox t m (fun b => { b with full := true, seq := b.seq + 1 })
            match (s.img gen).sources.find? (fun y => y.kind == 1 && y.index == 32 * t + m) with
            | none => .done s (c.push 1) 2
            | some y =>
              if w.id = s.locate gen y.lctx ∧ w.level ≠ 3 then
                .done s { c.push 1 with evpend := c.evpend ||| (1#32 <<< y.bit) } 2
              else .done (s.pend gen y.lctx y.bit) (c.push 1) 2
/-- MB.POST. -/
def execMbPost (k : Nat) (m : BitVec 5) (s : State) : Res := runInstr k (gword 25 (0x40 + m.toNat)) true (mbPostBody m.toNat) s

/-- MB.TAKE m (R182). -/
def mbTakeBody (m : Nat) : Body := fun s w c =>
  let t := trainOf w.k
  match s.mboxEntry t m with
  | none => .fault s c (mboxPriv m)
  | some (gen, x) =>
    if gen ≠ w.gen ∨ x.receiver ≠ w.lctx then .fault s c (mboxPriv m)
    else match c.roomData 0 1 with
      | some y => y.res w.k s c
      | none =>
        let b := s.mboxAt t m
        if b.full then
          .done (s.modMbox t m (fun b => { b with full := false })) (c.push (0x80000000 ||| b.seq.setWidth 32)) 2
        else .done s (c.push 0) 2
/-- MB.TAKE. -/
def execMbTake (k : Nat) (m : BitVec 5) (s : State) : Res := runInstr k (gword 25 (0x60 + m.toNat)) true (mbTakeBody m.toNat) s

/-- EVT.HOST e (R181, 17 R424). -/
def execEvtHost (k : Nat) (e : BitVec 5) (s : State) : Res :=
  runInstr k (gword 25 (0x80 + e.toNat)) true (fun s w c =>
    .done (s.modTrain (trainOf w.k) (fun t => { t with
      hev := t.hev ||| (1#32 <<< e.toNat), hevNow := t.hevNow ||| (1#32 <<< e.toNat) })) c 2) s

end Sys2Proof.Machine
end

