-- ==== Sys2Proof/Machine/Trips.lean ====
section
/-! DEFINITION. Trip channels and the trip override that every change of a trip shares (spec 09 R246, R247, 10 R276-R284,
16 R407). -/

namespace Sys2Proof.Machine

/-- Outlets of group `g` under the image in force, with their safe values. -/
def State.grpSafe (s : State) (g : Nat) : List (Nat × Word) :=
  match s.group g with
  | some (gen, _) => ((s.img gen).outletsOf g).map (fun n => (n, (s.img gen).safeOf g n))
  | none => []

/-- A safe value goes to the host unit of an outlet: the port takes one write a tick (16 R404, R409). -/
def State.writeSafe (s : State) (n : Nat) (v : Word) : State := { s with safeQ := s.safeQ ++ [(n, v)] }

/-- The safe-value port in the next tick (16 R404). -/
def State.safeWrite (s : State) : State :=
  match s.safeQ with
  | [] => { s with pins := { s.pins with otlSv := false } }
  | (n, v) :: r =>
    { s.modOut n (fun o => { o with safeReg := v }) with
      safeQ := r, pins := { s.pins with otlSv := true, otlSch := BitVec.ofNat 9 n, otlSd := v } }

/-- The trip override: safe values at once, which become the committed values (09 R246, R247). -/
def State.override (s : State) (l : List (Nat × Word)) : State :=
  l.foldl (fun s p => s.modOut p.1 (fun o => { o with cmd := 0b11, committed := p.2 })) s

/-- Outlets leave TRIPPED: code 0b00 follows, outside SAFE (16 R407). -/
def State.untrip (s : State) (l : List (Nat × Word)) : State :=
  if s.gf.safe then s else l.foldl (fun s p => s.modOut p.1 (fun o => { o with cmd := 0b00 })) s

/-- The outlets of TRIPPED groups, which carry 0b11, with their safe values (16 R407). -/
def State.trippedSafe (s : State) : List (Nat × Word) :=
  (List.range 64).flatMap (fun g => if s.grpTripped g then s.grpSafe g else [])

/-- Applies a change of trip state or of the image in force: the override to every outlet that joins a TRIPPED group, code 0b00 to every
one that leaves. -/
def State.tripChange (s : State) (f : State → State) : State :=
  let s' := f s
  let a := s.trippedSafe
  let b := s'.trippedSafe
  (s'.untrip (a.filter (fun p => !b.any (fun q => q.1 == p.1)))).override (b.filter (fun p => !a.contains p))

/-- The comparator's decision counts now (R280). -/
def Trip.above (t : Trip) : Bool := t.inp == 0b01 && !(t.cfg.getLsbD 23 && t.blank)

/-- The latch of channel `n` at an edge, with the trip-call event of a latch that sets (R280, R283). -/
def State.tripEdge (s : State) (n : Nat) : State :=
  let t := s.tripAt n
  if s.tripOn n && t.above && t.cfg.extractLsb' 28 2 != 0b10 && !t.latch then
    (s.modTrip n (fun t => { t with latch := true })).pendAll 4 n
  else s

/-- The latches of every channel at an edge, where groups begin to run that they guard (R277, R280). -/
def State.tripEdges (s : State) : State := (List.range 64).foldl State.tripEdge s

/-- A clear of the latch of channel `n`: void unless the comparator reports 0b00 (R280). -/
def State.tripClear (s : State) (n : Nat) : State :=
  if (s.tripAt n).inp == 0b00 then s.modTrip n (fun t => { t with latch := false }) else s

/-- The reference code sent to the comparator of channel `n` (R279). Before PG's first period event, m counts from tick 0 (log entry
76). -/
def State.trpRef (s : State) (n : Nat) : Nat :=
  let t := s.tripAt n
  let level := t.ref.toNat % 4096
  if t.cfg.getLsbD 30 then
    level - t.ref.toNat / 2 ^ 20 * (s.now - s.pgAt.get (fun _ => 0) (t.cfg.extractLsb' 24 4).toNat) / 16
  else level

/-- TRIP_INPUT: a comparator state; 0b11 is taken as 0b10 (R276, R280, 16 R403). -/
def execTripInput (n : Nat) (st : BitVec 2) (s : State) : Res :=
  if 64 ≤ n then .fault .noSuchUnit
  else .next (s.tripChange (fun s =>
    (s.modTrip n (fun t => { t with inp := if st = 0b11 then 0b10 else st })).tripEdge n))

/-- TRIP_BLANK: the blanking window of a channel opens or closes (R280). -/
def execTripBlank (n : Nat) (level : Bool) (s : State) : Res :=
  if 64 ≤ n then .fault .noSuchUnit
  else .next (s.tripChange (fun s => (s.modTrip n (fun t => { t with blank := level })).tripEdge n))

/-- The configuration of a channel; with CLR = 0b10 no latch exists (R280). -/
def Trip.configure (t : Trip) (cfg : Word) : Trip :=
  { t with cfg := cfg, latch := t.latch && cfg.extractLsb' 28 2 != 0b10 }

/-- Writes TRP_CFG of a channel: CLR 0b11 leaves that field unchanged (R278). -/
def State.tripCfg (s : State) (n : Nat) (v : Word) : State :=
  s.tripChange (fun s =>
    (s.modTrip n (fun t =>
      let m : Word := if v.extractLsb' 28 2 = 0b11 then 0xCF800000 else 0xFF800000
      t.configure ((t.cfg &&& ~~~m &&& 0xFF800000) ||| (v &&& m)))).tripEdge n)

/-- Clears the latches named in a word, for channels from `base` (R281). -/
def State.tripClearWord (s : State) (base : Nat) (v : Word) : State :=
  s.tripChange (fun s => (List.range 32).foldl (fun s i =>
    if v.getLsbD i then (s.tripClear (base + i)).tripEdge (base + i) else s) s)

/-- The trips at a period event of generator `p`: period clear and ramp restart (R279, R280, R284). -/
def State.tripPeriod (s : State) (p : Nat) : State :=
  let s := { s with pgAt := s.pgAt.set (fun _ => 0) p s.now }
  s.tripChange (fun s => (List.range 64).foldl (fun s n =>
    let t := s.tripAt n
    if (t.cfg.extractLsb' 24 4).toNat = p ∧ t.cfg.extractLsb' 28 2 = 0b01 ∧ t.latch then (s.tripClear n).tripEdge n else s) s)

end Sys2Proof.Machine
end

