-- ==== Sys2Proof/Machine/Escapement.lean ====
section
/-! DEFINITION. Meanings of the escapement's events: period events and releases (spec 08 R218-R224, 14 R367). -/

namespace Sys2Proof.Machine

/-- PERIOD_EVENT p: offset 0 of generator p (08 R218, 10 R279, R280). -/
def execPeriodEvent (p : Nat) (s : State) : Res :=
  if 16 ≤ p then .fault .noSuchUnit
  else match s.period p with
    | none => .next s
    | some e =>
      if e.offset s.now = 0 then
        let s := (s.pendAll 0 p).tripPeriod p
        .next (if e.hostev then { s with pins := { s.pins with evtPg := s.pins.evtPg ||| (1#16 <<< p) } } else s)
      else .next s

/-! ### The merged slot table of a position (R219, R220, 13 R349) -/

/-- An entry in force with its generation and generator. -/
structure TabEnt where
  gen : Bool
  per : PeriodE
  ent : SlotEnt
  deriving DecidableEq, Repr

/-- Every entry of the tables of a position. -/
def State.entries (s : State) (t p : Nat) : List TabEnt :=
  s.gens.flatMap (fun gen =>
    if s.running gen || s.coexist then
      ((s.img gen).tables.filter (fun x => x.train == t && x.pos == p)).flatMap (fun x =>
        x.entries.map (fun e => { gen := gen, per := (s.img gen).period x.pg, ent := e }))
    else [])

/-- Ticks from `now` to the next START of an entry, at least 1. -/
def TabEnt.dist (x : TabEnt) (now : Nat) : Nat :=
  let d := (x.ent.start + x.per.period - x.per.offset now) % x.per.period
  if d = 0 then x.per.period else d

/-- Ticks since the last START of an entry. -/
def TabEnt.since (x : TabEnt) (now : Nat) : Nat := (x.per.offset now + x.per.period - x.ent.start % x.per.period) % x.per.period

/-- Ticks to the next START of any entry. -/
def nextDist (l : List TabEnt) (now : Nat) : Nat := (l.map (fun x => x.dist now)).foldl Min.min (2 ^ 24)

/-- The entries in force: those with the latest START. -/
def inForce (l : List TabEnt) (now : Nat) : List TabEnt := l.filter (fun x => l.all (fun y => decide (x.since now ≤ y.since now)))

/-- The stop lead SL of a position, with the larger MHB (R220, 13 R349). -/
def State.stopLead (s : State) (t p : Nat) : Nat :=
  ((s.gens.filter (fun gen => s.running gen || s.coexist)).map (fun gen =>
    let i := s.img gen
    i.hdr.tickFloor (28 + (match i.mach t p with | some m => m.mhb | none => 0)) + 1)).foldl Max.max 0

/-- Ticks from `now` to stop() of the entry that is in force at `now` (R220). -/
def State.stopDist (s : State) (t p now : Nat) : Nat :=
  let l := s.entries t p
  let d := nextDist l now
  if l.any (fun x => x.dist now == d && x.ent.kind == 0) then d - s.stopLead t p else d

/-- The stop tick of the event segment in force at `now` (R223): entries of one wake set of one image follow each other, whatever the
other image's table holds beside them (as in `Tbl.segLen`). A table whose entries are all EVENT of one wake set has no last entry; the
walk ends after as many further STARTs as there are entries (DESIGN CHOICE, log entry 71). -/
def State.segmentStop (s : State) (t p : Nat) (gen : Bool) (wake : Nat) : Nat → Nat → Nat
  | 0, now => now + s.stopDist t p now
  | n + 1, now =>
    let l := s.entries t p
    let d := nextDist l now
    if l.any (fun x => x.dist now == d && x.ent.kind == 2 && x.gen == gen && x.ent.lctx == wake) then
      s.segmentStop t p gen wake n (now + d)
    else now + s.stopDist t p now

/-! ### Releases -/

/-- The escapement counts a release skipped by a halt (14 R367). -/
def State.skipRelease (s : State) (k slot : Nat) : State :=
  s.modEng k (fun e => { e with late := none, relAt := some s.now, dbg := { e.dbg with
    skiprel := Min.min (e.dbg.skiprel + 1) 0xFFFF
    skipped := if e.dbg.skipped.contains slot then e.dbg.skipped else e.dbg.skipped ++ [slot] } })

/-- A context may be released: IDLE or STOPPED (03 R84). -/
def Ctx.ready (c : Ctx) : Bool := c.st == .idle || c.st == .stopped

/-- The skipped mark of a slot ends with its next release. -/
def State.unskip (s : State) (k slot : Nat) : State :=
  s.modEng k (fun e => { e with dbg := { e.dbg with skipped := e.dbg.skipped.filter (· ≠ slot) } })

/-- The entry of `lctx` with kind `kind` in the table of its position that is in force, and the ticks since its START. -/
def State.entryNow (s : State) (gen : Bool) (lctx kind : Nat) : Option (CtxE × TabEnt × Nat) :=
  match s.ctxEntry gen lctx with
  | none => none
  | some e =>
    let l := s.entries e.train e.pos
    match (inForce l s.now).find? (fun x => x.gen == gen && x.ent.kind == kind && x.ent.lctx == lctx) with
    | some x => some (e, x, x.since s.now)
    | none => none

/-- The escapement releases contexts of this image now. -/
def State.releasing (s : State) (gen : Bool) (lctx : Nat) : Bool := !s.gf.safe && s.anyRunning && s.ctxLive gen lctx

/-- A release of another entry than the FREE one of `slot` waits for a stopping point; a wait of an entry that has ended counts no
more. -/
def Engine.lateWaits (e : Engine) : Bool := e.late.any (fun r => r.kind == 0)

/-- The release at a START: at once on a parked engine; otherwise the stopping point that the stop request brings is awaited (08 R221,
R222). A halted engine skips it (14 R367). -/
def State.releaseAt (s : State) (k slot : Nat) (r : LateRel) : State :=
  let e := s.engAt k
  if e.dbg.halted then s.skipRelease k slot
  else if e.st != .service then s
  else if e.run == .parked && (s.ctxAt (ctxId k slot)).ready then
    ((s.unskip k slot).modEng k (fun e => { e with relAt := some s.now })).release k slot r.budget r.kind r.endAt
  else (s.sendStop k).modEng k (fun e => { e with late := some r, relAt := some s.now })

/-- The release of an entry may still be made at this tick: the image runs, the context is assigned, and the START has not been
served. -/
def State.unserved (s : State) (gen : Bool) (lctx id : Nat) : Bool :=
  let c := s.ctxAt id
  s.releasing gen lctx && c.st != .restoring && c.st != .unused && (s.engAt (engOfCtx id)).relAt != some s.now

/-- DEADBEAT_RELEASE (08 R221, 14 R367). -/
def execDeadbeatRelease (gen : Bool) (lctx : Nat) (s : State) : Res :=
  match s.entryNow gen lctx 0, s.locate gen lctx with
  | some (e, x, 0), some id =>
    let endAt := s.now + nextDist (s.entries e.train e.pos) s.now
    .next (if s.unserved gen lctx id then
      s.releaseAt (engOfCtx id) (id % 16) { slot := id % 16, budget := x.ent.budget, endAt := endAt }
    else s)
  | _, _ => .next s

/-- RELEASE_LATE: the late stopping point has been reached and the release follows, with its full budget (08 R221, 17 R421). -/
def execReleaseLate (k : Nat) (s : State) : Res :=
  if !s.hasEngine k then .fault .noSuchUnit
  else
    let e := s.engAt k
    match e.late with
    | some r =>
      let c := s.ctxAt (ctxId k r.slot)
      .next (
        if r.kind == 0 && e.run == .parked && !e.dbg.halted && e.st == .service && c.ready && s.releasing c.gen c.lctx then
          let s := { s with esc := { s.esc with late := Min.min (s.esc.late + 1) 0xFFFF } }.raiseLow
            { w := 80, src := 0, arg := some (ctxArg c.gen c.lctx), eng := some k }
          (s.unskip k r.slot).release k r.slot r.budget 0 r.endAt
        else s)
    | none => .next s

/-- FREE_RELEASE: at the START of the entry, or within it once the activation before it has parked (08 R222). A context that has been
released, skipped, abandoned or restarted waits for the next START. -/
def execFreeRelease (gen : Bool) (lctx : Nat) (s : State) : Res :=
  match s.entryNow gen lctx 1, s.locate gen lctx with
  | some (e, x, d), some id =>
    let k := engOfCtx id
    let slot := id % 16
    let eng := s.engAt k
    let start := s.now - d
    let r : LateRel := { slot := slot, budget := x.ent.budget, endAt := start + s.stopDist e.train e.pos start, kind := 1 }
    .next (
      if d = 0 then (if s.unserved gen lctx id then s.releaseAt k slot r else s)
      else if eng.late == some r && eng.run == .parked && !eng.dbg.halted && eng.st == .service && s.releasing gen lctx &&
          (s.ctxAt id).ready then
        (s.unskip k slot).release k slot r.budget 1 r.endAt
      else s)
  | _, _ => .next s

/-- The wake set of an image. -/
def Image.wake (i : Image) (n : Nat) : List Nat := match i.wakes[n]? with | some w => w.members | none => []

/-- The event segment of `x` begins at this tick: its entry does, and the entry before it is of another segment (08 R223). -/
def State.segmentStart (s : State) (t p : Nat) (x : TabEnt) : Bool :=
  x.since s.now == 0 &&
    !(inForce (s.entries t p) (s.now - 1)).any (fun y => y.ent.kind == 2 && y.gen == x.gen && y.ent.lctx == x.ent.lctx)

/-- The first member of a wake set whose events are pending and which fits before the window's stop tick (08 R224). -/
def State.firstMember (s : State) (x : TabEnt) (stop : Nat) : Option (Nat × CtxE) :=
  ((s.img x.gen).wake x.ent.lctx).findSome? (fun lctx =>
    match s.ctxEntry x.gen lctx, s.locate x.gen lctx with
    | some e, some id =>
      let c := s.ctxAt id
      if s.releasing x.gen lctx && c.ready && (c.evpend &&& c.evmask) != 0 &&
          decide (s.now + (s.img x.gen).hdr.tickNeed e.ebudget + 1 ≤ stop) then some (id, e) else none
    | _, _ => none)

/-- The event release of entry `x`: on a parked engine that has rejoined its table (14 R370), the first member that fits. A halted engine
skips the release that a decision point makes due, which is counted once in the member's segment (08 R224, 14 R367; log entry 59). -/
def State.eventRelease (s : State) (t p : Nat) (x : TabEnt) : Option State :=
  let stop := s.segmentStop t p x.gen x.ent.lctx (s.entries t p).length s.now
  match s.firstMember x stop with
  | none => none
  | some (id, e) =>
    let k := engOfCtx id
    let eng := s.engAt k
    if eng.dbg.halted then
      if s.segmentStart t p x && eng.relAt != some s.now || !eng.dbg.skipped.contains (id % 16) then some (s.skipRelease k (id % 16))
      else none
    else if eng.run == .parked && !eng.lateWaits && eng.st == .service && decide (eng.dbg.parkFrom = 0 ∨ eng.dbg.parkFrom + x.since s.now ≤ s.now) then
      some ((s.unskip k (id % 16)).release k (id % 16) e.ebudget 2 stop)
    else none

/-- EVENT_RELEASE: the first member of the wake set in force whose events are pending and which fits (08 R223, R224). Of an older and a
newer EVENT entry with one START, the live contexts decide (13 R349, R352). -/
def execEventRelease (t p : Nat) (s : State) : Res :=
  if !s.hasTrain t || decide (8 ≤ p) then .fault .noSuchUnit
  else .next (((((inForce (s.entries t p) s.now).filter (fun x => x.ent.kind == 2)).findSome? (s.eventRelease t p)).getD s))

end Sys2Proof.Machine
end

