-- ==== Sys2Proof/Machine/Remontoire.lean ====
section
/-! DEFINITION. The commit tick, the dial and the remontoire's own host register (spec 09 R239-R258, 12 R330, R331,
14 R372-R374, 16 R407). -/

namespace Sys2Proof.Machine

/-! ### Completion (R242) -/

/-- The first tick of the interval in which a contributor is to have been released. -/
def State.commitFrom (s : State) (g : Nat) : Nat :=
  match (s.grpAt g).prev with
  | some k => k + 1
  | none => s.esc.svc.toNat

/-- Contributor (gen, lctx) of group `g` is complete at this tick, apart from halts (R242). -/
def State.contribDone (s : State) (g : Nat) (c : Ctx) : Bool :=
  match c.act with
  | some a => decide (s.commitFrom g ≤ a.relAt ∧ a.relAt ≤ s.now) && !a.mEntry &&
      (match a.yieldAt with | some y => decide (y < s.now) | none => false)
  | none => false

/-- A halt keeps the context from completing: it is HALTED or its release was skipped (14 R367). -/
def State.haltHeld (s : State) (id : Nat) (c : Ctx) : Bool :=
  c.st == .halted || (s.engAt (engOfCtx id)).dbg.skipped.contains (id % 16)

/-- The contributor is complete at this tick (R242, 14 R367). -/
def State.complete (s : State) (g : Nat) (gen : Bool) (lctx : Nat) : Bool :=
  match s.locate gen lctx with
  | none => false
  | some id =>
    let c := s.ctxAt id
    s.contribDone g c && (s.engAt (engOfCtx id)).st == .service && c.st != .restoring && !s.haltHeld id c

/-- The contributor is incomplete on account of a halt alone (14 R372). -/
def State.haltOnly (s : State) (gen : Bool) (lctx : Nat) : Bool :=
  match s.locate gen lctx with
  | none => false
  | some id => s.haltHeld id (s.ctxAt id) && (s.engAt (engOfCtx id)).st == .service

/-! ### Paired groups (12 R330, R331) -/

/-- The tolerance of the pair that a group belongs to. -/
def Image.pairOf (i : Image) (g : Nat) : Option Nat :=
  i.faults.findSome? (fun f => match f with | .pair _ h tol _ => if h = g then some tol else none | _ => none)

/-- The compare of one outlet passes (R331). -/
def Outlet.pairOk (o : Outlet) (tol : Nat) : Bool :=
  o.staged == o.checked && (!o.staged || decide ((o.staging.toInt - o.check.toInt).natAbs ≤ tol))

/-! ### Outcomes (R243) -/

/-- The outcome of a commit tick. -/
inductive Outcome where
  | commit | tripped | hold | safe
  deriving DecidableEq, Repr

/-- LAST code and trace code of an outcome. -/
def Outcome.codes : Outcome → BitVec 2 × Nat
  | .commit => (1, 1)
  | .tripped => (1, 5)
  | .hold => (2, 2)
  | .safe => (3, 3)

/-- HOLD_LIMIT; 0 acts as 1 (R258). -/
def State.holdLimit (s : State) : Nat := Max.max s.rmt.holdLimit.toNat 1

/-- DBG_FRZ.RMT holds for the group (14 R372, R373). -/
def State.rmtFrozen (s : State) (world : Bool) : Bool :=
  s.dbg.frzRmt && (List.range (9 * s.variant.trains)).any (fun k => (s.engAt k).dbg.halted) &&
    !(s.lcs.st == .secured && s.rmt.startedSecured && world)

/-- Sends staged values: codes and committed values of a COMMIT (R241, 16 R407). -/
def State.sendStaged (s : State) (l : List (Nat × Word)) : State :=
  l.foldl (fun s p => s.modOut p.1 (fun o => if o.staged then { o with committed := o.staging, cmd := 0b01 } else { o with cmd := 0b00 })) s

/-- Sends safe values: codes and committed values of a SAFE outcome (R244); code 0b11 stays where it is driven. -/
def State.sendSafe (s : State) (l : List (Nat × Word)) (level : Bool) : State :=
  l.foldl (fun s p => s.modOut p.1 (fun o => { o with committed := p.2, cmd := if level then 0b11 else 0b10 })) s

/-- Publishes the block of one contributor (R252): the draft half becomes the published one, with a new header. -/
def State.publish (s : State) (gen : Bool) (lctx : Nat) : State :=
  match (s.img gen).block lctx with
  | none => s
  | some b =>
    let half := s.pubHalf gen lctx
    let r := s.pubRead gen lctx 0
    let seq := r.1 + 1
    let word1 := (s.img gen).hdr.layoutGen % 65536 * 65536 + s.now % 2 ^ 15 * 2 + 1
    let s := r.2
    let s := { s with sel := s.sel.set (fun _ => false) (lkey gen lctx) (!half) }
    s.write (s.blockKey gen b (!half) 0) 8 (seq.toNat + word1 * 2 ^ 32)

/-- Publishes every contributor whose lowest-numbered group is `g` (R252). -/
def State.publishGrp (s : State) (g : Nat) (l : List (Bool × CtxE)) : State :=
  (l.filter (fun p => p.2.lowGroup == some g)).foldl (fun s p => s.publish p.1 p.2.lctx) s

/-! ### The dial (R255-R257) -/

/-- LCTX of a carried-block selection. -/
def Dial.lctx (d : Dial) : Nat := (d.sel.extractLsb' 14 10).toNat
/-- START of a selection. -/
def Dial.start (d : Dial) : Nat := (d.sel.extractLsb' 0 14).toNat
/-- KIND of a selection. -/
def Dial.kind (d : Dial) : BitVec 2 := d.sel.extractLsb' 30 2

/-- A commit tick of group `g` gives channel `d` a snapshot (R256). -/
def State.dialCovers (s : State) (d : Dial) (g : Nat) : Bool :=
  match d.kind.toNat with
  | 1 =>
    match s.selGen d.lctx with
    | some gen => ((s.img gen).block d.lctx).isSome &&
        (match s.ctxEntry gen d.lctx with | some e => e.lowGroup == some g | none => false)
    | none => false
  | 2 => (s.grpSafe g).any (fun p => decide (d.start ≤ p.1 ∧ p.1 < d.start + 14))
  | _ => false

/-- Word `i` of a snapshot (R255). -/
def State.dialWord (s : State) (d : Dial) (i : Nat) : Word × State :=
  if d.kind = 1 then
    match s.selGen d.lctx with
    | some gen => s.pubRead gen d.lctx (d.start + i)
    | none => (0, s)
  else (if d.start + i < 320 then (s.outAt (d.start + i)).committed else 0, s)

/-- The first `n` words of a snapshot. -/
def State.dialWords (s : State) (d : Dial) : Nat → List Word × State
  | 0 => ([], s)
  | n + 1 =>
    let p := s.dialWords d n
    let r := p.2.dialWord d n
    (p.1 ++ [r.1], r.2)

/-- DIAL_SEQ of the current snapshot. -/
def Dial.seqWord (d : Dial) : Word :=
  BitVec.ofNat 32 (d.valid.toNat * 2 ^ 31 + d.held.toNat * 2 ^ 30 + d.seq.toNat)

/-- A commit tick of group `g` gives every dial channel that it covers a snapshot; the groups of one tick share one (R256). HELD counts
the groups that have a commit tick at the snapshot's tick (R255; log entry 74). -/
def State.snapshots (s : State) (g : Nat) (held : Bool) : State :=
  (List.range 32).foldl (fun s n =>
    if s.dialCovers (s.dialAt n) g then s.modDial n (fun d => { d with due := some (held || d.due.getD false) }) else s) s

/-- The snapshot of a dial channel at the edge that ends the tick (R256). -/
def State.takeSnapshot (s : State) (n : Nat) : State :=
  let d := s.dialAt n
  match d.due with
  | some held =>
    let r := s.dialWords d 14
    r.2.modDial n (fun d => { d with valid := true, held := held, seq := d.seq + 1, data := r.1, due := none })
  | none => s

/-- DIAL_SEL: a write of KIND 0b11 leaves that field unchanged; the channel starts afresh (R255, R256). -/
def State.dialSelect (s : State) (n : Nat) (v : Word) : State :=
  s.modDial n (fun d =>
    let m : Word := if v.extractLsb' 30 2 = 0b11 then 0x00FFFFFF else 0xC0FFFFFF
    { d with
      sel := (d.sel &&& ~~~m &&& 0xC0FFFFFF) ||| (v &&& m), valid := false, held := false, seq := 0, data := [], due := none
      bufSeq := 0, buf := [] })

/-- A read of DIAL_SEQ: a non-quiet one copies the snapshot into the read buffer (R257). -/
def State.dialSeq (s : State) (n : Nat) (quiet : Bool) : Word × State :=
  let d := s.dialAt n
  if quiet then (d.bufSeq, s)
  else (d.seqWord, s.modDial n (fun d => { d with bufSeq := d.seqWord, buf := d.data }))

/-! ### The commit tick -/

/-- Outcome of group `g` with the latch it sets, whether CONSEC stays, and the failing channel of a paired compare. -/
structure Verdict where
  out : Outcome
  latch : Bool := false
  frozen : Bool := false
  pairFail : Option Nat := none
  deriving DecidableEq, Repr

/-- The decision of a commit tick (R243, 12 R331, 14 R372). -/
def State.verdict (s : State) (g : Nat) (gen : Bool) (e : GroupE) (l : List (Bool × CtxE)) : Verdict :=
  let bad := l.filter (fun p => !s.complete g p.1 p.2.lctx)
  let fail := if bad = [] then
      (match (s.img gen).pairOf g with
       | some tol => ((s.grpSafe g).map (·.1)).find? (fun n => !(s.outAt n).pairOk tol)
       | none => none) else none
  let x := s.grpAt g
  if x.esc ∨ s.gf.safe then { out := .safe, pairFail := fail, latch := fail.isSome }
  else if bad = [] then
    if fail.isSome then { out := .safe, latch := true, pairFail := fail }
    else { out := if s.grpTripped g then .tripped else .commit }
  else if s.rmtFrozen e.world && bad.all (fun p => s.haltOnly p.1 p.2.lctx) then { out := .hold, frozen := true }
  else if e.policy = 0 then
    if x.consec + 1 < s.holdLimit then { out := .hold } else { out := .safe, latch := true }
  else { out := .safe }

/-- Counters and status of an outcome (R243, R258). -/
def State.countOutcome (s : State) (g : Nat) (v : Verdict) : State :=
  let whole := v.out == .commit || v.out == .tripped
  let s := s.modGrp g (fun x => { x with
    last := v.out.codes.1, prev := some s.now, esc := x.esc || v.latch
    consec := if whole then 0 else if v.frozen then x.consec else Min.min (x.consec + 1) 255
    ccount := if whole then x.ccount + 1 else x.ccount })
  if whole then s
  else { s with rmt := { s.rmt with
    heldCnt := s.rmt.heldCnt + 1, holdOut := s.rmt.holdOut || v.out == .hold, safeOut := s.rmt.safeOut || v.out == .safe
    esc := s.rmt.esc || (v.latch && v.pairFail.isNone) } }

/-- Fault sources of an outcome (12 R319). -/
def State.raiseOutcome (s : State) (g : Nat) (v : Verdict) : State :=
  let ev (n : Nat) : Ev := { w := 81, src := n, grp := some g }
  let s := match v.pairFail with
    | some n => s.raiseLow { w := 81, src := 3, grp := some g, arg := some n }
    | none => s
  match v.out with
  | .hold => s.raiseLow (ev 0)
  | .safe =>
    let s := s.raiseLow (ev 1)
    if v.latch && v.pairFail.isNone then s.raiseLow (ev 2) else s
  | _ => s

/-- Outlets of an outcome (R241, R243, R244), then the staging period ends (R240). -/
def State.outletsOut (s : State) (v : Verdict) (tripped : Bool) (l : List (Nat × Word)) : State :=
  let s := match v.out with
    | .commit => s.sendStaged l
    | .safe => s.sendSafe l (tripped || s.gf.safe)
    | _ => s
  l.foldl (fun s p => s.clearStaging p.1) s

/-- The whole commit tick of a live group (R17, R241-R244, R252, R256). Where its outcome raises SAFE, the groups that commit after it in
the same tick find the block in SAFE, and those before it do not (DESIGN CHOICE, log entry 58). -/
def State.commit (s : State) (g : Nat) (gen : Bool) (e : GroupE) : State :=
  let l := s.contributors g
  let outs := s.grpSafe g
  let tripped := s.grpTripped g
  let v := s.verdict g gen e l
  let s := (s.outletsOut v tripped outs).countOutcome g v
  let s := if v.out == .commit || v.out == .tripped then s.publishGrp g l else s
  let s := s.snapshots g (v.out == .hold || v.out == .safe)
  let s := if s.dbg.commitPk then s.emit (packet 8 (s.ts ++ [BitVec.ofNat 8 g, BitVec.ofNat 8 v.out.codes.2])) else s
  s.raiseOutcome g v

/-- The commit tick of group `g` is now and not yet done. -/
def State.commitDue (s : State) (g : Nat) : Option (Bool × GroupE) :=
  match s.group g with
  | some (gen, e) =>
    if s.running gen && ((s.img gen).period e.pg).offset s.now == e.commit && (s.grpAt g).prev != some s.now &&
        decide (s.esc.svc.toNat ≤ s.now ∧ (s.grpAt g).start ≤ s.now) then some (gen, e) else none
  | none => none

/-- COMMIT_TICK g (R243). -/
def execCommitTick (g : Nat) (s : State) : Res :=
  if 64 ≤ g then .fault .noSuchUnit
  else match s.commitDue g with
    | some (gen, e) => .next (s.commit g gen e)
    | none => .next s

end Sys2Proof.Machine
end

