-- ==== Sys2Proof/Machine/Windway.lean ====
section
/-! DEFINITION. Meanings of the windway's events: the sample inlet, converter commands with their host reports, and the host
event inputs (spec 10 R259-R275, 16 R402, R410, R411). -/

namespace Sys2Proof.Machine

/-- Channel of a record (R259). -/
def recChan (r : Word64) : Nat := (r.extractLsb' 36 7).toNat

/-- The CONSUMED mark of a channel is clear. -/
def Ctx.unmark (c : Ctx) (ch : Nat) : Ctx := { c with marks := c.marks.filter (· ≠ ch) }

/-- The arrival of a record clears the CONSUMED marks of every context and Machine bank (06 R179, R266). -/
def State.clearMarks (s : State) (ch : Nat) : State :=
  let s := s.ctx.foldl (fun s p => if p.2.marks.contains ch then s.modCtx p.1 (fun c => c.unmark ch) else s) s
  s.eng.foldl (fun s p => if p.2.mb.marks.contains ch then s.modEng p.1 (fun e => { e with mb := e.mb.unmark ch }) else s) s

/-- A record completes an ACCEPTED SELECT or INJECT with the given word (R275). -/
def recDone (word : Word) (r : Word64) (sar : Bool) : Bool :=
  let op := (word.extractLsb' 28 4).toNat
  (word.extractLsb' 15 7).toNat == recChan r &&
    (op == 2 || (op == 1 && word.extractLsb' 25 3 == r.extractLsb' 43 3 && (sar || word.extractLsb' 22 3 == r.extractLsb' 46 3)))

/-- Marks the commands DONE whose records have arrived (R274, R275). -/
def State.commandsDone (s : State) (r : Word64) : State :=
  (List.range 64).foldl (fun s c =>
    let x := s.cvcAt c
    let sar := !Config.sigmaDelta c
    let s := if x.pst == 2 && recDone x.pword r sar then s.modCvc c (fun x => { x with pst := 3 }) else s
    if x.st == 2 && recDone x.word r sar then s.modCvc c (fun x => { x with st := 3 }) else s) s

/-- Writes a record into the window of every train that its route names (R263). -/
def State.writeRecord (s : State) (r : Word64) (trains : Nat) : State :=
  (List.range 8).foldl (fun s t =>
    if trains.testBit t then
      { s with win := s.win.set (fun _ => {}) (128 * t + recChan r) { word := r, arrived := some s.now } }
    else s) s

/-- An accepted record: written and its commands completed, or dropped for want of a route (R263, R264, 12 R317). A record that is not
written marks no command DONE (log entry 75). -/
def State.acceptRecord (s : State) (r : Word64) : State :=
  let ch := recChan r
  let s := { s with inletAt := s.inletAt.set (fun _ => 0) ch (s.now + 1) }
  let trains := s.schTrains ch
  if trains = 0 then s.raise { w := 82, src := 2, arg := some ch, tgt := some (.sample ch) }
  else if s.fences.contains (.sample ch) then s
  else ((s.writeRecord r trains).clearMarks ch).commandsDone r

/-- The inlet is ready for a record of the channel: 40 ticks since the previous one (R264). `inletAt` holds the tick after the
last acceptance, 0 for none. -/
def State.inletReady (s : State) (ch : Nat) : Bool :=
  let x := s.inletAt.get (fun _ => 0) ch
  x == 0 || decide (x + 39 ≤ s.now)

/-- `inl_ready` of a lane that presents a record of channel `ch`: its spacing has passed, and no lower-numbered lane presents a
record of the channel at this edge, which is the tick's other commands (16 R402). -/
def State.laneReady (s : State) (lane ch : Nat) : Bool :=
  s.inletReady ch && !s.pending.any (fun c => match c with
    | .sampleRecord l r => decide (l < lane) && recChan r == ch
    | _ => false)

/-- SAMPLE_RECORD on lane `lane`: the record passes where `inl_ready` is high, else the host goes on presenting it (R263, 16 R402). -/
def execSampleRecord (lane : Nat) (r : Word64) (s : State) : Res :=
  if 4 ≤ lane then .fault .noSuchUnit
  else .next (if s.laneReady lane (recChan r) then s.acceptRecord r else s)

/-- SAMPLE_MISS: offset ARRIVE of a routed channel passes without a record in the cycle (R268). -/
def execSampleMiss (ch : Nat) (s : State) : Res :=
  if 128 ≤ ch then .fault .noSuchUnit
  else .next (match s.schRoute ch with
    | some r =>
      match s.period r.pg with
      | some p =>
        let came := (List.range 8).any (fun t => match (s.recAt t ch).arrived with
          | some x => decide (s.now < x + p.period)
          | none => false)
        if p.offset s.now = r.arrive ∧ !came then s.raise { w := 82, src := 1, arg := some ch, tgt := some (.sample ch) } else s
      | none => s
    | none => s)

/-! ### Converter commands (R272-R275) -/

/-- The command word of R273. -/
def cvcWord (op : Nat) (gain filt : BitVec 3) (sch input : BitVec 7) (tag : BitVec 8) : Word :=
  BitVec.ofNat 32 (op * 2 ^ 28 + gain.toNat * 2 ^ 25 + filt.toNat * 2 ^ 22 + sch.toNat * 2 ^ 15 + input.toNat * 256 + tag.toNat)

/-- The owner of channel `c` has stored a command word; an unrouted channel has no owner (R101, R272). -/
def State.command (s : State) (c : Nat) (v : Word) : State := if (s.cvcRoute c).isSome then s.cvcStore c v else s

/-- SELECT (R273, R275). -/
def execSelect (c : Nat) (gain filt : BitVec 3) (sch input : BitVec 7) (tag : BitVec 8) (s : State) : Res :=
  if 64 ≤ c then .fault .noSuchUnit else .next (s.command c (cvcWord 1 gain filt sch input tag))
/-- INJECT (R273, R275). -/
def execInject (c : Nat) (sch input : BitVec 7) (tag : BitVec 8) (s : State) : Res :=
  if 64 ≤ c then .fault .noSuchUnit else .next (s.command c (cvcWord 2 0 0 sch input tag))
/-- CALIBRATE (R273, R275). -/
def execCalibrate (c : Nat) (tag : BitVec 8) (s : State) : Res :=
  if 64 ≤ c then .fault .noSuchUnit else .next (s.command c (cvcWord 3 0 0 0 0 tag))

/-- CMD_HOST of channel `c` (16 R410). -/
def State.cmdHost (s : State) (c : Nat) : State := s.raise { w := 82, src := 4, arg := some c, tgt := some (.command c) }

/-- ACCEPTED or DEFERRED for the latest command while it is PENDING or DEFERRED (R274). Of a word whose status an admission has reset it
takes `cvc_req` down, and applies to no command (16 R410). -/
def State.cvcReport (s : State) (c : Nat) (st : BitVec 4) : State :=
  let x := s.cvcAt c
  if x.stale then (s.modCvc c (fun x => { x with req := false, stale := false })).cmdHost c
  else if x.st == 1 || x.st == 4 then s.modCvc c (fun x => { x with st := st, req := false }) else s.cmdHost c

/-- CVC_ACCEPTED (16 R410). -/
def execCvcAccepted (c : Nat) (s : State) : Res := if 64 ≤ c then .fault .noSuchUnit else .next (s.cvcReport c 2)
/-- CVC_DEFERRED (16 R410). -/
def execCvcDeferred (c : Nat) (s : State) : Res := if 64 ≤ c then .fault .noSuchUnit else .next (s.cvcReport c 4)

/-- DONE for the older ACCEPTED CALIBRATE (R274). -/
def State.cvcCalibrated (s : State) (c : Nat) : State :=
  let x := s.cvcAt c
  if x.pst == 2 && x.pword.extractLsb' 28 4 == 3 then s.modCvc c (fun x => { x with pst := 3 })
  else if x.st == 2 && x.op == 3 then s.modCvc c (fun x => { x with st := 3 })
  else s.cmdHost c
/-- CVC_DONE (16 R410). -/
def execCvcDone (c : Nat) (s : State) : Res := if 64 ≤ c then .fault .noSuchUnit else .next (s.cvcCalibrated c)

/-- ERROR for the older ACCEPTED command (R274, 16 R410). -/
def State.cvcFailed (s : State) (c : Nat) : State :=
  let x := s.cvcAt c
  (if x.pst == 2 then s.modCvc c (fun x => { x with pst := 6 })
   else if x.st == 2 then s.modCvc c (fun x => { x with st := 6 }) else s).cmdHost c
/-- CVC_ERROR (16 R410). -/
def execCvcError (c : Nat) (s : State) : Res := if 64 ≤ c then .fault .noSuchUnit else .next (s.cvcFailed c)

/-- EVENTS kind of a host event line (16 R411). -/
def EvtLine.kind : EvtLine → Nat
  | .irq => 2 | .cap => 3 | .tmr => 5

/-- HOST_EVENT_INPUT (16 R411). -/
def execHostEventInput (x : EvtLine) (line : Nat) (s : State) : Res :=
  if 32 ≤ line then .fault .noSuchUnit else .next (s.pendAll (EvtLine.kind x) line)

end Sys2Proof.Machine
end

