-- ==== Sys2Proof/Machine/HostPort.lean ====
section
/-! DEFINITION. The host target port's gate for register writes and its answers (spec 15 R390, 16 R412, 00 R5). -/

namespace Sys2Proof.Machine

/-- The port's answer to a write: OKAY or SLVERR; read data stay (log entry 12). -/
def State.answer (s : State) (resp : BitVec 2) : State := { s with host := { s.host with resp := resp } }

/-- The port's answer to a register read. -/
def State.answerRead (s : State) (v : Word) : State := { s with host := { rdata := v.setWidth 128, resp := 0 } }

/-- Offsets that AxPROT[1] protects in SECURED: 0x0000-0x7FFF and the train blocks (16 R412). -/
def protOffset (off : Nat) : Bool := decide (off < 0x8000) || decide (0x10000 ≤ off ∧ off < 0x90000)

/-- The write ends with SLVERR and has no effect (16 R412). -/
def State.hostBad (s : State) (a : HAcc) (off : Nat) : Bool :=
  !a.ok || (a.prot1 && s.lcs.st == .secured && protOffset off)

/-- A host register write: refused by the port, ignored before READY (15 R390), or done. -/
def State.hostDo (s : State) (a : HAcc) (off : Nat) (f : State → State) : State :=
  if s.hostBad a off then s.answer 2
  else if !s.power.ready then s.answer 0
  else (f s).answer 0

/-- A host register read: 0 before READY (15 R390) and in SCRAPPED (15 R396). -/
def State.hostGet (s : State) (f : State → Word × State) : State :=
  if !s.power.ready || s.lcs.st == .scrapped then s.answerRead 0
  else let r := f s; r.2.answerRead r.1

/-- Offset of fault window `w` (12 R313). -/
def fwOffset (w : Nat) : Nat :=
  if w < 72 then 0x10000 + w / 9 * 0x10000 + 0x440 + 0x40 * (w % 9)
  else if w < 80 then 0x10000 + (w - 72) * 0x10000 + 0x400
  else 0x5100 + 0x40 * (w - 80)

/-- Offset of register `x` of train block `t` (17 R423). -/
def trainOffset (t x : Nat) : Nat := 0x10000 + t * 0x10000 + x

end Sys2Proof.Machine
end

