-- ==== Sys2Proof/Machine/FaultCmds.lean ====
section
/-! DEFINITION. Meanings of injection, integrity and parity errors, the end of a quench window, and the fault windows' read
commands (spec 12 R314, R319, R321, R324, R326). -/

namespace Sys2Proof.Machine

/-- Injection of source `n` of window `w` is allowed in the lifecycle state (R326). -/
def State.forceOk (s : State) (w n : Nat) : Bool :=
  match s.lcs.st with
  | .blank | .develop | .returned => true
  | .secured => !s.anyRunning || decide ((s.fwAt w).sevOf n ≤ 2)
  | .scrapped => false

/-- Raises the forced sources of a list, in order. -/
def State.forceAll (s : State) (w : Nat) (l : List Nat) : State :=
  l.foldl (fun s n => s.raise { w := w, src := n, forced := true }) s

/-- A write of FW_FORCE: sources of severity SAFE act first, as in one tick (R318, R326). -/
def State.fwForce (s : State) (w : Nat) (v : Word) : State :=
  let l := (List.range (srcsOf w).length).filter (fun n => v.getLsbD n && s.forceOk w n)
  let safe (n : Nat) : Bool := (s.fwAt w).sevOf n == 4
  (s.forceAll w (l.filter safe)).forceAll w (l.filter (fun n => !safe n))

/-- FW_FORCE (R326). -/
def execFwForce (w : Nat) (v : Word) (a : HAcc) (s : State) : Res :=
  if 88 ≤ w then .fault .noSuchUnit
  else .next (s.hostDo a (fwOffset w) (fun s => if s.hasWindow w then s.fwForce w v else s))

/-- An integrity error of window `w`: FW_CHK.ERR and the SAFE reaction, whatever severities and quench windows hold (R321). -/
def State.integError (s : State) (w : Nat) : State := (s.modFw w (fun f => { f with chk := true })).safeReact w 0 true

/-- The lifecycle state and the image allow CHKF: in SECURED only with no image RUNNING, since its reaction is SAFE (R326). -/
def State.chkfOk (s : State) : Bool :=
  match s.lcs.st with
  | .blank | .develop | .returned => true
  | .secured => !s.anyRunning
  | .scrapped => false

/-- A write of GF_CTL (R326, R342). -/
def State.gfCtl (s : State) (v : Word) : State :=
  let w := (v.extractLsb' 0 8).toNat
  let s := { s with gf := { s.gf with qtail := v.extractLsb' 16 16, chkw := v.extractLsb' 0 8 } }
  if v.getLsbD 8 && decide (w < 88) && s.hasWindow w && s.chkfOk then s.integError w else s

/-- CHKF: a write of GF_CTL (R326). -/
def execChkf (v : Word) (a : HAcc) (s : State) : Res := .next (s.hostDo a 0x5004 (fun s => s.gfCtl v))

/-- CONFIG_INTEG_ERROR (R321). -/
def execConfigIntegError (w : Nat) (s : State) : Res :=
  if !s.hasWindow w then .fault .noSuchUnit else .next (s.integError w)

/-- Window and source of a store's parity error (R319). -/
def ParUnit.src : ParUnit → Nat × Nat
  | .escapement => (80, 2) | .remontoire => (81, 4) | .route => (82, 5) | .regulator => (84, 1)

/-- PARITY_ERROR (R319). -/
def execParityError (u : ParUnit) (s : State) : Res :=
  .next (s.raise { w := (ParUnit.src u).1, src := (ParUnit.src u).2 })

/-- QUENCH_CLOSE: the quench tail of open window `i` has passed (R324). -/
def execQuenchClose (i : Nat) (s : State) : Res :=
  .next (match s.quench[i]? with
    | some q =>
      match q.closeAt with
      | some x => if x ≤ s.now then { s with quench := s.quench.eraseIdx i } else s
      | none => s
    | none => s)

/-- FW_CAP after a non-quiet read: cleared, with FW_ADDR (R314). -/
def FW.capClear (f : FW) : FW :=
  { f with capValid := false, capConseq := false, capForced := false, capSrc := 0, capArg := 0, addr := 0 }

/-- FW_CAP read: the value; a non-quiet read clears it (R314). -/
def State.fwCapRead (s : State) (w : Nat) (quiet : Bool) : Word × State :=
  ((s.fwAt w).cap, if quiet then s else s.modFw w FW.capClear)

/-- FW_CNT read (R314). -/
def State.fwCntRead (s : State) (w : Nat) (quiet : Bool) : Word × State :=
  (BitVec.ofNat 32 (s.fwAt w).cnt, if quiet then s else s.modFw w (fun f => { f with cnt := 0 }))

/-- FW_CAP: the host's read. -/
def execFwCap (w : Nat) (s : State) : Res :=
  if 88 ≤ w then .fault .noSuchUnit
  else .next (s.hostGet (fun s => if s.hasWindow w then s.fwCapRead w false else (0, s)))

/-- FW_CNT: the host's read. -/
def execFwCnt (w : Nat) (s : State) : Res :=
  if 88 ≤ w then .fault .noSuchUnit
  else .next (s.hostGet (fun s => if s.hasWindow w then s.fwCntRead w false else (0, s)))

end Sys2Proof.Machine
end

