-- ==== Sys2Proof/Machine/Tourbillon.lean ====
section
/-! DEFINITION. Meanings of the tourbillon's events: substitution, rotation, migration, self-test (spec 12 R334-R340, R429,
R430, 13 R346). -/

namespace Sys2Proof.Machine

/-! ### Master copies (08 R216, 11 R288, 13 R346) -/

/-- The MACHINE entry whose master copy is loaded for position `p`: the newest image that has one. -/
def State.machOf (s : State) (t p : Nat) : Option MachE :=
  let new := if s.coexist then !s.olderGen else s.olderGen
  match (s.img new).mach t p with
  | some m => some m
  | none => (s.img (!new)).mach t p

/-- Keys of the 64-bit words of a master copy. -/
def copyWords (t : Nat) (m : MachE) : List Nat := (List.range (ceilDiv m.mlen 8)).map (fun i => tmKey t (m.master + 8 * i))

/-- A word of a master copy is uncorrectable or lies in a fenced bank (R429). -/
def State.copyBad (s : State) (t : Nat) (m : MachE) : Bool := (copyWords t m).any s.badWord

/-- The load met such a word: RESTORE_FAIL, after MEM_UE when the test port read an uncorrectable one (11 R300, R301). -/
def State.copyFailed (s : State) (t : Nat) (m : MachE) : State :=
  let s := s.noteWords (copyWords t m)
  (match (copyWords t m).find? s.badWord with
    | some a => if s.bankFenced a then s else s.raiseMemUE a
    | none => s).restoreFail t 0x800000

/-- Local store of engine `k` holds the master copy and zeroes beyond it (08 R237). -/
def State.copyCells (s : State) (k : Nat) (m : MachE) : State :=
  let src := tmKey (trainOf k) m.master
  let len := Min.min m.mlen 0x10000
  let cells := (s.mem.filter (fun c => decide (src ≤ c.1 ∧ c.1 < src + len))).map (fun c => (lsKey k 0 + (c.1 - src), c.2))
  let s := s.wipe (lsKey k 0) 0x10000
  { s with mem := s.mem.takeWhile (fun c => decide (c.1 < lsKey k 0)) ++ cells ++
      s.mem.dropWhile (fun c => decide (c.1 < lsKey k 0 + 0x10000)) }

/-- Copies the master copy into the local store of engine `k`; the test port corrects single-bit errors (11 R286, R288). -/
def State.copyIn (s : State) (k : Nat) (m : MachE) : State := (s.noteWords (copyWords (trainOf k) m)).copyCells k m

/-- The spill region, vector base and handler bound of a position, and a cleared Machine bank (03 R66, R71, 08 R216). -/
def Engine.forPos (e : Engine) (m : MachE) : Engine :=
  { e with spillRgn := m.spillRgn, mvbase := m.mvbase, mhb := m.mhb, mb := {} }

/-- Clears the bore and context records of engine `k` (R335, R337). A context that a failed restore has left RESTORING there stays so
until its position is served (R429, log entry 60); a loop buffer stays disabled until TEST (R316). -/
def State.clearBore (s : State) (k : Nat) : State :=
  (List.range 16).foldl (fun s i => if (s.ctxAt (ctxId k i)).st == .restoring then s else s.setCtx (ctxId k i) {})
    (s.modEng k (fun e => { e with mb := {}, bload := none, icache := [], lb := e.lb.off, tbuf := [], pair := none }))

/-- Beside an image, the newer one's copy is checked against its DIGEST whenever it is loaded (13 R346). -/
def State.digestBad (s : State) (t : Nat) (m : MachE) : Bool :=
  s.coexist && sha256 ((List.range m.mlen).map (fun i => s.byteAt (tmKey t (m.master + i)))) != m.digest

/-- Loads the code of position `p` into engine `k`, or answers the master copy that cannot be loaded: it is uncorrectable (R429), or not
the one of its DIGEST (log entry 60). -/
def State.loadPos (s : State) (k p : Nat) : Except MachE State :=
  match s.machOf (trainOf k) p with
  | some m =>
    if s.copyBad (trainOf k) m || s.digestBad (trainOf k) m then .error m else .ok ((s.copyIn k m).modEng k (fun e => e.forPos m))
  | none => .ok s

/-! ### Unplanned substitution (R337-R339, R429) -/

/-- A migrated context is the same activation's (09 R242); a boundary store that it has issued is no longer its own (log entry 61). -/
def Ctx.migrated (c old : Ctx) : Ctx := { c with builds := c.builds + 1, act := if c.st == .restoring then none else old.act }

/-- Moves one context of engine `src` to engine `dst`, rebuilt from its published state (R338). What stays RESTORING at its place goes
to the engine that it leaves. -/
def State.moveCtx (s : State) (src dst slot : Nat) (subst : Bool) : State :=
  let old := s.ctxAt (ctxId src slot)
  if old.st == .unused then s
  else
    let back := s.ctxAt (ctxId dst slot)
    let s := s.setCtx (ctxId src slot) (if back.st == .restoring then back else {})
    let s := s.restoreCtx (ctxId dst slot) { old with act := none } subst
    if subst then s
    else
      let skipped := (s.engAt src).dbg.skipped.contains slot
      (s.modCtx (ctxId dst slot) (fun c => c.migrated old)).modEng dst (fun e => { e with dbg := { e.dbg with
        skipped := if skipped then e.dbg.skipped ++ [slot] else e.dbg.skipped } })

/-- Positions of train `t` left unserved whose RESTORING contexts sat on engine `dst` sit on engine `src` once `dst` serves another
position: the contexts of slots that moved nothing follow (R429, log entry 60). -/
def State.seatUnserved (s : State) (t p src dst : Nat) : State :=
  let here (c : Ctx) : Bool := (s.ctxEntry c.gen c.lctx).any (fun e => e.pos == p)
  let s' := (List.range 16).foldl (fun s i =>
    let a := s.ctxAt (ctxId (9 * t + src) i)
    let b := s.ctxAt (ctxId (9 * t + dst) i)
    if (a.st == .restoring && here a) || (b.st == .restoring && !here b) then
      (s.setCtx (ctxId (9 * t + src) i) b).setCtx (ctxId (9 * t + dst) i) a
    else s) s
  s'.modTrain t (fun x => { x with
    map := (x.unserved.filter (fun q => q != p && x.map.get (fun i => i) q == dst)).foldl (fun m q => m.set (fun i => i) q src) x.map })

/-- The master copy of the position is uncorrectable: the incoming engine returns to SPARE and holds the spare role (R429). -/
def State.subFailed (s : State) (t : Nat) (u : Subst) (m : MachE) : State :=
  let s := s.modEng (9 * t + u.dst) (fun e => { e with st := .spare })
  let s := (s.modTrain t (fun x => { x.endSub u with spare := some u.dst, rotStop := false })).unserve t u.pos
  s.copyFailed t m

/-- The engine takes the position: contexts restored, map and counts updated, quench tail begun (R337, R324). -/
def State.handover (s : State) (t : Nat) (u : Subst) : State :=
  let k := 9 * t + u.dst
  let s := (List.range 16).foldl (fun s i => s.moveCtx (9 * t + u.src) k i true) s
  let s := (s.modEng k (fun e => { e with st := .service, icache := [] })).seatUnserved t u.pos u.src u.dst
  let s := s.modTrain t (fun x => { x.endSub u with
    map := x.map.set (fun i => i) u.pos u.dst, unserved := x.unserved.filter (· ≠ u.pos), subcnt := x.subcnt + 1 })
  { s with quench := s.quench.map (fun q =>
      if q.target == Target.engine (9 * t + u.src) && q.closeAt.isNone then { q with closeAt := some (s.now + 8 * s.gf.qtail.toNat) }
      else q) }

/-- SUBSTITUTION_HANDOVER (R337). -/
def State.subst (s : State) (t : Nat) (u : Subst) : State :=
  if u.partLoaded then s.handover t u
  else
    match (if u.src = u.dst then s else s.clearBore (9 * t + u.dst)).loadPos (9 * t + u.dst) u.pos with
    | .ok s' => s'.handover t u
    | .error m => s.subFailed t u m

/-- SUBSTITUTION_HANDOVER of train `t`: the work of R337 ends in a later tick than the fence's. -/
def execSubstitutionHandover (t : Nat) (s : State) : Res :=
  if !s.hasTrain t then .fault .noSuchUnit
  else .next (match (s.trainAt t).sub with
    | some u => if s.gf.safe || u.begunAt == s.now then s else s.subst t u
    | none => s)

/-! ### Rotation (R334, R335) -/

/-- RT in ticks (R334). -/
def State.rt (s : State) : Nat := s.gf.rotMs.toNat * 400000

/-- An engine of the block has a debug halt in force. -/
def State.anyHalted (s : State) : Bool := (List.range (9 * s.variant.trains)).any (fun k => (s.engAt k).dbg.halted)

/-- A group switch that touches train `t` is due within RT / 2 (R334, 13 R354). -/
def State.switchNear (s : State) (t : Nat) : Bool :=
  s.upg.pop != 0 && decide (s.upg.due ≤ s.now + s.rt / 2) &&
    s.gens.any (fun g => (s.img g).ctxs.any (fun c => c.train == t && s.setOf g c.lctx == some s.upg.pset.toNat))

/-- The engines after the spare in index order, with their positions, first in SERVICE (R334). -/
def State.outgoing (s : State) (t spare : Nat) : Option (Nat × Nat) :=
  ((List.range 8).map (fun i => (spare + 1 + i) % 9)).findSome? (fun e =>
    if (s.engAt (9 * t + e)).st == .service then (s.posOfEng t e).map (fun p => (e, p)) else none)

/-- The step of train `t` is deferred (R334, 14 R367, R372). -/
def State.rotDeferred (s : State) (t : Nat) : Bool :=
  let x := s.trainAt t
  !s.gf.rotEn || x.sub.isSome || x.rot.isSome || x.rotStop || x.pace.holdPace || x.pace.holdRail || s.switchNear t ||
    (List.range 9).any (fun e => (s.engAt (9 * t + e)).dbg.halted) || (s.dbg.frzTrb && s.anyHalted)

/-- Step tick of train `t` (R334). -/
def State.rotTick (s : State) (t : Nat) : Bool :=
  decide (t * (s.rt / 8) ≤ s.now + s.rt ∧ (s.now + s.rt - t * (s.rt / 8)) % s.rt = 0)

/-- Begins the step: RECOVER, and the bore cleared (R335). -/
def State.rotate (s : State) (t : Nat) : State :=
  match (s.trainAt t).spare with
  | none => s
  | some d =>
    if (s.engAt (9 * t + d)).st != .spare || s.rotDeferred t || s.gf.safe || !s.anyRunning then s
    else match s.outgoing t d with
      | none => s
      | some (e, p) =>
        let s := (s.clearBore (9 * t + d)).modEng (9 * t + d) (fun y => { y with st := .recover })
        s.modTrain t (fun x => { x with rot := some { pos := p, src := e, dst := d, stepAt := s.now } })

/-- ROTATION_STEP of train `t`. -/
def execRotationStep (t : Nat) (s : State) : Res :=
  if !s.hasTrain t then .fault .noSuchUnit else .next (if s.rotTick t then s.rotate t else s)

/-- The outgoing engine holds no context that can migrate. -/
def State.emptied (s : State) (k : Nat) : Bool :=
  (List.range 16).all (fun i => (s.ctxAt (ctxId k i)).st == .unused || (s.ctxAt (ctxId k i)).st == .restoring)

/-- The lowest-numbered position of a list. -/
def lowest (l : List Nat) : Option Nat := (List.range 8).find? (fun p => l.contains p)

/-- The step ends: the incoming engine holds the position, the outgoing one enters TEST, or takes without TEST a position that a fence
during the migration left unserved (R335, R339). -/
def State.rotDone (s : State) (t : Nat) (r : Rot) : State :=
  let s := (s.modEng (9 * t + r.dst) (fun e => { e with st := .service })).seatUnserved t r.pos r.src r.dst
  let s := s.modTrain t (fun x => { x with
    map := x.map.set (fun i => i) r.pos r.dst, rot := none, rotcnt := x.rotcnt + 1, spare := some r.src, rotStop := false })
  match lowest r.third with
  | some p => s.beginSub t p (s.engOfPos t p) r.src false
  | none => s.enterTest (9 * t + r.src)

/-- MASTER_COPY_LOAD: the copy is loaded and migration may begin, or the step is cancelled (R335, R429). -/
def State.masterLoaded (s : State) (t : Nat) (r : Rot) : State :=
  match s.loadPos (9 * t + r.dst) r.pos with
  | .ok s' =>
    let s' := s'.modTrain t (fun x => { x with rot := some { r with loaded := true } })
    if s'.emptied (9 * t + r.src) then s'.rotDone t { r with loaded := true } else s'
  | .error m =>
    let s := s.modEng (9 * t + r.dst) (fun e => { e with st := .spare })
    (s.modTrain t (fun x => { x with rot := none })).copyFailed t m

/-- MASTER_COPY_LOAD of train `t`. -/
def execMasterCopyLoad (t : Nat) (s : State) : Res :=
  if !s.hasTrain t then .fault .noSuchUnit
  else .next (match (s.trainAt t).rot with
    | some r => if r.loaded || s.gf.safe then s else s.masterLoaded t r
    | none => s)

/-- Ticks to the next possible release of a context, 2^24 when its table holds none (R335). -/
def State.nextRelease (s : State) (gen : Bool) (lctx : Nat) : Nat :=
  match s.ctxEntry gen lctx with
  | none => 2 ^ 24
  | some e =>
    let l := s.entries e.train e.pos
    let d (x : TabEnt) : Nat := x.dist s.now % x.per.period
    let next (x : TabEnt) : Option Nat :=
      if x.gen != gen then none
      else if x.ent.kind ≤ 1 then (if x.ent.lctx = lctx then some (d x) else none)
      else if ((s.img gen).wake x.ent.lctx).contains lctx then
        (if l.all (fun y => decide (x.since s.now ≤ y.since s.now)) then some 0 else some (d x))
      else none
    (l.filterMap next).foldl Min.min (2 ^ 24)

/-- A context of the outgoing engine may migrate at this tick (R335). -/
def State.migrates (s : State) (r : Rot) (gen : Bool) (lctx : Nat) (c : Ctx) : Bool :=
  let gap := r.late || decide ((s.img gen).hdr.tickFloor 128 + 2 ≤ s.nextRelease gen lctx)
  let published := match (s.img gen).block lctx, (s.ctxEntry gen lctx).bind CtxE.lowGroup with
    | some _, some g => (s.grpAt g).prev == some s.now && (s.grpAt g).last == 1
    | _, _ => true
  c.ready && gap && published

/-- A context with a lower LCTX of the same engine is due at the same tick (R335). -/
def State.lowerDue (s : State) (r : Rot) (k lctx : Nat) : Bool :=
  (List.range 16).any (fun i =>
    let c := s.ctxAt (ctxId k i)
    c.st != .unused && decide (c.lctx < lctx) && s.migrates r c.gen c.lctx c)

/-- One migration (R335). -/
def State.migrate (s : State) (t : Nat) (r : Rot) (slot : Nat) : State :=
  let k := 9 * t + r.src
  let s := s.modEng k (fun e => { e with bload := if e.bload.any (fun b => b.slot == slot) then none else e.bload })
  let s := s.moveCtx k (9 * t + r.dst) slot false
  let s := s.modEng (9 * t + r.dst) (fun e => { e with st := .service })
  let s := s.modTrain t (fun x => { x with rot := some { r with moved := true } })
  if s.emptied k then s.rotDone t { r with moved := true } else s

/-- MIGRATION of a context in train `t`. -/
def execMigration (t : Nat) (gen : Bool) (lctx : Nat) (s : State) : Res :=
  if !s.hasTrain t then .fault .noSuchUnit
  else .next (match (s.trainAt t).rot, s.locate gen lctx with
    | some r, some id =>
      if r.loaded && engOfCtx id == 9 * t + r.src && s.migrates r gen lctx (s.ctxAt id) &&
          !s.lowerDue r (9 * t + r.src) lctx && !s.gf.safe then s.migrate t r (id % 16)
      else s
    | _, _ => s)

/-- ROT_LATE: migration is not complete RT / 2 after the step tick (R335). -/
def execRotLate (t : Nat) (s : State) : Res :=
  if !s.hasTrain t then .fault .noSuchUnit
  else .next (match (s.trainAt t).rot with
    | some r =>
      if !r.late && decide (r.stepAt + s.rt / 2 ≤ s.now) then
        (s.modTrain t (fun x => { x with rot := some { r with late := true } })).raiseInfo { w := 72 + t, src := 14 }
      else s
    | none => s)

/-! ### Self-test (R336, R340, R430) -/

/-- The position that engine `e` takes over at its next step (R336). -/
def State.nextPos (s : State) (t e : Nat) : Option Nat := (s.outgoing t e).map (·.2)

/-- The role of an engine that has passed: after a retest the lowest-numbered unserved position, the vacant spare role, or standby
(R340, R430). -/
def State.assign (s : State) (t e : Nat) : State :=
  let x := s.trainAt t
  if x.spare = some e then s
  else match (if (s.engAt (9 * t + e)).retest then lowest x.unserved else none) with
    | some p => if s.gf.safe then s else s.beginSub t p (s.engOfPos t p) e false
    | none =>
      if x.spare.isNone then s.modTrain t (fun x => { x with spare := some e, rotStop := false })
      else s.modEng (9 * t + e) (fun y => { y with standby := true })

/-- Engine `k` leaves TEST for SPARE and takes its role. -/
def State.testOver (s : State) (k : Nat) : State :=
  (s.modEng k (fun e => { e with st := .spare, run := .parked })).assign (k / 9) (k % 9)

/-- The self-test failed, a code check among it: SELFTEST, and the engine is or stays FENCED (R336, 13 R346). -/
def State.testFailed (s : State) (k : Nat) : State :=
  let s := s.raise { w := k, src := 11 }
  if (s.engAt k).st == .test then s.fenceEngine k false else s

/-- The self-test passed: the master copy of the next position is loaded, and the engine enters SPARE; a failed load reports
RESTORE_FAIL and no SELFTEST (R336, R429). -/
def State.testPassed (s : State) (k : Nat) : State :=
  match (s.nextPos (k / 9) (k % 9)).bind (s.machOf (k / 9)) with
  | some m =>
    if s.copyBad (k / 9) m then ((s.wipe (lsKey k 0) 0x10000).testOver k).copyFailed (k / 9) m
    else if s.digestBad (k / 9) m then s.testFailed k
    else (s.copyIn k m).testOver k
  | none => (s.wipe (lsKey k 0) 0x10000).testOver k

/-- The test of engine `k` can end now: it runs, and no substitution or step stands in the way of a role (R339). -/
def State.testEnds (s : State) (k : Nat) : Bool :=
  let x := s.trainAt (k / 9)
  (s.engAt k).st == .test && (s.engAt k).run == .mach none &&
    (x.unserved == [] || x.spare == some (k % 9) || (x.sub.isNone && x.rot.isNone))

/-- TEST_COMPLETE (R336). -/
def execTestComplete (k : Nat) (r : TestResult) (s : State) : Res :=
  if !s.hasEngine k then .fault .noSuchUnit
  else .next (if s.testEnds k then (match r with | .pass => s.testPassed k | .mismatch => s.testFailed k) else s)

/-- RETEST: a write of TRB_RETEST (R340). -/
def execRetest (t : Nat) (v : Word) (a : HAcc) (s : State) : Res :=
  if 8 ≤ t then .fault .noSuchUnit
  else .next (s.hostDo a (trainOffset t 0x308) (fun s => if s.hasTrain t then s.trbRetest t v else s))

/-- STANDBY_TEST: a role or position has become free, and no standby engine of lower index stands before (R430). -/
def execStandbyTest (k : Nat) (s : State) : Res :=
  if !s.hasEngine k then .fault .noSuchUnit
  else
    let x := s.trainAt (k / 9)
    let free := x.spare.isNone || x.unserved != []
    let first := (List.range (k % 9)).all (fun e => !(s.engAt (9 * (k / 9) + e)).standby)
    .next (if (s.engAt k).standby && (s.engAt k).st == .spare && free && first && !s.gf.safe then
      (s.enterTest k).modEng k (fun e => { e with retest := true }) else s)

end Sys2Proof.Machine
end

