-- ==== Sys2Proof/Machine/Arrays.lean ====
section
/-! DEFINITION. Meanings of the sweep and the setpoint streamer (spec 11 R295-R306, 14 R372). -/

namespace Sys2Proof.Machine

/-- An engine of train `t` has a debug halt in force (14 R372). -/
def State.trainHalted (s : State) (t : Nat) : Bool := (List.range 9).any (fun e => (s.engAt (9 * t + e)).dbg.halted)

/-- Changes the sweep of a train. -/
def State.modSwp (s : State) (t : Nat) (f : Sweep → Sweep) : State := s.modTrain t (fun x => { x with swp := f x.swp })
/-- Changes the streamer of a train. -/
def State.modStr (s : State) (t : Nat) (f : Streamer → Streamer) : State := s.modTrain t (fun x => { x with str := f x.str })

/-! ### The sweep (R295-R299) -/

/-- Lines of an area: train memory, the sealed region, a local store (R285); 0 for a code of no area (R299). -/
def areaLines (area : Nat) : Nat :=
  if area = 0 then 65536 else if area = 1 then 1024 else if 0x10 ≤ area ∧ area ≤ 0x18 then 2048 else 0

/-- Memory key of a line of an area of train `t`. -/
def lineKey (t area line : Nat) : Nat :=
  if area = 0 then tmKey t (32 * line) else if area = 1 then seKey t (32 * line) else lsKey (9 * t + (area - 0x10)) (32 * line)

/-- SWP_ADDR of a line (R299). -/
def swpAddr (area ofs : Nat) : Word := BitVec.ofNat 32 (area * 2 ^ 27 + ofs / 32 % 65536 * 32)

/-- The sweep may work on the area now: enabled, its engine in a state that gives it the test port (R288), not frozen (14 R372),
the bank not fenced (R301), no wipe under way (R308). The lines of a fenced bank are neither done nor skipped, so no pass ends without
them (log entry 29). -/
def State.sweeps (s : State) (t area key : Nat) : Bool :=
  let x := (s.trainAt t).swp
  s.power.ready && s.power.retSt == .active && !(s.dbg.frzSwp && s.trainHalted t) && !s.bankFenced key && !s.sealWiping key &&
    (if area < 2 then x.tmEn
     else
       let st := (s.engAt (9 * t + (area - 0x10))).st
       x.lsEn && (st == .service || st == .spare || st == .fenced))

/-- The fence target of an error at a key: its bank, or the engine of its local store (12 R319). -/
def keyTarget (a : Nat) : Option Target :=
  match bankOf a, (arrOf a).1 with
  | some b, _ => some (.bank b.1 b.2)
  | none, .ls k => some (.engine k)
  | none, _ => none

/-- A line is done for its pass; the last one of train memory and the sealed region ends that pass (R298, R299). -/
def Sweep.done (x : Sweep) (area key line : Nat) : Sweep :=
  let x := { x with aborts := x.aborts.set (fun _ => 0) key 5 }
  if area < 2 then
    if x.linesDone + 1 = 65536 + 1024 then
      { x with pass := x.pass + 1, skips := Min.min x.skipRun 255, skipRun := 0, linesDone := 0
               aborts := x.aborts.filter (fun p => 0x2000000 ≤ p.1 && p.1 < 0x4000000) }
    else { x with linesDone := x.linesDone + 1 }
  else
    let base := key - 32 * line
    if (x.aborts.filter (fun p => base ≤ p.1 && p.1 < base + 0x10000 && p.2 == 5)).length = 2048 then
      { x with aborts := x.aborts.filter (fun p => p.1 < base || base + 0x10000 ≤ p.1) }
    else x

/-- Single-bit errors that the save read finds are corrected by the restore (R297). -/
def State.scrub (s : State) (t key : Nat) : State :=
  (List.range 4).foldl (fun s i =>
    if s.ce.contains (key + 8 * i) then
      let s := s.noteCE (key + 8 * i) 8
      ({ s with ce := s.ce.filter (· ≠ key + 8 * i) }).modSwp t (fun x => { x with ce := true })
    else s) s

/-- A pattern mismatch: SWEEP_FAIL or LS_SWEEP_FAIL (R297). -/
def State.sweepFail (s : State) (t area line key : Nat) : State :=
  let s := s.modSwp t (fun x => { x with fail := true, addr := swpAddr area (32 * line) })
  let addr : Word := BitVec.ofNat 32 (32 * line)
  if area < 2 then s.raise { w := 72 + t, src := 2, addr := addr, tgt := keyTarget key }
  else s.raise { w := 9 * t + (area - 0x10), src := 13, addr := addr }

/-- One test of a line (R295-R297). -/
def State.sweepLine (s : State) (t area line key : Nat) (r : SweepResult) : State :=
  match (List.range 4).find? (fun i => s.isUE (key + 8 * i)) with
  | some i =>
    ((s.modSwp t (fun x => { x with ue := true, addr := swpAddr area (32 * line) })).modSwp t
      (fun x => x.done area key line)).raiseMemUE (key + 8 * i)
  | none =>
    let s := s.scrub t key
    match r with
    | .pass => s.modSwp t (fun x => x.done area key line)
    | .mismatch => (s.modSwp t (fun x => x.done area key line)).sweepFail t area line key
    | .aborted =>
      let n := (s.trainAt t).swp.aborts.get (fun _ => 0) key + 1
      if n < 4 then s.modSwp t (fun x => { x with aborts := x.aborts.set (fun _ => 0) key n })
      else (s.modSwp t (fun x =>
        ({ x with skipRun := if area < 2 then x.skipRun + 1 else x.skipRun }).done area key line)).raiseInfo { w := 72 + t, src := 3 }

/-- SWEEP_LINE (R295): a line that is done for its pass is not tested again in it. -/
def execSweepLine (t : Nat) (area : BitVec 5) (line : Nat) (r : SweepResult) (s : State) : Res :=
  let key := lineKey t area.toNat line
  if !s.hasTrain t || decide (areaLines area.toNat ≤ line) then .fault .noSuchUnit
  else .next (
    if s.sweeps t area.toNat key && (s.trainAt t).swp.aborts.get (fun _ => 0) key != 5 then
      s.sweepLine t area.toNat line key r
    else s)

/-- A failed decoder check: ECC_CHK of a bank or LS_ECC_CHK of an engine. No rule names the line of the check (log entry 8). -/
def State.eccFail (s : State) (t area bank : Nat) : State :=
  let d := s.draw
  let ofs := d.1.toNat % areaLines area * 32
  let ofs := if area = 0 then ofs / 512 * 512 + 32 * bank else ofs
  let s := d.2.modSwp t (fun x => { x with eccchk := true, addr := swpAddr area ofs })
  if area < 2 then
    s.raise { w := 72 + t, src := 4, arg := some (if area = 1 then 16 else bank), tgt := some (.bank t (if area = 1 then 16 else bank)) }
  else s.raise { w := 9 * t + (area - 0x10), src := 14 }

/-- ECC_CHK (R297). -/
def execEccChk (t : Nat) (area : BitVec 5) (bank : Nat) (ok : Bool) (s : State) : Res :=
  if !s.hasTrain t || areaLines area.toNat == 0 || decide (area.toNat = 0 ∧ 16 ≤ bank) then .fault .noSuchUnit
  else
    let key := if area.toNat = 0 then tmKey t (32 * bank) else lineKey t area.toNat 0
    .next (if s.sweeps t area.toNat key && !ok then s.eccFail t area.toNat bank else s)

/-- SWP_STAT: the host's read (R299). -/
def execSwpStat (t : Nat) (s : State) : Res :=
  if 8 ≤ t then .fault .noSuchUnit
  else .next (s.hostGet (fun s => if s.hasTrain t then (s.trainCtlRead t 0x204 false false).getD (0, s) else (0, s)))

/-! ### The streamer (R302-R306) -/

/-- STR_CMD: the host's write (R304). -/
def execStrCmd (t : Nat) (v : Word) (a : HAcc) (s : State) : Res :=
  if 8 ≤ t then .fault .noSuchUnit
  else .next (s.hostDo a (trainOffset t 0x104) (fun s => if s.hasTrain t then s.strPost t false v else s))

/-- STR_QSTOP: the host's write (R306). -/
def execStrQstop (t : Nat) (v : Word) (a : HAcc) (s : State) : Res :=
  if 8 ≤ t then .fault .noSuchUnit
  else .next (s.hostDo a (trainOffset t 0x10C) (fun s => if s.hasTrain t then s.strRestart t v else s))

/-- Writes bytes in pieces that stay within one 64-bit word. -/
def State.writeList : Nat → State → Nat → List Byte → State
  | 0, s, _, _ => s
  | _ + 1, s, _, [] => s
  | n + 1, s, a, l =>
    let m := Min.min l.length (8 - a % 8)
    writeList n (s.write a m ((l.take m).foldr (fun b x => b.toNat + 256 * x) 0)) (a + m) (l.drop m)

/-- Writes the bytes `l` from `a` on. -/
def State.writeAll (s : State) (a : Nat) (l : List Byte) : State := State.writeList l.length s a l

/-- Free bytes of a queue, or `none` when its pointers are inconsistent (R305). -/
def qFree (e : QueueE) (wr rd : Word) : Option Nat :=
  let used := (wr - rd).toNat
  if e.size < used then none else some (e.size - used)

/-- The chunk of a turn: `none` when the queue lacks room (R305). -/
def qChunk (e : QueueE) (wr : Word) (free left : Nat) : Option Nat :=
  if free < Min.min left 256 then none
  else some (Min.min (Min.min left free) (Min.min (e.size - wr.toNat % e.size) 4096))

/-- The oldest request of a queue. -/
def Streamer.oldest (x : Streamer) (q : Nat) : Option StrReq := x.fifo.find? (fun r => r.q == q)

/-- A turn of queue `q` would do something: it has a request and either room or inconsistent pointers (R305). -/
def State.strTurn (s : State) (t q : Nat) : Bool :=
  match (s.trainAt t).str.oldest q, s.queueOf t q with
  | some r, some e =>
    let h := tmKey t e.base
    let wr := (s.strRead h).1
    match qFree e wr (s.strRead (h + 8)).1 with
    | none => true
    | some free => (qChunk e wr free r.left).isSome
  | _, _ => false

/-- Removes the oldest request of a queue. -/
def Streamer.dropOldest (x : Streamer) (q : Nat) : Streamer :=
  match x.oldest q with
  | some r => { x with fifo := x.fifo.erase r }
  | none => x

/-- The chunk's bytes enter the ring, then WR, then LASTTAG of a finished request (R305). -/
def State.strMove (s : State) (t : Nat) (e : QueueE) (r : StrReq) (wr : Word) (bytes : List Byte) : State :=
  let h := tmKey t e.base
  let n := bytes.length
  let s := s.writeAll (h + 32 + wr.toNat % e.size) bytes
  let s := s.write h 4 (wr + BitVec.ofNat 32 n).toNat
  if r.left = n then
    (s.write (h + 4) 4 r.tag.toNat).modStr t (fun x => { x.dropOldest r.q with doneCnt := x.doneCnt + 1 })
  else
    s.modStr t (fun x => { x with fifo := x.fifo.map (fun y => if y = r then { r with src := r.src + n, left := r.left - n } else y) })

/-- The read of a chunk of `n` bytes at boundary address `src` on the memory initiator, for the running image that defines the queue
(R305, 16 R413). -/
def State.chunkAddr (s : State) (t q src n : Nat) : MemAddr :=
  let gen := (s.gens.find? (fun g => s.running g && (s.img g).queues.any (fun x => x.train == t && x.qnum == q))).getD s.olderGen
  let a := (s.img gen).hdr.bndBase + (src - 0x40000000)
  { host := BitVec.ofNat 64 a, beats := burstBeats a n, id := BitVec.ofNat 8 (0x10 + t), cache := 2 }

/-- A chunk of `n` bytes of request `r` is read and served with the initiator's response. A response of another length is no response
to it. -/
def State.serveChunk (s : State) (t q : Nat) (e : QueueE) (r : StrReq) (wr : Word) (n : Nat) (resp : ChunkResponse) : State :=
  let s := s.modStr t (fun x => { x with bus := s.chunkAddr t q r.src n })
  match resp with
  | .error =>
    (s.modStr t (fun x => { x.dropOldest q with berr := true, rr := q })).raise
      { w := 72 + t, src := 6, arg := some q, tgt := some (.queue t q) }
  | .data bytes => if bytes.length = n then (s.strMove t e r wr bytes).modStr t (fun x => { x with rr := q }) else s

/-- Queue `q` stops on inconsistent pointers (R305). -/
def State.badPointers (s : State) (t q : Nat) : State :=
  ((s.stopQueue t q).modStr t (fun x => { x with ptr := true, rr := q })).raise
    { w := 72 + t, src := 7, arg := some q, tgt := some (.queue t q) }

/-- The turn of queue `q` at write pointer `wr` with `free` bytes free, `none` where the pointers are inconsistent; `s` is the
state before the pointers were read. -/
def State.serveTurn (d s : State) (t q : Nat) (e : QueueE) (r : StrReq) (resp : ChunkResponse) (wr : Word) (free : Option Nat) : State :=
  match free.map (fun f => qChunk e wr f r.left) with
  | none => d.badPointers t q
  | some none => s
  | some (some n) => d.serveChunk t q e r wr n resp

/-- serve(q) with the initiator's response (R305). -/
def State.serve (s : State) (t q : Nat) (e : QueueE) (r : StrReq) (resp : ChunkResponse) : State :=
  let w := s.strRead (tmKey t e.base)
  let d := w.2.strRead (tmKey t e.base + 8)
  d.2.serveTurn s t q e r resp w.1 (qFree e w.1 d.1)

/-- It is the turn of queue `q`: no queue after the last one served, in round-robin order, comes first (R305). -/
def State.strNext (s : State) (t q : Nat) : Bool :=
  let last := (s.trainAt t).str.rr
  let order := (List.range 16).map (fun i => (last + 1 + i) % 16)
  (order.find? (fun i => s.strTurn t i)) == some q

/-- STREAMER_CHUNK (R305, 14 R372). -/
def execStreamerChunk (t q : Nat) (r : ChunkResponse) (s : State) : Res :=
  if !s.hasTrain t || decide (16 ≤ q) then .fault .noSuchUnit
  else .next (
    match (s.trainAt t).str.oldest q, s.queueOf t q with
    | some x, some e => if s.power.ready && s.strNext t q && !(s.dbg.frzStr && s.trainHalted t) then s.serve t q e x r else s
    | _, _ => s)

end Sys2Proof.Machine
end

