-- ==== Sys2Proof/Machine/Data.lean ====
section
/-! DEFINITION. Meanings of the literals and groups 0 to 5 and 8: stack, ALU, shifts, multiply, divide, bits (spec 05 R119-R136). -/

namespace Sys2Proof.Machine

/-- LIT: pushes the sign-extended literal (R119). -/
def execLit (k : Nat) (v : BitVec 15) (s : State) : Res :=
  runInstr k (BitVec.ofNat 16 (0x8000 + v.toNat)) true (stackBody 0 1 1 (fun s _ c => (s, c.push (v.signExtend 32)))) s

/-- LITX: T := (T << 8) | u8 (R119). -/
def execLitx (k : Nat) (v : BitVec 8) (s : State) : Res :=
  runInstr k (gword 14 v.toNat) true (stackBody 1 1 1 (fun s _ c => (s, c.replace 1 [(c.t <<< 8) ||| v.setWidth 32]))) s

/-- LDK reads local store directly at KBASE + 4 × u8 (R109, R120). -/
def ldkBody (u : Nat) : Body := fun s w c =>
  let a := c.kbase.toNat + 4 * u
  if 0xFFFF < a + 3 then .fault s c (.berr (BitVec.ofNat 32 a))
  else if w.level ≠ 3 ∧ (s.engAt w.k).inSpill a 4 then .fault s c (.priv 2 (BitVec.ofNat 32 a))
  else match c.roomData 0 1 with
    | some x => x.res w.k s c
    | none =>
      let key := lsKey w.k a
      if s.isUE key then .fault s c (.ecc (BitVec.ofNat 32 (a / 8 * 8)))
      else .done ((s.noteCE key 4).watchData w false a 4 [s.rd32 key]) (c.push (s.rd32 key)) 1

/-- LDK (R119, R120). -/
def execLdk (k : Nat) (v : BitVec 8) (s : State) : Res := runInstr k (gword 13 v.toNat) true (ldkBody v.toNat) s

/-- The rearrangement ( a -- a a ) on entries listed top first (R121). -/
def dupEff : List Word → List Word
  | [a] => [a, a]
  | _ => []
/-- ( a -- a a ) (R121). -/
def execDup (k : Nat) (s : State) : Res := runInstr k (gword 0 0) true (shuffleBody 1 2 dupEff) s

/-- The rearrangement ( a -- ) on entries listed top first (R121). -/
def dropEff : List Word → List Word
  | [_] => []
  | _ => []
/-- ( a -- ) (R121). -/
def execDrop (k : Nat) (s : State) : Res := runInstr k (gword 0 1) true (shuffleBody 1 0 dropEff) s

/-- The rearrangement ( a b -- b a ) on entries listed top first (R121). -/
def swapEff : List Word → List Word
  | [b, a] => [b, a]
  | _ => []
/-- ( a b -- b a ) (R121). -/
def execSwap (k : Nat) (s : State) : Res := runInstr k (gword 0 2) true (shuffleBody 2 2 swapEff) s

/-- The rearrangement ( a b -- a b a ) on entries listed top first (R121). -/
def overEff : List Word → List Word
  | [b, a] => [a, b, a]
  | _ => []
/-- ( a b -- a b a ) (R121). -/
def execOver (k : Nat) (s : State) : Res := runInstr k (gword 0 3) true (shuffleBody 2 3 overEff) s

/-- The rearrangement ( a b -- b ) on entries listed top first (R121). -/
def nipEff : List Word → List Word
  | [b, _] => [b]
  | _ => []
/-- ( a b -- b ) (R121). -/
def execNip (k : Nat) (s : State) : Res := runInstr k (gword 0 4) true (shuffleBody 2 1 nipEff) s

/-- The rearrangement ( a b -- b a b ) on entries listed top first (R121). -/
def tuckEff : List Word → List Word
  | [b, a] => [b, a, b]
  | _ => []
/-- ( a b -- b a b ) (R121). -/
def execTuck (k : Nat) (s : State) : Res := runInstr k (gword 0 5) true (shuffleBody 2 3 tuckEff) s

/-- The rearrangement ( a b c -- b c a ) on entries listed top first (R121). -/
def rotEff : List Word → List Word
  | [c, b, a] => [b, c, a]
  | _ => []
/-- ( a b c -- b c a ) (R121). -/
def execRot (k : Nat) (s : State) : Res := runInstr k (gword 0 6) true (shuffleBody 3 3 rotEff) s

/-- The rearrangement ( a b c -- c a b ) on entries listed top first (R121). -/
def minusRotEff : List Word → List Word
  | [c, b, a] => [c, a, b]
  | _ => []
/-- ( a b c -- c a b ) (R121). -/
def execMinusRot (k : Nat) (s : State) : Res := runInstr k (gword 0 7) true (shuffleBody 3 3 minusRotEff) s

/-- The rearrangement ( a b -- a b a b ) on entries listed top first (R121). -/
def twoDupEff : List Word → List Word
  | [b, a] => [a, b, a, b]
  | _ => []
/-- ( a b -- a b a b ) (R121). -/
def execTwoDup (k : Nat) (s : State) : Res := runInstr k (gword 0 8) true (shuffleBody 2 4 twoDupEff) s

/-- The rearrangement ( a b -- ) on entries listed top first (R121). -/
def twoDropEff : List Word → List Word
  | [_, _] => []
  | _ => []
/-- ( a b -- ) (R121). -/
def execTwoDrop (k : Nat) (s : State) : Res := runInstr k (gword 0 9) true (shuffleBody 2 0 twoDropEff) s

/-- The rearrangement ( a b c d -- c d a b ) on entries listed top first (R121). -/
def twoSwapEff : List Word → List Word
  | [d, c, b, a] => [c, d, a, b]
  | _ => []
/-- ( a b c d -- c d a b ) (R121). -/
def execTwoSwap (k : Nat) (s : State) : Res := runInstr k (gword 0 10) true (shuffleBody 4 4 twoSwapEff) s

/-- The rearrangement ( a b c d -- a b c d a b ) on entries listed top first (R121). -/
def twoOverEff : List Word → List Word
  | [d, c, b, a] => [a, b, c, d, a, b]
  | _ => []
/-- ( a b c d -- a b c d a b ) (R121). -/
def execTwoOver (k : Nat) (s : State) : Res := runInstr k (gword 0 11) true (shuffleBody 4 6 twoOverEff) s

/-- >R (R79, R123). -/
def toRBody : Body := fun s w c =>
  match c.needData 1 with
  | some x => x.res w.k s c
  | none =>
    match c.roomRet 1 with
    | some x => x.res w.k s c
    | none => .done s ((c.drop 1).rpush c.t 0) 1
/-- >R ( a -- ), return ( -- a ), tag DATA (R121, R123). -/
def execToR (k : Nat) (s : State) : Res := runInstr k (gword 0 0x10) true toRBody s

/-- R>, R@ and RDROP: a SHADOW entry at RT raises PRIV (R79, R123). -/
def fromRBody (pop push : Bool) : Body := fun s w c =>
  match c.needRet 1 with
  | some x => x.res w.k s c
  | none =>
    if tagKind (c.rtag 0) = 3 then .fault s c (.priv 7)
    else match c.roomData 0 push.toNat with
      | some x => x.res w.k s c
      | none =>
        let c1 := if push then c.push (c.ret 0) else c
        .done s (if pop then c1.rdrop 1 else c1) 1
/-- R> (R121, R123). -/
def execRFrom (k : Nat) (s : State) : Res := runInstr k (gword 0 0x11) true (fromRBody true true) s
/-- R@ (R121, R123). -/
def execRFetch (k : Nat) (s : State) : Res := runInstr k (gword 0 0x12) true (fromRBody false true) s
/-- RDROP (R121, R123). -/
def execRdrop (k : Nat) (s : State) : Res := runInstr k (gword 0 0x13) true (fromRBody true false) s

/-- What stands in the way of data entry `i`: the fusee fills it while the window takes another word (R73). An entry below a window
that takes none is read or written in its spill word (log entry 52). -/
def Ctx.reach (c : Ctx) (i : Nat) : Option Stop :=
  if i < c.docc then none
  else if c.dused = 0 then some (.flt { code := 8 })
  else if c.docc + 2 ≤ 32 then some (.fusee .fillData) else none

/-- Local-store offset of data entry `i` in the spill area: the younger entry of a word lies in bits [63:32] (R72). -/
def Ctx.spillAt (c : Ctx) (i : Nat) : Nat :=
  let j := i - c.docc
  8 * ((c.dspill.extractLsb' 0 13).toNat + c.dused - 1 - j / 2) + (if j % 2 = 0 then 4 else 0)

/-- PICK: needs x + 1 entries and pushes a copy of entry x (R122). -/
def pickBody (x : Nat) : Body := fun s w c =>
  match (s.engAt w.k).begun with
  | .value v => pushRead v s w c 1
  | _ =>
    match c.reach x with
    | some y => y.res w.k s c
    | none =>
      if x < c.docc then pushRead (c.data x) s w c 1
      else
        let key := lsKey w.k (c.spillAt x)
        if s.isUE key then .fault s c (.ecc (BitVec.ofNat 32 (c.spillAt x / 8 * 8)))
        else pushRead (s.rd32 key) (s.noteCE key 4) w c 2
/-- PICK k (R121, R122). -/
def execPick (k : Nat) (x : BitVec 5) (s : State) : Res := runInstr k (gword 0 (0x20 + x.toNat)) true (pickBody x.toNat) s

/-- POKE: needs x + 2 entries, pops v and writes it in place of entry x below it (R122). -/
def pokeBody (x : Nat) : Body := fun s w c =>
  match c.needData 1 with
  | some y => y.res w.k s c
  | none =>
    match c.reach (x + 1) with
    | some y => y.res w.k s c
    | none =>
      if x + 1 < c.docc then .done s ((c.drop 1).setData x c.t) 1
      else
        let key := lsKey w.k (c.spillAt (x + 1))
        if s.isUE key then .fault s c (.ecc (BitVec.ofNat 32 (c.spillAt (x + 1) / 8 * 8)))
        else .done (s.write key 4 c.t.toNat) (c.drop 1) 2
/-- POKE k (R121, R122). -/
def execPoke (k : Nat) (x : BitVec 5) (s : State) : Res := runInstr k (gword 0 (0x40 + x.toNat)) true (pokeBody x.toNat) s

/-- A group 1 instruction (R125). -/
def aluBody (op : AluOp) : Body := dataBody op.arity op.results 1 (fun c x => op.eval c.fl x)

/-- ADD (R124, R125). -/
def execAdd (k : Nat) (s : State) : Res := runInstr k (gword 1 0) true (aluBody .add) s
/-- ADC (R124, R125). -/
def execAdc (k : Nat) (s : State) : Res := runInstr k (gword 1 1) true (aluBody .adc) s
/-- SUB (R124, R125). -/
def execSub (k : Nat) (s : State) : Res := runInstr k (gword 1 2) true (aluBody .sub) s
/-- SBC (R124, R125). -/
def execSbc (k : Nat) (s : State) : Res := runInstr k (gword 1 3) true (aluBody .sbc) s
/-- RSUB (R124, R125). -/
def execRsub (k : Nat) (s : State) : Res := runInstr k (gword 1 4) true (aluBody .rsub) s
/-- NEG (R124, R125). -/
def execNeg (k : Nat) (s : State) : Res := runInstr k (gword 1 5) true (aluBody .neg) s
/-- CMP (R124, R125). -/
def execCmp (k : Nat) (s : State) : Res := runInstr k (gword 1 6) true (aluBody .cmp) s
/-- TST (R124, R125). -/
def execTst (k : Nat) (s : State) : Res := runInstr k (gword 1 7) true (aluBody .tst) s
/-- AND (R124, R125). -/
def execAnd (k : Nat) (s : State) : Res := runInstr k (gword 1 8) true (aluBody .and) s
/-- OR (R124, R125). -/
def execOr (k : Nat) (s : State) : Res := runInstr k (gword 1 9) true (aluBody .or) s
/-- XOR (R124, R125). -/
def execXor (k : Nat) (s : State) : Res := runInstr k (gword 1 10) true (aluBody .xor) s
/-- ANDN (R124, R125). -/
def execAndn (k : Nat) (s : State) : Res := runInstr k (gword 1 11) true (aluBody .andn) s
/-- NOT (R124, R125). -/
def execNot (k : Nat) (s : State) : Res := runInstr k (gword 1 12) true (aluBody .not) s
/-- INC (R124, R125). -/
def execInc (k : Nat) (s : State) : Res := runInstr k (gword 1 13) true (aluBody .inc) s
/-- DEC (R124, R125). -/
def execDec (k : Nat) (s : State) : Res := runInstr k (gword 1 14) true (aluBody .dec) s
/-- MIN (R124, R125). -/
def execMin (k : Nat) (s : State) : Res := runInstr k (gword 1 16) true (aluBody .min) s
/-- MAX (R124, R125). -/
def execMax (k : Nat) (s : State) : Res := runInstr k (gword 1 17) true (aluBody .max) s
/-- MINU (R124, R125). -/
def execMinu (k : Nat) (s : State) : Res := runInstr k (gword 1 18) true (aluBody .minu) s
/-- MAXU (R124, R125). -/
def execMaxu (k : Nat) (s : State) : Res := runInstr k (gword 1 19) true (aluBody .maxu) s
/-- ABS (R124, R125). -/
def execAbs (k : Nat) (s : State) : Res := runInstr k (gword 1 20) true (aluBody .abs) s
/-- SEL (R124, R125). -/
def execSel (k : Nat) (s : State) : Res := runInstr k (gword 1 21) true (aluBody .sel) s

/-- A group 2 instruction (R126, R127). -/
def satBody (op : SatOp) : Body := dataBody op.arity 1 1 (fun c x => op.eval c.md c.fl x)

/-- ADDS (R126, R127). -/
def execAdds (k : Nat) (s : State) : Res := runInstr k (gword 2 0) true (satBody .adds) s
/-- SUBS (R126, R127). -/
def execSubs (k : Nat) (s : State) : Res := runInstr k (gword 2 1) true (satBody .subs) s
/-- NEGS (R126, R127). -/
def execNegs (k : Nat) (s : State) : Res := runInstr k (gword 2 2) true (satBody .negs) s
/-- ABSS (R126, R127). -/
def execAbss (k : Nat) (s : State) : Res := runInstr k (gword 2 3) true (satBody .abss) s
/-- CLAMP (R126, R127). -/
def execClamp (k : Nat) (s : State) : Res := runInstr k (gword 2 4) true (satBody .clamp) s
/-- SHLS (R126, R127). -/
def execShls (k : Nat) (s : State) : Res := runInstr k (gword 2 5) true (satBody .shls) s

/-- The word of a shift: group 3 with its amount or group 4 (R128). -/
def shWord (op : ShOp) : ShAmt → BitVec 16
  | .imm a => gword 3 (op.code * 32 + a.toNat)
  | .byT => gword 4 (op.code * 32)

/-- A shift by an immediate amount or by T (R128, R129). -/
def shBody (op : ShOp) : ShAmt → Body
  | .imm a => dataBody 1 1 1 (fun c x => op.eval c.md c.fl (x.getD 0 0) a.toNat)
  | .byT => dataBody 2 1 1 (fun c x => op.eval c.md c.fl (x.getD 1 0) (x.getD 0 0).toNat)

/-- SHL (R128, R129). -/
def execShl (k : Nat) (a : ShAmt) (s : State) : Res := runInstr k (shWord .shl a) true (shBody .shl a) s
/-- SHR (R128, R129). -/
def execShr (k : Nat) (a : ShAmt) (s : State) : Res := runInstr k (shWord .shr a) true (shBody .shr a) s
/-- SAR (R128, R129). -/
def execSar (k : Nat) (a : ShAmt) (s : State) : Res := runInstr k (shWord .sar a) true (shBody .sar a) s
/-- ROR (R128, R129). -/
def execRor (k : Nat) (a : ShAmt) (s : State) : Res := runInstr k (shWord .ror a) true (shBody .ror a) s
/-- SARR (R128, R129). -/
def execSarr (k : Nat) (a : ShAmt) (s : State) : Res := runInstr k (shWord .sarr a) true (shBody .sarr a) s

/-- A group 5 multiply (R130). -/
def mulBody (op : MulOp) : Body := dataBody 2 op.results 2 (fun c x => op.eval c.md c.fl (x.getD 1 0) (x.getD 0 0))

/-- MUL (R130). -/
def execMul (k : Nat) (s : State) : Res := runInstr k (gword 5 0) true (mulBody .mul) s
/-- MULH (R130). -/
def execMulh (k : Nat) (s : State) : Res := runInstr k (gword 5 1) true (mulBody .mulh) s
/-- MULHU (R130). -/
def execMulhu (k : Nat) (s : State) : Res := runInstr k (gword 5 2) true (mulBody .mulhu) s
/-- MULD (R130). -/
def execMuld (k : Nat) (s : State) : Res := runInstr k (gword 5 3) true (mulBody .muld) s
/-- MULDU (R130). -/
def execMuldu (k : Nat) (s : State) : Res := runInstr k (gword 5 4) true (mulBody .muldu) s
/-- MULFR (R130). -/
def execMulfr (k : Nat) (s : State) : Res := runInstr k (gword 5 5) true (mulBody .mulfr) s

/-- Beats that a division still takes when it completes, from its starting or remaining count C: a new one, one that goes on at a
stopping point it was stopped at, or one that nothing has stopped since its set-up (R133, R134). The 2 beats of a continued
division are the rule's; its remaining beats are rounded up to the formula's four quotient bits (log entry 53). -/
def divCost (db resumed going : Bool) (c : Nat) : Nat :=
  if going then Max.max 2 (2 * ceilDiv c 4)
  else if resumed then 2 + 2 * ceilDiv c 4
  else if db then 18 else Max.max 4 (2 + 2 * ceilDiv c 4)

/-- A division that runs at most `n` elements of eight quotient bits and then stands at an element boundary; the first one lies
after the set-up (R131-R134). -/
def divBody (signed : Bool) (n : Nat) : Body := fun s w c =>
  match c.needData 2 with
  | some x => x.res w.k s c
  | none =>
    let d := c.data 0
    let m := c.data 1
    if d = 0 then .fault s c { code := 0xE }
    else
      let md := divMag signed m d
      let n := if (s.engAt w.k).dbg.stepping then 1 else n
      let going := c.divp && decide ((s.engAt w.k).begun.paid ≠ 0)
      let p0 : DivProg := if c.divp then { a0 := c.auxR 0, a1 := c.auxR 1, c := c.cnt } else divInit c.db md.1 md.2
      let p := divRun md.1 md.2 (8 * n) p0
      let c1 := ((c.setAux 0 p.a0).setAux 1 p.a1).setAux 5 (BitVec.ofNat 32 p.c)
      if p.c = 0 ∧ (n ≠ 0 ∨ going) then
        let o := divFinish signed c.fl m d p
        .done s ((c1.replace 2 o.res).setFl o.fl) (divCost c.db c.divp going p0.c)
      else
        let cost := (if going then 0 else 2) + 4 * n
        .wait ((s.elapse w.k (List.replicate cost .idle)).begin w.k (.setup 2)) { c1 with divp := true } cost

/-- DIVS (R130-R134). -/
def execDivs (k n : Nat) (s : State) : Res := runInstr k (gword 5 8) false (divBody true n) s
/-- DIVU (R130-R134). -/
def execDivu (k n : Nat) (s : State) : Res := runInstr k (gword 5 9) false (divBody false n) s

/-- A group 8 instruction (R135, R136). -/
def bitBody (op : BitOp) : Body := dataBody op.arity 1 1 (fun c x => op.eval c.fl x)

/-- BFX (R136). -/
def execBfx (k : Nat) (s : State) : Res := runInstr k (gword 8 0) true (bitBody .bfx) s
/-- BFXS (R136). -/
def execBfxs (k : Nat) (s : State) : Res := runInstr k (gword 8 1) true (bitBody .bfxs) s
/-- BFI (R136). -/
def execBfi (k : Nat) (s : State) : Res := runInstr k (gword 8 2) true (bitBody .bfi) s
/-- CLZ (R136). -/
def execClz (k : Nat) (s : State) : Res := runInstr k (gword 8 3) true (bitBody .clz) s
/-- CLS (R136). -/
def execCls (k : Nat) (s : State) : Res := runInstr k (gword 8 4) true (bitBody .cls) s
/-- POPC (R136). -/
def execPopc (k : Nat) (s : State) : Res := runInstr k (gword 8 5) true (bitBody .popc) s
/-- BREV (R136). -/
def execBrev (k : Nat) (s : State) : Res := runInstr k (gword 8 6) true (bitBody .brev) s
/-- PERM (R136). -/
def execPerm (k : Nat) (s : State) : Res := runInstr k (gword 8 7) true (bitBody .perm) s

end Sys2Proof.Machine
end

