-- ==== Sys2Proof/Machine/Memory.lean ====
section
/-! DEFINITION. Meanings of groups 9 to 12, 15, 20, 21 and 23: loads, stores, auxiliary moves, SAVEM, LOADM, MOVE, FILL
(spec 03 R80-R82, 05 R137-R145, 06 R171-R176). -/

namespace Sys2Proof.Machine

/-! ### Loads and stores (R137-R143) -/

/-- The 32-bit values that a data comparator sees of a store, or of a load of whole words (14 R375). -/
def watchVals (n v : Nat) : List Word :=
  if n = 8 then [BitVec.ofNat 32 v, BitVec.ofNat 32 (v / 2 ^ 32)] else [BitVec.ofNat 32 v]

/-- A load of width code `w` through A register `an`; `place` gives the access address and the new An, or ILLEGAL. From boundary space
it waits until the write queue is empty and no read of the engine is outstanding (02 R49, 16 R413). -/
def loadBody (an : Nat) (wd : BitVec 2) (sx : Bool) (instr : BitVec 16) (place : Ctx → Option (Word × Word)) : Body :=
  fun s w c =>
  match place c with
  | none => .fault s c .illegal
  | some (a, anNew) =>
    let n := widthBytes wd
    let room := c.roomData 0 (widthEntries wd)
    match s.load w c a.toNat n with
    | .flt f => .fault s c f
    | .ue s1 f cost =>
      match room with
      | some x => x.res w.k s c
      | none => let q := charge s1 w c cost; .fault q.1 q.2 f
    | .wait s => .wait s c 1
    | .bnd =>
      match room with
      | some x => x.res w.k s c
      | none =>
        if (s.engAt w.k).bq ≠ [] ∨ (s.engAt w.k).bload.isSome then .wait (s.begin w.k .boundary) c 1
        else .wait (s.modEng w.k (fun e => { e with begun := .none, bload := (some {
          slot := (w.id.getD 0) % 16, addr := a, width := wd, sx := sx, an := BitVec.ofNat 2 an, anNew := anNew
          instr := instr, bus := { s.bndAddr w a.toNat false with bytes := widthBytes wd } }) })) c 1
    | .val s1 c1 v cost =>
      match room with
      | some x => x.res w.k s c
      | none =>
        .done (s1.watchData w false a.toNat n (loadWords wd sx v)) ((c1.setAux an anNew).pushAll (loadWords wd sx v)) cost

/-- A store of width code `w` through A register `an`. -/
def storeBody (an : Nat) (wd : BitVec 2) (place : Ctx → Option (Word × Word)) : Body := fun s w c =>
  match place c with
  | none => .fault s c .illegal
  | some (a, anNew) =>
    match c.needData (widthEntries wd) with
    | some x => x.res w.k s c
    | none =>
      let n := widthBytes wd
      let v := c.storeVal wd
      match s.store w a.toNat n v with
      | .flt f => .fault s c f
      | .wait s => .wait s c 1
      | .ok s1 => .done (s1.watchData w true a.toNat n (watchVals n v)) ((c.drop (widthEntries wd)).setAux an anNew) 1

/-- Word of groups 9 and 10 (R106, R107). -/
def viaWord (g : Nat) (an wd : BitVec 2) (sx : Bool) (upd : BitVec 3) : BitVec 16 :=
  gword g (an.toNat * 64 + wd.toNat * 16 + sx.toNat * 8 + upd.toNat)

/-- Group 9: load via an A register (R137). -/
def execLoadViaA (k : Nat) (an wd : BitVec 2) (sx : Bool) (upd : BitVec 3) (s : State) : Res :=
  let w := viaWord 9 an wd sx upd
  runInstr k w true (loadBody an.toNat wd sx w (fun c =>
    if sx && decide (2 ≤ wd.toNat) then none else c.addrUpd an.toNat wd upd)) s

/-- Group 10: store via an A register (R137). -/
def execStoreViaA (k : Nat) (an wd : BitVec 2) (upd : BitVec 3) (s : State) : Res :=
  runInstr k (viaWord 10 an wd false upd) true (storeBody an.toNat wd (fun c => c.addrUpd an.toNat wd upd)) s

/-- Address of groups 11 and 12: An + 4 × u6, An unchanged (R138). -/
def Ctx.offsetAddr (c : Ctx) (an : Nat) (u6 : BitVec 6) : Option (Word × Word) :=
  some (c.auxR an + BitVec.ofNat 32 (4 * u6.toNat), c.auxR an)

/-- Group 11: load with offset (R138). -/
def execLoadWithOffset (k : Nat) (an : BitVec 2) (u6 : BitVec 6) (s : State) : Res :=
  let w := gword 11 (an.toNat * 64 + u6.toNat)
  runInstr k w true (loadBody an.toNat 2 false w (fun c => c.offsetAddr an.toNat u6)) s

/-- Group 12: store with offset (R138). -/
def execStoreWithOffset (k : Nat) (an : BitVec 2) (u6 : BitVec 6) (s : State) : Res :=
  runInstr k (gword 12 (an.toNat * 64 + u6.toNat)) true (storeBody an.toNat 2 (fun c => c.offsetAddr an.toNat u6)) s

/-! ### Auxiliary register moves (R144, R145) -/

/-- Push of register `r`. -/
def execAuxPush (k : Nat) (r : BitVec 3) (s : State) : Res :=
  runInstr k (gword 15 r.toNat) true (stackBody 0 1 1 (fun s _ c => (s, c.push (c.auxR r.toNat)))) s
/-- Pop into register `r`. -/
def execAuxPop (k : Nat) (r : BitVec 3) (s : State) : Res :=
  runInstr k (gword 15 (0x40 + r.toNat)) true (stackBody 1 0 1 (fun s _ c => (s, (c.drop 1).setAux r.toNat c.t))) s
/-- Exchange of T with register `r`. -/
def execAuxExchange (k : Nat) (r : BitVec 3) (s : State) : Res :=
  runInstr k (gword 15 (0x80 + r.toNat)) true (stackBody 1 1 1 (fun s _ c =>
    (s, (c.setData 0 (c.auxR r.toNat)).setAux r.toNat c.t))) s

/-! ### SAVEM and LOADM (R80-R82) -/

/-- The registers that a mask selects, ascending. -/
def maskRegs (m : BitVec 8) : List Nat := (List.range 8).filter (fun i => m.getLsbD i)

/-- The 64-bit words that hold a list of registers, lower-numbered register in bits [31:0]. -/
def Ctx.pack (c : Ctx) : List Nat → List Nat
  | [] => []
  | [r] => [(c.auxR r).toNat]
  | r :: q :: t => ((c.auxR r).toNat + (c.auxR q).toNat * 2 ^ 32) :: c.pack t

/-- Writes registers from packed words. -/
def Ctx.unpack (c : Ctx) : List Nat → List Nat → Ctx
  | r :: q :: t, v :: l => ((c.setAux r (BitVec.ofNat 32 v)).setAux q (BitVec.ofNat 32 (v / 2 ^ 32))).unpack t l
  | [r], v :: _ => c.setAux r (BitVec.ofNat 32 v)
  | _, _ => c

/-- The memory keys of `p` words from address `a`, or the fault: BERR, MISALIGN, PRIV in this order (R81, 04 R112). -/
def State.linePlaces (s : State) (w : Who) (a p : Nat) (store : Bool) : Except Flt (List Nat) :=
  let places := (List.range p).map (fun i => s.memPlace w (a + 8 * i) 8 store true)
  let berr := places.findSome? (fun x => match x with | .error f => if f.code = 3 then some f else none | _ => none)
  let priv := places.findSome? (fun x => match x with | .error f => some f | _ => none)
  match berr with
  | some f => .error f
  | none =>
    if a % 8 ≠ 0 then .error (.misalign (BitVec.ofNat 32 a))
    else match priv with
      | some f => .error f
      | none => .ok (places.filterMap (fun x => match x with | .ok k => some k | _ => none))

/-- The words of SAVEM enter the store buffer, one per beat, with their store waits inside the instruction (R82); `b` beats have
passed. -/
def State.saveWords (k : Nat) (free : Bool) : List (Nat × Nat) → State → Nat → State × Nat
  | [], s, b => (s, b)
  | (key, v) :: r, s, b =>
    let put (s : State) : Option State := ((s.engAt k).bufferStore key 8 v free).map (s.setEng k)
    let d := if (put s).isSome then (s, b) else State.untilRoom k 1 16 s b
    State.saveWords k free r ((((put d.1).getD d.1).pass k [.idle]).settle k) (d.2 + 1)

/-- SAVEM (R80-R82): no stop separates its words. -/
def savemBody (m : BitVec 8) : Body := fun s w c =>
  match c.needData 1 with
  | some x => x.res w.k s c
  | none =>
    let words := c.pack (maskRegs m)
    match (if words = [] then .ok [] else s.linePlaces w c.t.toNat words.length true) with
      | .error f => .fault s c f
      | .ok keys =>
        let d := State.saveWords w.k (!w.db) (keys.zip words) ((s.pass w.k [.idle]).settle w.k) 1
        let s := (words.zipIdx).foldl (fun s p => s.watchData w true (c.t.toNat + 8 * p.2) 8 (watchVals 8 p.1)) d.1
        .done s (c.drop 1) d.2
/-- SAVEM m (R171). -/
def execSavem (k : Nat) (m : BitVec 8) (s : State) : Res := runInstr k (gword 20 m.toNat) true (savemBody m) s

/-- A 64-bit word for LOADM: forwarded from the store buffer of `e`, as LOADM found it, or from memory (02 R53). -/
def State.loadLine (s : State) (e : Engine) (a key : Nat) : Except Flt (State × Nat) :=
  match e.forward key 8 with
  | .hit v => .ok (s, v)
  | _ => s.memRead a key 8

/-- Reads the words of LOADM in order, up to the first that is uncorrectable. -/
def State.loadLines (s : State) (e : Engine) : List (Nat × Nat) → List Nat → State × Except Flt (List Nat)
  | [], acc => (s, .ok acc.reverse)
  | (a, key) :: r, acc =>
    match s.loadLine e a key with
    | .ok (s, v) => s.loadLines e r (v :: acc)
    | .error f => (s, .error f)

/-- LOADM (R80-R82). In free mode a word that overlaps the store buffer waits inside the instruction until the buffer is empty. It
takes its cost also when a word is uncorrectable (11 R301). With an empty mask it takes 1 beat in both modes (02 R59 lists no figure for p = 0; log entry 55). -/
def loadmBody (m : BitVec 8) : Body := fun s w c =>
  match c.needData 1 with
  | some x => x.res w.k s c
  | none =>
    let p := (c.pack (maskRegs m)).length
    let a := c.t.toNat
    if p = 0 then .done (s.elapse w.k [.idle]) (c.drop 1) 1
    else match s.linePlaces w a p false with
      | .error f => .fault s c f
      | .ok keys =>
        let e := s.engAt w.k
        let r := (rgnOf a).getD .ls
        let stall := !w.db && keys.any (fun key => e.forward key 8 == .overlap)
        let d := if stall then State.untilRoom w.k 4 16 s 0 else (s, 0)
        let q := charge d.1 w c d.2
        let cost := loadCost w.db r 0 8 + p
        let x := (q.1.loadBeats w (ownBeats w.db r cost)).loadLines e (keys.zipIdx.map (fun x => (a + 8 * x.2, x.1))) []
        match x.2 with
        | .error f => let y := charge x.1 w q.2 cost; .fault y.1 y.2 f
        | .ok vals =>
          let s1 := (vals.zipIdx).foldl (fun s x => s.watchData w false (a + 8 * x.2) 8 (watchVals 8 x.1)) x.1
          .done s1 ((q.2.drop 1).unpack (maskRegs m) vals) cost
/-- LOADM m (R171). -/
def execLoadm (k : Nat) (m : BitVec 8) (s : State) : Res := runInstr k (gword 21 m.toNat) true (loadmBody m) s

/-! ### MOVE and FILL (R172-R176) -/

/-- What one MOVE or FILL is: element size in bytes, direction, and whether it fills. -/
structure Mv where
  fill : Bool
  n : Nat
  down : Bool
  wd : BitVec 2
  deriving DecidableEq, Repr

/-- Source and destination addresses of the next element (R173). -/
def Mv.addrs (m : Mv) (c : Ctx) : Word × Word :=
  let d : Word := if m.down then BitVec.ofNat 32 m.n else 0
  (c.auxR 0 - d, c.auxR 1 - d)

/-- The bank after one element (R173). -/
def Mv.after (m : Mv) (c : Ctx) : Ctx :=
  let x := m.addrs c
  let d : Word := if m.down then 0 else BitVec.ofNat 32 m.n
  let c := c.setAux 1 (x.2 + d)
  let c := if m.fill then c else c.setAux 0 (x.1 + d)
  c.setAux 5 (c.auxR 5 - 1)

/-- Memory keys of source and destination, or the element's fault; of two faults of one kind the source's is raised (R174; log
entry 54). A word of a sealed region that is being wiped reads as zero, whatever it held (11 R308). -/
def Mv.check (m : Mv) (s : State) (w : Who) (c : Ctx) : Except Flt (Nat × Nat) :=
  let x := m.addrs c
  let src := if m.fill then .ok 0 else s.memPlace w x.1.toNat m.n false false
  let dst := s.memPlace w x.2.toNat m.n true false
  match src, dst with
  | .error f, .error g => .error (if f.code = 5 ∧ g.code = 3 then g else f)
  | .error f, _ => .error f
  | _, .error g => .error g
  | .ok a, .ok b =>
    match (if m.fill || s.sealWiping a then none else s.firstUE a m.n) with
    | some key => .error (.ecc (BitVec.ofNat 32 (x.1.toNat / 8 * 8)) (some key))
    | none => .ok (a, b)

/-- One element: read, then write directly to memory (R174, 11 R308). -/
def Mv.move (m : Mv) (s : State) (w : Who) (c : Ctx) (a b v : Nat) : State :=
  let x := m.addrs c
  let val := if m.fill then v else if s.sealWiping a then 0 else s.rdBytes a m.n
  let s := if m.fill then s else (if s.sealWiping a then s else s.noteCE a m.n).watchData w false x.1.toNat m.n (watchVals m.n val)
  let s := if s.sealWiping b then s else s.write b m.n val
  s.watchData w true x.2.toNat m.n (watchVals m.n val)

/-- Beats of one element (R175). -/
def Mv.cost (m : Mv) (db : Bool) (c : Ctx) : Nat :=
  if m.fill then (if db then 2 else 1)
  else if !db && rgnOf (m.addrs c).1.toNat == some .ls && rgnOf (m.addrs c).2.toNat == some .ls then 2 else 3

/-- What one element does with the ports (R32): the source's access in its first beat, the destination's in its last (log entry 67). -/
def Mv.beats (m : Mv) (db : Bool) (c : Ctx) : List Beat :=
  let x := m.addrs c
  let src := if m.fill then .idle else accessBeat db (rgnOf x.1.toNat)
  ((List.replicate (m.cost db c) Beat.idle).set 0 src).set (m.cost db c - 1) (accessBeat db (rgnOf x.2.toNat))

/-- At most `n` elements; the state, bank, beats, and the fault of the first element that has one. Of such an element no beats
count, but for the access of a load that meets an uncorrectable word (11 R301, log entry 65). -/
def Mv.run (m : Mv) (w : Who) (v : Nat) : Nat → State → Ctx → Nat → State × Ctx × Nat × Option Flt
  | 0, s, c, b => (s, c, b, none)
  | n + 1, s, c, b =>
    if c.cnt = 0 ∨ (s.engAt w.k).st = .fenced then (s, c, b, none)
    else match m.check s w c with
      | .error f => if f.code = 0xB then (s.elapse w.k (m.beats w.db c), c, b + m.cost w.db c, some f) else (s, c, b, some f)
      | .ok (x, y) =>
        let s1 := (m.move s w c x y v).elapse w.k (m.beats w.db c)
        if s1.cutsRun w then (s1, m.after c, b + m.cost w.db c, none)
        else m.run w v n s1 (m.after c) (b + m.cost w.db c)

/-- Set-up beats that a MOVE or FILL passes now, of the `paid` it has behind it: in deadbeat mode a MOVE has an element boundary
after four of its eight (R175), at which it stands when it is to run no element. -/
def Mv.setup (m : Mv) (db : Bool) (n paid : Nat) : Nat :=
  if m.fill || !db then 1 - paid else if paid = 0 ∧ n = 0 then 4 else 8 - paid

/-- The set-up is over. -/
def Mv.ready (m : Mv) (db : Bool) (n paid : Nat) : Bool := m.fill || !db || !(paid == 0 && n == 0)

/-- The misaligned address of a MOVE or FILL; of two, A1 is named (R173; log entry 54). -/
def Mv.misaligned (m : Mv) (c : Ctx) : Option Word :=
  if (c.auxR 1).toNat % m.n ≠ 0 then some (c.auxR 1)
  else if !m.fill && decide ((c.auxR 0).toNat % m.n ≠ 0) then some (c.auxR 0) else none

/-- A MOVE or FILL that runs at most `n` elements before it stands at an element boundary (R173-R176). A debugger's step runs its
set-up with one element, since a step that ended before the first element would never reach it (14 R371; log entry 68). -/
def moveBody (m : Mv) (n : Nat) : Body := fun s w c =>
  match (if m.fill then c.needData (widthEntries m.wd) else none) with
  | some x => x.res w.k s c
  | none =>
    let e := s.engAt w.k
    let wait := e.sbuf ≠ [] ∧ (m.fill ∨ !w.db)
    let n := if e.dbg.stepping then 1 else n
    let paid := e.begun.paid
    let setup := m.setup w.db n paid
    if wait then .wait (s.begin w.k .inner) c 1
    else
      let s1 := s.elapse w.k (List.replicate setup .idle)
      match m.ready w.db n paid, m.misaligned c with
      | false, _ => .wait (s1.begin w.k (.setup setup)) c setup
      | true, some a => .fault s c (.misalign a)
      | true, none =>
        let r := m.run w (c.storeVal m.wd) n s1 c setup
        match r.2.2.2 with
        | some f => let p := charge r.1 w r.2.1 r.2.2.1; .fault p.1 p.2 f
        | none =>
          if r.2.1.cnt = 0 then .done r.1 (if m.fill then r.2.1.drop (widthEntries m.wd) else r.2.1) r.2.2.1
          else .wait (r.1.begin w.k (.setup (paid + setup))) r.2.1 r.2.2.1

/-- Word of group 23 (R172). -/
def mvWord (fill : Bool) (wd : BitVec 2) (dir : Bool) : BitVec 16 :=
  gword 23 (fill.toNat * 128 + wd.toNat * 32 + dir.toNat * 16)

/-- MOVE (R173). -/
def execMove (k : Nat) (wd : BitVec 2) (dir : Bool) (n : Nat) (s : State) : Res :=
  runInstr k (mvWord false wd dir) false (moveBody { fill := false, n := widthBytes wd, down := dir, wd := wd } n) s
/-- FILL (R173). -/
def execFill (k : Nat) (wd : BitVec 2) (dir : Bool) (n : Nat) (s : State) : Res :=
  runInstr k (mvWord true wd dir) false (moveBody { fill := true, n := widthBytes wd, down := dir, wd := wd } n) s

end Sys2Proof.Machine
end

