-- ==== Sys2Proof/Machine/EngineEvents.lean ====
section
/-! DEFINITION. Meanings of the engine's own events: store retirement, fusee, cache fills, boundary responses, asynchronous
entries, stops, hangs and undefined encodings (spec 02 R47-R57, 03 R73-R76, 04 R110, 07 R187-R190, R207, 08 R221-R224,
12 R319, R328). -/

namespace Sys2Proof.Machine

/-- An event of engine `k`: absent engines have none; a condition that does not hold changes nothing (log entry 2). -/
def engineEvent (k : Nat) (s : State) (cond : Bool) (f : State → State) : Res :=
  if !s.hasEngine k then .fault .noSuchUnit else .next (if cond then f s else s)

/-- Deadbeat code runs on engine `k`: its beats give every store its retire slot (02 R51). -/
def State.slotted (s : State) (k : Nat) : Bool :=
  let e := s.engAt k
  e.run != .parked && !e.dbg.halted && !e.mstop && (s.who k).db

/-- STORE_RETIRE: the oldest store-buffer entry enters memory in a beat that no instruction of the engine counts (02 R50, R51). While
deadbeat code runs, entries retire in their slots only. -/
def execStoreRetire (k : Nat) (s : State) : Res :=
  engineEvent k s ((s.engAt k).sbuf != [] && !s.slotted k) (fun s => s.retireOne k)

/-- One fusee batch on the running bank of engine `k`: its words are beats; an uncorrectable word raises ECC_UE on the
instruction that needed it (03 R73, R76). -/
def State.runFusee (s : State) (k : Nat) (op : FuseeOp) : State :=
  let c := s.bank k
  let r := fuseeBatch op k s c
  let s := ((r.1.setBank k r.2.1).emptyBeats k (List.replicate (fuseeWords c r.2.1) .port)).modEng k (fun e => { e with fusee := none })
  match r.2.2 with
  | some x => s.takeFault k (.ecc x) { pc := r.2.1.resumePc, instr := (s.fetch k c.pc.toNat).setWidth 32 }
  | none => s

/-- FUSEE_BATCH: the batch that a waiting instruction needs, once the store buffer is empty (03 R73). -/
def execFuseeBatch (k : Nat) (op : FuseeOp) (s : State) : Res :=
  let e := s.engAt k
  engineEvent k s (e.fusee == some op && e.sbuf == [] && e.run != .parked && e.st != .fenced) (fun s => s.runFusee k op)

/-! ### Instruction-cache fills (02 R47) -/

/-- Installs a line as the most recent of its set of two. -/
def Engine.addLine (e : Engine) (l : ICLine) : Engine :=
  let same := (e.icache.filter (fun x => x.addr / 32 % 128 == l.addr / 32 % 128 && x.addr != l.addr)).take 1
  { e with icache := l :: (e.icache.filter (fun x => x.addr / 32 % 128 != l.addr / 32 % 128) ++ same) }

/-- The line of train-memory address `a`, with the words that decode as uncorrectable. -/
def State.tmLine (s : State) (t a : Nat) : ICLine :=
  let key := tmKey t (a % 0x200000)
  { addr := a, data := BitVec.ofNat 256 (s.rdBytes key 32)
    bad := BitVec.ofNat 4 ((List.range 4).foldl (fun x i =>
      if s.isUE (key + 8 * i) || s.bankFenced (key + 8 * i) then x + 2 ^ i else x) 0) }

/-- A fetch of the running free-mode context waits for the line at `a`. -/
def State.missing (s : State) (k a : Nat) : Bool :=
  match (s.engAt k).run with
  | .ctx _ => s.canRun k && (s.engAt k).fill.any (fun x => x.addr == a)
  | _ => false

/-- The beats that the host takes to respond: the spec states no number (log entry 8). -/
def State.hostBeats (s : State) (k : Nat) : State :=
  let d := s.draw
  (d.2.addBeats k d.1.toNat).modEng k (fun e => { e with lockBeats := if e.lock = 0 then 0 else e.lockBeats + d.1.toNat })

/-- A line fill for the waiting fetch: from train memory in 6 beats, or with the host's data after its response time. -/
def State.fillLine (s : State) (k a : Nat) (data : BitVec 256) (err : Bool) : State :=
  let c := s.bank k
  let at' : Word := if c.pc.toNat / 32 * 32 = a then c.pc else BitVec.ofNat 32 a
  let s := s.modEng k (fun e => { e with fill := none })
  if rgnOf a = some .tm then
    if (s.tmPlace (s.who k) (at'.toNat / 8 * 8 % 0x200000) 8 false false).isNone then s.fetchFault k (.berr at') c.resumePc
    else ((List.range 4).foldl (fun s i => s.noteWord (tmKey (trainOf k) (a % 0x200000) + 8 * i))
        (s.emptyBeats k (List.replicate 6 .train))).modEng k (fun e => e.addLine (s.tmLine (trainOf k) a))
  else
    let s := s.hostBeats k
    if err then s.fetchFault k (.berr at') c.resumePc else s.modEng k (fun e => e.addLine { addr := a, data := data })

/-- ICACHE_FILL (02 R47, 16 R414). -/
def execIcacheFill (k : Nat) (addr : Word) (data : BitVec 256) (err : Bool) (s : State) : Res :=
  let a := addr.toNat / 32 * 32
  engineEvent k s (s.missing k a) (fun s => s.fillLine k a data err)

/-! ### Boundary responses (05 R142, 07 R189, R190) -/

/-- The words that a boundary load pushes. -/
def BLoad.words (b : BLoad) (data : Word64) : List Word := loadWords b.width b.sx (data.toNat % 256 ^ widthBytes b.width)

/-- The bank after a boundary load returns: value pushed, address updated, instruction complete. -/
def Ctx.loaded (c : Ctx) (b : BLoad) (data : Word64) : Ctx :=
  ((c.setAux b.an.toNat b.anNew).pushAll (b.words data)).advance

/-- A boundary-load response of engine `k` (05 R142): it enters the bank whether or not the context still runs, and an error waits
for a context that does not run (log entry 16). -/
def State.boundaryLoaded (s : State) (k : Nat) (b : BLoad) (data : Word64) (err : Bool) : State :=
  let id := ctxId k b.slot
  let running := (s.engAt k).run == .ctx b.slot
  let s := s.modEng k (fun e => { e with bload := none })
  let s := if running then s.hostBeats k else s
  let c := s.ctxAt id
  if err then
    if running then s.takeFault k (.berr b.addr) { pc := c.resumePc, instr := b.instr.setWidth 32 }
    else s.setCtx id { c with lerr := some (b.addr, b.instr) }
  else
    let w := s.whoCtx k b.slot
    let s := s.setCtx id (c.loaded b data)
    let s := if running then s.modEng k (fun e => { e.tickLock 0 with
      pair := none, begun := .none, dbg := { e.dbg with pass := false } }) else s
    let s := s.watchData w false b.addr.toNat (widthBytes b.width) (b.words data)
    if running then s.endStep k else s

/-- BOUNDARY_LOAD_RESPONSE. -/
def execBoundaryLoadResponse (k : Nat) (data : Word64) (err : Bool) (s : State) : Res :=
  match (s.engAt k).bload with
  | some b => engineEvent k s true (fun s => s.boundaryLoaded k b data err)
  | none => engineEvent k s false id

/-- The context that issued a boundary store still holds its bank, and its generation has not retired (07 R190). -/
def State.bqAlive (s : State) (b : BQE) : Bool :=
  let c := s.ctxAt b.ctxid
  c.st != .unused && c.gen == b.gen && c.lctx == b.lctx && c.builds == b.builds

/-- An error response to the oldest boundary store (07 R189, R190). -/
def State.storeError (s : State) (k : Nat) (b : BQE) : State :=
  if s.bqAlive b then
    s.modCtx b.ctxid (fun c =>
      if c.latePend then { c with lateOvf := true } else { c with latePend := true, lateAddr := b.addr })
  else s.raiseLow { w := k, src := 7, addr := b.addr }

/-- BOUNDARY_STORE_ERROR. -/
def execBoundaryStoreError (k : Nat) (s : State) : Res :=
  match (s.engAt k).bq with
  | b :: r => engineEvent k s true (fun s => (s.modEng k (fun e => { e with bq := r })).storeError k b)
  | [] => engineEvent k s false id

/-- BOUNDARY_STORE_RESPONSE: success frees the oldest entry of the boundary write queue (02 R49). -/
def execBoundaryStoreResponse (k : Nat) (s : State) : Res :=
  engineEvent k s ((s.engAt k).bq != []) (fun s => s.modEng k (fun e => { e with bq := e.bq.drop 1 }))

/-! ### Asynchronous entries (07 R188) -/

/-- The slot whose context takes condition `a` at its stopping point now; a boundary wait holds every one off but a stop. -/
def State.takes (s : State) (k : Nat) (a : Async) : Option Nat :=
  match s.atStop k with
  | some slot =>
    if s.async k (s.ctxAt (ctxId k slot)) == some a && !(s.engAt k).waiting && !(s.engAt k).mstop then some slot else none
  | none => none

/-- BERR_LATE (07 R189). LATEPEND is clear even when a nested entry is not made for want of return room (R198; log entry 57). -/
def execBerrLate (k : Nat) (s : State) : Res :=
  match s.takes k .late with
  | some slot =>
    engineEvent k s true (fun s =>
      let c := s.ctxAt (ctxId k slot)
      (s.modCtx (ctxId k slot) (fun c => { c with latePend := false, lateOvf := false })).takeFault k
        { code := 4, addr := c.lateAddr } { pc := c.resumePc, lateOvf := c.lateOvf })
  | none => engineEvent k s false id

/-- EVENT_ENTRY (07 R207). -/
def execEventEntry (k : Nat) (s : State) : Res :=
  match s.takes k .event with
  | some slot =>
    engineEvent k s true (fun s =>
      s.takeFault k { code := 0 } { pc := (s.ctxAt (ctxId k slot)).resumePc, event := true })
  | none => engineEvent k s false id

/-- BUDGET: the first beat beyond the budget; a context that waits on boundary space spends its beats in the wait
(02 R31, 12 R319; log entry 7). -/
def execBudget (k : Nat) (s : State) : Res :=
  match s.ctxOn k with
  | some id =>
    let c := s.ctxAt id
    let e := s.engAt k
    let waits := (e.waiting || e.fill.any (·.bus.isSome)) && !c.overrun && c.limited
    engineEvent k s (c.st == .running && (c.overdue || waits)) (fun s =>
      (s.modCtx id (fun c => { c with overrun := true, budgetPend := true, beats := Max.max c.beats (c.budget + 1) })).raise
        { w := k, src := if c.db then 4 else 5, arg := some (ctxArg c.gen c.lctx) })
  | none => engineEvent k s false id

/-- A halt in force keeps the watchdog of a context paused (14 R372, R373). -/
def State.wdogPaused (s : State) (k : Nat) (c : Ctx) : Bool :=
  let d := (s.engAt k).dbg
  d.halted && d.frz && !(s.lcs.st == .secured && s.rmt.startedSecured && c.world)

/-- A watchdog expires: the source, and the entry that the context will take, unless the source fences its engine now (12 R328,
R431). -/
def State.expire (s : State) (k id arg : Nat) : State :=
  let s' := (s.modCtx id (fun c => { c with wdAt := none })).raise { w := k, src := 6, arg := some arg }
  if (s'.engAt k).st == .fenced && (s.engAt k).st != .fenced then s'
  else s'.modCtx id (fun c => { c with wdogPend := true })

/-- WDOG (12 R328): W ticks after the last restart. -/
def execWdog (gen : Bool) (lctx : Nat) (s : State) : Res :=
  match s.locate gen lctx with
  | none => .next s
  | some id =>
    let k := engOfCtx id
    let c := s.ctxAt id
    let due := match c.wdAt with
      | some x => c.wdW != 0 && decide (x + c.wdW ≤ s.now)
      | none => false
    .next (if due && !s.wdogPaused k c then s.expire k id (ctxArg gen lctx) else s)

/-- The terminal entry of a context whose BUDGET or WDOG is pending (07 R205, 12 R431). -/
def State.terminal (s : State) (k slot code : Nat) : State :=
  let id := ctxId k slot
  let s := s.modCtx id (fun c => if code = 9 then { c with budgetPend := false } else { c with wdogPend := false })
  s.takeFault k { code := code } { pc := (s.ctxAt id).resumePc, term := true }

/-- TERMINAL_ENTRY. -/
def execTerminalEntry (k : Nat) (s : State) : Res :=
  match s.takes k .budget, s.takes k .wdog with
  | some slot, _ => engineEvent k s true (fun s => s.terminal k slot 9)
  | _, some slot => engineEvent k s true (fun s => s.terminal k slot 0xA)
  | none, none => engineEvent k s false id

/-! ### Stops (02 R57, 08 R221-R224) -/

/-- STOP_REQUEST: the stop tick of a FREE or EVENT activation has come (08 R222, R224). -/
def execStopRequest (k : Nat) (s : State) : Res :=
  match s.ctxOn k with
  | some id =>
    let due := match (s.ctxAt id).act with
      | some a => a.kind != 0 && decide (a.endAt ≤ s.now)
      | none => false
    engineEvent k s (due && (s.engAt k).stopReq.isNone) (fun s => s.sendStop k)
  | none => engineEvent k s false id

/-- CONTEXT_STOP: the stop is taken at a stopping point, or at once in a wait on boundary space, inside a LOCK bracket too (02 R57,
07 R188). -/
def execContextStop (k : Nat) (s : State) : Res :=
  let e := s.engAt k
  let slot := match s.takes k .stop, e.run with
    | some slot, _ => some slot
    | none, .ctx slot => if e.waiting && e.stopReq.isSome && !e.mstop then some slot else none
    | none, _ => none
  match slot with
  | some slot => engineEvent k s true (fun s => (s.stopCtx k slot 1).endStep k)
  | none => engineEvent k s false id

/-- HANG: no stopping point within 256 ticks of a stop request (12 R319). -/
def execHang (k : Nat) (s : State) : Res :=
  let due := match (s.engAt k).stopReq with
    | some x => decide (x + 256 ≤ s.now)
    | none => false
  engineEvent k s (due && (s.engAt k).run != .parked) (fun s =>
    s.raise { w := k, src := 10, arg := (s.ctxOn k).map (fun id => ctxArg (s.ctxAt id).gen (s.ctxAt id).lctx) })

/-! ### Undefined encodings (04 R110) -/

/-- A word that raises ILLEGAL whatever the state: it names no row of the table but UNDEFINED_ENCODING. -/
def undefinedWord (w : BitVec 16) : Bool :=
  match wordCommand 0 0 w with
  | .undefinedEncoding _ _ => true
  | _ => false

/-- UNDEFINED_ENCODING. -/
def execUndefinedEncoding (k : Nat) (w : BitVec 16) (s : State) : Res :=
  if s.hasEngine k && !undefinedWord w then .next s
  else runInstr k w true (fun s _ c => .fault s c .illegal) s

end Sys2Proof.Machine
end

