-- ==== Sys2Proof/Machine/Rails.lean ====
section
/-! DEFINITION. Meanings of the pace gauges, the rails and the clock (spec 15 R384-R386, R398, 12 R316, R319, 16 R401). -/

namespace Sys2Proof.Machine

/-- Changes the bellows and gauge of a train. -/
def State.modPace (s : State) (t : Nat) (f : Pace → Pace) : State := s.modTrain t (fun x => { x with pace := f x.pace })

/-- PACE_FLOOR in force: the running image's, 620 without one and in a reset (15 R385, R389). -/
def State.paceFloor (s : State) : Nat :=
  if s.power.ready then
    (s.gens.filter s.running).foldl (fun m g => Max.max m (s.img g).hdr.paceFloor) (if s.anyRunning then 0 else 620)
  else 620

/-- 1,000 × PG and 1,000 × PT (15 R385). -/
def State.pg (s : State) : Nat := s.paceFloor * (1000 + s.power.guard.toNat)
/-- 1,000 × PT. -/
def State.pt (s : State) : Nat := s.paceFloor * (1000 + s.power.guard.toNat + s.power.band.toNat)

/-- The rail after a window (15 R385): moved to 0.88 V by a DEGRADE action of 12 R316, whose hold keeps it, and unchanged by a train
fence (15 R386) until a reset, in which every train is brought to PT (15 R389). -/
def State.railStep (s : State) (t mea rail : Nat) : Nat :=
  let p := (s.trainAt t).pace
  if s.power.ready && s.fences.contains (Target.train t) then rail
  else if p.move then 880
  else if p.holdPace ∨ p.holdRail then rail
  else if mea * 1000 < s.pt ∧ rail < 880 then rail + 5
  else if s.pt * 102 < mea * 100000 ∧ 600 < rail then rail - 5
  else rail

/-- The two counts differ by more than 2 % of the larger (15 R386). -/
def gaugeApart (n n2 : Nat) : Bool := decide (Max.max n n2 < ((n - n2) + (n2 - n)) * 50)

/-- GAUGE_FAIL at the end of the 16th window of a run (15 R386). -/
def State.gauge (s : State) (t n n2 : Nat) : State :=
  let run := if gaugeApart n n2 then Min.min ((s.trainAt t).pace.gaugeRun + 1) 17 else 0
  let s := s.modPace t (fun p => { p with gaugeRun := run })
  if run = 16 then s.raise { w := 72 + t, src := 10 } else s

/-- PACE and RAIL_LIMIT of a window that began with the rail at `rail` (15 R385). -/
def State.paceFaults (s : State) (t mea rail : Nat) : State :=
  if mea * 1000 < s.pg then
    let s := s.raise { w := 72 + t, src := 9 }
    if rail = 880 then s.raiseLow { w := 83, src := 1, arg := some t } else s
  else s

/-- The end of a 64-tick window with the two lines' counts (15 R385, R386). -/
def State.paceWindow (s : State) (t n n2 : Nat) : State :=
  let mea := n * 25 / 32
  let rail := (s.trainAt t).pace.rail
  let s := (s.modPace t (fun p => { p with meas := mea, min := Min.min p.min mea })).paceFaults t mea rail
  let v := s.railStep t mea rail
  (s.modPace t (fun p => { p with rail := v, mv := BitVec.ofNat 10 v, move := false })).gauge t n n2

/-- The gauges run: from phase 2 of a reset on, and outside retention (15 R388, R389). -/
def Power.gauges (p : Power) : Bool := if p.ready then p.retSt == .active else decide (2 ≤ p.phase.toNat)

/-- PACE_WINDOW of train `t`. -/
def execPaceWindow (t n n2 : Nat) (s : State) : Res :=
  if !s.hasTrain t then .fault .noSuchUnit
  else .next (if s.power.gauges then s.paceWindow t n n2 else s)

/-- VBLK_LOW: the measured supply, and the source below 1.70 V (15 R384, R398). -/
def execVblkLow (mv : Nat) (s : State) : Res :=
  let s := { s with power := { s.power with vblk := BitVec.ofNat 12 mv } }
  .next (if mv < 1700 then s.raiseLow { w := 83, src := 0 } else s)

/-- RAIL_OOR: an engine rail outside 0.60-0.88 V (12 R319); ARG is its train (log entry 70). -/
def execRailOor (t mv : Nat) (s : State) : Res :=
  if !s.hasTrain t then .fault .noSuchUnit
  else .next (if mv < 600 ∨ 880 < mv then s.raise { w := 83, src := 2, arg := some t } else s)

/-- RET_OOR: the retention rail, which is on outside ACTIVE (12 R319, 15 R383). -/
def execRetOor (s : State) : Res := .next (if s.power.retSt != .active then s.raiseLow { w := 83, src := 3 } else s)

/-- Every outlet's command pair is driven to 0b11 (16 R401). -/
def State.forceOutlets (s : State) : State := (List.range 320).foldl (fun s n => s.modOut n (fun o => { o with cmd := 0b11 })) s

/-- REFCLK_LOSS: the independent oscillator forces the outlets, and SAFE (12 R319, 16 R401). -/
def execRefclkLoss (s : State) : Res :=
  .next (({ s with pins := { s.pins with safeN := false } }).forceOutlets.raise { w := 80, src := 1 })

/-- BLW_PACE as a word (15 R398). -/
def Pace.word (p : Pace) : Word := BitVec.ofNat 32 (p.min * 65536 + p.meas % 65536)

/-- BLW_PACE read: a non-quiet one opens MIN anew (15 R398). -/
def State.blwPace (s : State) (t : Nat) (quiet : Bool) : Word × State :=
  ((s.trainAt t).pace.word, if quiet then s else s.modPace t (fun p => { p with min := 0xFFFF }))

/-- BLW_PACE: the host's read. -/
def execBlwPace (t : Nat) (s : State) : Res :=
  if 8 ≤ t then .fault .noSuchUnit
  else .next (s.hostGet (fun s => if s.hasTrain t then s.blwPace t false else (0, s)))

end Sys2Proof.Machine
end

