-- ==== Sys2Proof/Machine/Power.lean ====
section
/-! DEFINITION. Meanings of reset, retention, tamper and the life cycle (spec 15 R384-R398, 11 R307-R309, 12 R322, R323). -/

namespace Sys2Proof.Machine

/-! ### Block reset (15 R389) -/

/-- The SAFE outlet step of a reset with an image RUNNING: safe values at once, and every engine is asked to stop. -/
def State.resetOutlets (s : State) : State :=
  if s.anyRunning then
    let s := { s with gf := { s.gf with safe := true } }
    (List.range (9 * s.variant.trains)).foldl (fun s k => s.sendStop k) s.overrideAll
  else s

/-- LCS_STAT.STATE of a lifecycle state; transitions only go to higher codes (15 R393, R398). -/
def LState.code : LState → Nat
  | .blank => 0 | .develop => 1 | .secured => 2 | .returned => 3 | .scrapped => 4

/-- The fuses of a state are partly programmed beside what an earlier cut left: the farther state counts. -/
def Lcs.partly (x : Lcs) (st : LState) : Option LState :=
  match x.part with
  | some y => if y.code < st.code then some st else some y
  | none => some st

/-- A reset or power loss during fuse programming leaves the old state or the new one, unspecified which (15 R393; log
entry 8); a transition that did not complete may be partly programmed. -/
def Lcs.cut (x : Lcs) (new part : Bool) : Lcs :=
  match x.busy with
  | some (.to st) => if new then { x with st := st, busy := none } else { x with busy := none, part := if part then x.partly st else x.part }
  | some .progKey => { x with keyProg := new, busy := none }
  | none => x

/-- Applies the cut, drawing only while fuses are being programmed. -/
def State.cutFuses (s : State) : State :=
  if s.lcs.busy.isNone then s
  else let d := s.draw; { d.2 with lcs := d.2.lcs.cut (d.1.getLsbD 0) (d.1.getLsbD 1) }

/-- A reset begins: `sx_safe_n` low, READY 0, phase 1 to come (15 R389, 16 R401). -/
def State.beginReset (s : State) (held : Bool) : State :=
  let s := s.cutFuses.resetOutlets
  { s with
    pins := { s.pins with safeN := false }
    power := { s.power with
      ready := false, phase := 1, held := held || s.power.held, waitRelease := true, resetAt := s.now } }

/-- Phase 3: every array and bore is wiped, and every engine is OFF (11 R309, 15 R392). -/
def State.wipeAll (s : State) : State := { s with mem := [], ue := [], ce := [], ctx := [], eng := [] }

/-- The rails of every train as they stand, beside registers at their reset values: BLW_RAIL shows them from the next window on
(15 R385, R398). -/
def State.railsOnly (s : State) : Tab Train :=
  (List.range s.variant.trains).foldl (fun t i => t.set (fun _ => {}) i { pace := { rail := (s.trainAt i).pace.rail } }) []

/-- Phase 4: every register takes its reset value. What fuses hold, LCS_STAT.TAMPER, the rails and the inputs' last levels stay; a new
challenge is drawn (15 R389, R395, R397). Code 0b11 stays on the outlets (16 R407). -/
def State.resetRegs (s : State) : State :=
  { State.reset with
    variant := s.variant, pending := s.pending, freeCtr := s.freeCtr, time := s.time
    mem := s.mem, ue := s.ue, ce := s.ce, train := s.railsOnly
    outlet := s.outlet.filterMap (fun p => if p.2.cmd = 0b11 then some (p.1, { cmd := 0b11 }) else none)
    trip := s.trip.filterMap (fun p =>
      if p.2.inp = 0 ∧ p.2.blank = false then none else some (p.1, { inp := p.2.inp, blank := p.2.blank }))
    lcs := { s.lcs with cmdErr := false, busy := none, wiping := false, sealLost := false, draw := s.lcs.draw + 1
                        keydig := if s.lcs.keyProg then s.lcs.keydig else [] }
    host := s.host, tap := s.tap
    power := { ready := false, phase := 4, pendTime := s.power.pendTime, resetAt := s.power.resetAt, phaseAt := s.now }
    pins := { s.pins with safeN := false } }

/-- The edge that ends phase 4 loads ESC_TIME, and phase 5 begins: READY, `sx_safe_n` high, and every command pair 0b00, unless a SAFE
reaction has come meanwhile (15 R389, 16 R400, R401, R407). -/
def State.resetDone (s : State) : State :=
  { s with
    time := s.power.pendTime
    outlet := if s.gf.safe then s.outlet else []
    power := { s.power with ready := true, phase := 5, resetAt := 0, phaseAt := 0, pendTime := 0 }
    pins := { s.pins with safeN := !s.gf.safe } }

/-- The ticks of phase 2: 16 gauge windows of 64 (15 R385, R389). -/
def gaugeTicks : Nat := 1024

/-- The reset goes on to its next phase. -/
def State.toPhase (s : State) (n : BitVec 3) : State := { s with power := { s.power with phase := n, phaseAt := s.now } }

/-- One tick of the reset sequence; each phase but the second is given only a bound and takes one tick here (log entries 3 and 9). -/
def State.resetTick (s : State) : State :=
  if s.power.ready then s
  else if s.power.waitRelease then
    if !s.power.held && !s.power.low && decide (s.power.resetAt + 24 ≤ s.now) then
      { s with power := { s.power with waitRelease := false } }
    else s
  else match s.power.phase.toNat with
    | 1 =>
      ((List.range s.variant.trains).foldl (fun s t => s.modPace t (fun _ => {})) s).toPhase 2
    | 2 => if s.power.phaseAt + gaugeTicks ≤ s.now then s.wipeAll.toPhase 3 else s
    | 3 => s.resetRegs
    | _ => s.resetDone

/-- BLOCK_RESET: `rst_blk_n` asserts (15 R389). -/
def execBlockReset (s : State) : Res := .next (s.beginReset true)

/-- RESET_RELEASE: `rst_blk_n` is released, with the host time value that phase 4 will load (15 R389, 16 R400). -/
def execResetRelease (time : Word64) (s : State) : Res :=
  .next (if s.power.ready then s else { s with power := { s.power with held := false, pendTime := time } })

/-- A partly programmed transition completes at power-on; the state only goes forward (15 R393). -/
def Lcs.fuseCheck (x : Lcs) : Lcs :=
  match x.part with
  | some st => { x with st := if x.st.code < st.code then st else x.st, part := none }
  | none => x

/-- POWER_ON: VBLK has risen, and the reset that began below the threshold, or begins now, has no outlet step. Its phases begin once
`rst_blk_n` is released too (15 R384, R389). ESC_TIME will take the host's time value, a free value unless a RESET_RELEASE names it
(log entry 8). -/
def execPowerOn (mv : Nat) (s : State) : Res :=
  .next (
    if mv < 1550 then s
    else
      let s := s.cutFuses
      let d := s.draw
      let d2 := d.2.draw
      let s := d2.2
      { s with
        lcs := s.lcs.fuseCheck
        outlet := []
        pins := { s.pins with safeN := false }
        power := { s.power with
          ready := false, phase := 1, low := false, waitRelease := true
          resetAt := if s.power.low then s.power.resetAt else s.now, vblk := BitVec.ofNat 12 mv, pendTime := d.1 ++ d2.1 } })

/-- POWER_ON_RESET_HOLD: VBLK below 1.55 V holds the block in power-on reset until it has risen; the outlet step completes (15 R384). -/
def execPowerOnResetHold (mv : Nat) (s : State) : Res :=
  .next (if mv < 1550 then
    let s := if s.power.low then s else s.beginReset false
    { s with power := { s.power with low := true, vblk := BitVec.ofNat 12 mv } }
  else s)

/-! ### Retention (15 R388) -/

/-- Every engine is OFF with nothing in its buffers (15 R388, R392). -/
def State.enginesOff (s : State) : State :=
  (List.range (9 * s.variant.trains)).foldl (fun s k =>
    s.modEng k (fun e => { e with st := .off, run := .parked, sbuf := [], bload := none, stopReq := none, late := none })) s

/-- RET = 1 (15 R388). -/
def State.retain (s : State) : State :=
  let err := { s with power := { s.power with retErr := true } }
  if s.anyRunning || s.rgl.op != .idle || !s.power.ready then err
  else match s.power.retSt with
    | .active => ({ s with power := { s.power with ret := true, retSt := .entering } }).enginesOff
    | .waking => err
    | _ => { s with power := { s.power with ret := true } }

/-- The engine rails ramp to 0.80 V; the spec gives no course, so BLW_RAIL shows a free value (log entry 8). -/
def State.ramp (s : State) : State :=
  (List.range s.variant.trains).foldl (fun s t =>
    let d := s.draw
    d.2.modPace t (fun p => { p with mv := d.1.setWidth 10 })) { s with power := { s.power with retSt := .waking } }

/-- RET = 0 (15 R388): in ENTERING it takes effect once RETAINED is reached. -/
def State.wake (s : State) : State :=
  let s' := { s with power := { s.power with ret := false } }
  if s.power.retSt = .retained then s'.ramp else s'

/-- RETENTION_ENTRY: a write of PWR_CTL.RET = 1; in reset it is refused (15 R388, R390). -/
def execRetentionEntry (a : HAcc) (s : State) : Res :=
  .next (if s.hostBad a 0x6000 then s.answer 2 else s.retain.answer 0)

/-- RETENTION_WAKE: a write of PWR_CTL.RET = 0. -/
def execRetentionWake (a : HAcc) (s : State) : Res := .next (s.hostDo a 0x6000 State.wake)

/-- RETAINED: caches and loop buffers are invalid, the retention rail is on, the engine rails are off (15 R388); sample windows
read as after block reset (11 R311). A reset has taken the engine rails to 0.80 V (15 R389) and ends the entry. -/
def execRetained (s : State) : Res :=
  .next (if s.power.retSt = .entering && s.power.ready then
    let s := (List.range (9 * s.variant.trains)).foldl (fun s k => s.modEng k (fun e => { e with icache := [], lb := e.lb.off })) s
    let s := (List.range s.variant.trains).foldl (fun s t => s.modPace t (fun p => { p with rail := 0, mv := 0 })) { s with win := [] }
    if s.power.ret then { s with power := { s.power with retSt := .retained } } else s.ramp
  else s)

/-- Zeroes the sealed region of every train. -/
def State.wipeSealed (s : State) : State := (List.range 8).foldl (fun s t => s.wipe (seKey t 0) 0x8000) s

/-- A new sweep pass of train memory and the sealed region (11 R312). -/
def Sweep.restart (x : Sweep) : Sweep :=
  { x with skips := 0, skipRun := 0, linesDone := 0, aborts := x.aborts.filter (fun p => decide (0x2000000 ≤ p.1 ∧ p.1 < 0x4000000)) }

/-- WAKE_COMPLETE: rails at 0.80 V, and the sealed banks zero after a tamper in retention (15 R388, R397); the
sweep begins anew (11 R312). A reset takes the wake's place (15 R389). -/
def execWakeComplete (s : State) : Res :=
  .next (if s.power.retSt = .waking && s.power.ready then
    let s := if s.lcs.sealLost then { s.wipeSealed with lcs := { s.lcs with sealLost := false } } else s
    let s := (List.range s.variant.trains).foldl (fun s t =>
      (s.modPace t (fun p => { p with rail := 800, mv := 800 })).modSwp t Sweep.restart) s
    { s with power := { s.power with retSt := .active } }
  else s)

/-! ### Tamper (15 R397, 11 R308) -/

/-- TAMPER: the sealed wipe starts, or in retention the sealed banks lose their supply, and SAFE. -/
def execTamper (s : State) : Res :=
  let off := s.power.retSt == .retained || s.power.retSt == .waking
  let s := { s with lcs := { s.lcs with tamper := true, wiping := !off || s.lcs.wiping, sealLost := off || s.lcs.sealLost } }
  .next (s.raise { w := 85, src := 0 })

/-- SEAL_WIPE: the wipe of the sealed regions has ended (11 R308). -/
def execSealWipe (s : State) : Res :=
  .next (if s.lcs.wiping then
    let s := { s.wipeSealed with lcs := { s.lcs with wiping := false } }
    (List.range s.variant.trains).foldl (fun s t => s.raiseLow { w := 72 + t, src := 8 }) s
  else s)

/-! ### Life cycle (15 R393-R398) -/

/-- The challenge in force (15 R395). -/
def State.chal (s : State) : Word64 := Config.challenge s.lcs.draw

/-- IDCODE (14 R363). -/
def State.idcode (s : State) : Word := BitVec.ofNat 32 (2 ^ 28 + s.variant.part * 4096 + Config.tapMfr.toNat * 2 + 1)

/-- The key digest as bytes: words little-endian (15 R398). -/
def State.keyBytes (s : State) : List Byte := (List.range 8).flatMap (fun i => leBytes 4 (s.lcs.keydig.get (fun _ => 0) i).toNat)

/-- A return token is valid (15 R395). -/
def State.tokenOk (s : State) (token : List Byte) : Bool :=
  decide (token.length = 136) && token.take 8 == leBytes 8 s.chal.toNat &&
    tagOk s.keyBytes (token.drop 8) (leBytes 8 s.chal.toNat ++ leBytes 4 s.idcode.toNat)

/-- The listed transitions with their conditions (15 R393). -/
def State.transition (s : State) (st : LState) (token : List Byte) : Bool :=
  match s.lcs.st, st with
  | .blank, .develop => true
  | .blank, .secured | .develop, .secured => s.lcs.keyProg
  | .secured, .returned => s.tokenOk token
  | .scrapped, .scrapped => false
  | _, .scrapped => true
  | _, _ => false

/-- The unlock field is right and no command is in progress (15 R393). -/
def State.lcsFree (s : State) (unlock : BitVec 16) : Bool := unlock == 0xA5C3 && s.lcs.busy.isNone

/-- A transition command: programming starts, or CMDERR (15 R393). -/
def State.lcsTo (s : State) (unlock : BitVec 16) (st : LState) (token : List Byte) : State :=
  if s.lcsFree unlock && !s.anyRunning && s.transition st token then { s with lcs := { s.lcs with busy := some (.to st) } }
  else { s with lcs := { s.lcs with cmdErr := true } }

/-- PROG_KEY (15 R394). -/
def State.progKey (s : State) (unlock : BitVec 16) : State :=
  if s.lcsFree unlock && !s.lcs.keyProg && (s.lcs.st == .blank || s.lcs.st == .develop) then
    { s with lcs := { s.lcs with busy := some .progKey } }
  else { s with lcs := { s.lcs with cmdErr := true } }

/-- PROG_KEY. -/
def execProgKey (unlock : BitVec 16) (a : HAcc) (s : State) : Res := .next (s.hostDo a 0x7004 (fun s => s.progKey unlock))
/-- TO_DEVELOP. -/
def execToDevelop (unlock : BitVec 16) (a : HAcc) (s : State) : Res :=
  .next (s.hostDo a 0x7004 (fun s => s.lcsTo unlock .develop []))
/-- TO_SECURED. -/
def execToSecured (unlock : BitVec 16) (a : HAcc) (s : State) : Res :=
  .next (s.hostDo a 0x7004 (fun s => s.lcsTo unlock .secured []))
/-- The regulator reads `n` bytes from the host address in RGL_ADDR (16 R413), unless admission refuses the length (08 R229). -/
def Rgl.reads (r : Rgl) (n : Nat) : Rgl :=
  let a := r.addrHi ++ r.addrLo
  if n < 64 ∨ n % 8 ≠ 0 then r else { r with bus := { host := a, beats := burstBeats a.toNat n, cache := 2 } }

/-- The block reads the token of a TO_RETURNED that only a token can refuse (15 R393, R395). -/
def State.tokenRead (s : State) (unlock : BitVec 16) : Bool := s.lcsFree unlock && !s.anyRunning && s.lcs.st == .secured

/-- A TO_RETURNED attempt: the token is read from the host address in RGL_ADDR, and a new challenge is drawn (15 R395). -/
def State.toReturned (s : State) (unlock : BitVec 16) (token : List Byte) : State :=
  let s := { s with rgl := if s.tokenRead unlock then s.rgl.reads 136 else s.rgl }.lcsTo unlock .returned token
  { s with lcs := { s.lcs with draw := s.lcs.draw + 1 } }

/-- `4 n` bytes that host memory holds and no row names: free values (log entry 63). -/
def State.drawBytes : Nat → State → List Byte × State
  | 0, s => ([], s)
  | n + 1, s =>
    let d := s.draw
    let r := State.drawBytes n d.2
    (leBytes 4 d.1.toNat ++ r.1, r.2)

/-- TO_RETURNED. -/
def execToReturned (unlock : BitVec 16) (token : List Byte) (a : HAcc) (s : State) : Res :=
  .next (s.hostDo a 0x7004 (fun s => s.toReturned unlock token))
/-- TO_SCRAPPED. -/
def execToScrapped (unlock : BitVec 16) (a : HAcc) (s : State) : Res :=
  .next (s.hostDo a 0x7004 (fun s => s.lcsTo unlock .scrapped []))

/-- FUSE_PROGRAMMED: the digest is fused, or the new state is and a block reset follows (15 R393, R394). -/
def execFuseProgrammed (time : Word64) (s : State) : Res :=
  .next (match s.lcs.busy with
    | some .progKey => { s with lcs := { s.lcs with busy := none, keyProg := true } }
    | some (.to st) =>
      let s := ({ s with lcs := { s.lcs with busy := none, st := st } }).beginReset false
      { s with power := { s.power with pendTime := time } }
    | none => s)

end Sys2Proof.Machine
end

