-- ==== Sys2Proof/Machine/Parse.lean ====
section
/-! DEFINITION. Reading a movement image: its bytes as entries, and the FORMAT checks (spec 08 R211-R228, R426, 09 R248, 11 R302,
12 R329, 13 R347). -/

namespace Sys2Proof.Machine

/-- A refusal: code, directory index of the section, pointer (08 R232). -/
structure Rfs where
  code : Nat
  sect : Nat
  ptr : Nat
  deriving DecidableEq, Repr

/-- A little-endian number from bytes. -/
def leNat (l : List Byte) : Nat := l.foldr (fun b x => b.toNat + 256 * x) 0

/-- The `n`-byte field at offset `o`. -/
def fld (l : List Byte) (o n : Nat) : Nat := leNat ((l.drop o).take n)

/-- Bits [o + n - 1 : o] of a number. -/
def bits (x o n : Nat) : Nat := x / 2 ^ o % 2 ^ n

/-- Bytes `o` to `o + n - 1` are zero. -/
def zeroAt (l : List Byte) (o n : Nat) : Bool := fld l o n == 0

/-- A section's bytes. -/
def Section.bytes (x : Section) (raw : List Byte) : List Byte := (raw.drop x.ofs).take x.len

/-- The fixed-size entries of an array at the start of a section: image offset and bytes of each. An array that the image
cannot hold is cut; its directory entry is refused (R212). -/
def Section.array (x : Section) (raw : List Byte) (from' count size : Nat) : List (Nat × List Byte) :=
  (List.range (Min.min count (raw.length / Max.max size 1 + 1))).map (fun i => (x.ofs + from' + size * i, (raw.drop (x.ofs + from' + size * i)).take size))

/-! ### Header and directory -/

/-- The header (R211). -/
def parseHeader (l : List Byte) : Header :=
  { fmtVer := fld l 4 2, nsect := fld l 6 2, imgLen := fld l 8 4, variant := fld l 0xC 1, trains := fld l 0xD 1
    isaVer := fld l 0xE 1, flags := fld l 0xF 1, name := fld l 0x10 8, gen := fld l 0x18 2, layoutGen := fld l 0x1A 2
    paceFloor := fld l 0x1C 2, margin := fld l 0x1E 2, bndBase := fld l 0x20 8, startTime := fld l 0x28 8
    tagKind := fld l 0x30 1, crc := fld l 0x38 4 }

/-- The directory (R212). -/
def parseDir (raw : List Byte) (n : Nat) : List Section :=
  (List.range n).map (fun i =>
    let e := (raw.drop (0x40 + 16 * i)).take 16
    { typ := fld e 0 2, ofs := fld e 4 4, len := fld e 8 4, count := fld e 12 4 })

/-- Entry size of a section type; 0 for a type that is not listed (R213). -/
def entrySize (typ : Nat) : Nat :=
  match typ with
  | 1 | 3 | 4 | 5 | 8 | 9 | 0xA | 0xC | 0xE => 16
  | 2 | 7 => 64
  | 6 => 32
  | 0xB | 0xD => 8
  | 0xFF => 128
  | _ => 0

/-- Bytes of a section's entry array. -/
def Section.arrayLen (x : Section) : Nat :=
  if x.typ = 0xB then 8 * (x.count % 65536) + 16 * (x.count / 65536) else entrySize x.typ * x.count

/-- The section of a type. -/
def sectOf (dir : List Section) (typ : Nat) : Option Section := dir.find? (fun x => x.typ == typ)
/-- Directory index of a type; 0xFF where there is none. -/
def sectIdx (dir : List Section) (typ : Nat) : Nat :=
  match dir.findIdx? (fun x => x.typ == typ) with | some i => i | none => 0xFF

/-- The entry array of a section type. -/
def entriesOf (raw : List Byte) (dir : List Section) (typ : Nat) : List (Nat × List Byte) :=
  match sectOf dir typ with
  | some x => x.array raw 0 x.count (entrySize typ)
  | none => []

/-! ### Entries -/

/-- CODE (R214). -/
def parseCode (sec : Section) (raw : List Byte) (p : Nat × List Byte) : CodeE :=
  let pl := fld p.2 0 1
  { ofs := p.1, train := bits pl 0 3, pos := bits pl 3 3, tm := bits pl 6 1 == 1, addr := fld p.2 4 4
    bytes := (raw.drop (sec.ofs + fld p.2 12 4)).take (fld p.2 8 4) }

/-- Set bits of an eight-bit mask. -/
def popc8 (m : Nat) : Nat := ((List.range 8).filter (fun i => m.testBit i)).length

/-- Words of a CONTEXTS initial-value block. -/
def initWords (e : List Byte) : Nat := popc8 (fld e 0x21 1) + 3 * (fld e 0x22 1 % 2) + fld e 5 1

/-- CONTEXTS (R215); unselected auxiliary registers are zero. -/
def parseCtx (sec : Section) (raw : List Byte) (p : Nat × List Byte) : CtxE :=
  let e := p.2
  let pl := fld e 2 1
  let at' := fld e 4 1
  let mask := fld e 0x21 1
  let qi := fld e 0x22 1 % 2 == 1
  let blk := raw.drop (sec.ofs + fld e 0x28 4)
  let word (i : Nat) : Word := BitVec.ofNat 32 (fld blk (4 * i) 4)
  let n := popc8 mask
  { ofs := p.1, lctx := fld e 0 2 % 1024, train := bits pl 0 3, pos := bits pl 3 3, slot := fld e 3 1 % 16
    db := at' % 2 == 1, world := bits at' 1 1 == 1, home := BitVec.ofNat 2 (bits at' 2 2), template := bits at' 4 1 == 1
    event := bits at' 5 1 == 1, pdepth := fld e 5 1, ebudget := fld e 6 2, entry := BitVec.ofNat 32 (fld e 8 4)
    restart := BitVec.ofNat 32 (fld e 0xC 4), kbase := BitVec.ofNat 32 (fld e 0x10 2), vbase := BitVec.ofNat 32 (fld e 0x12 2)
    dspill := BitVec.ofNat 32 (fld e 0x14 4), rspill := BitVec.ofNat 32 (fld e 0x18 4), evmask := BitVec.ofNat 32 (fld e 0x1C 4)
    evctl := BitVec.ofNat 32 (fld e 0x20 1), evlat := fld e 0x24 4, initMask := BitVec.ofNat 8 mask
    aux := (List.range 8).map (fun i => if mask.testBit i then word (((List.range i).filter (fun j => mask.testBit j)).length) else 0)
    qinit := qi
    q := if qi then (word (n + 2)).extractLsb' 0 8 ++ word (n + 1) ++ word n else 0
    pers := (List.range (fld e 5 1)).map (fun i => word (n + 3 * qi.toNat + i))
    carry := fld e 0x2C 2, groups := BitVec.ofNat 64 (fld e 0x30 8), axgrp := fld e 0x38 2 }

/-- One entry of a slot table (R219); an EVENT entry keeps its wake-set index in `lctx`. -/
def parseSlot (raw : List Byte) (ofs : Nat) : SlotEnt :=
  let x := fld (raw.drop ofs) 0 8
  let kind := bits x 24 2
  { start := bits x 0 24, kind := kind, lctx := if kind = 2 then bits x 32 4 else bits x 32 10, budget := bits x 48 16, ofs := ofs }

/-- SLOTS (R219). -/
def parseTable (sec : Section) (raw : List Byte) (p : Nat × List Byte) : TableE :=
  let pl := fld p.2 0 1
  { ofs := p.1, train := bits pl 0 3, pos := bits pl 3 3, pg := fld p.2 1 1
    entries := (List.range (fld p.2 2 2)).map (fun i => parseSlot raw (sec.ofs + fld p.2 4 4 + 8 * i)) }

/-- WAKESETS (R223). -/
def parseWake (p : Nat × List Byte) : WakeE :=
  { ofs := p.1, members := ((List.range 8).map (fun i => fld p.2 (2 * i) 2)).filter (· ≠ 0xFFFF) }

/-- PERIODS (R218). -/
def parsePeriod (p : Nat × List Byte) : PeriodE :=
  { ofs := p.1, period := fld p.2 0 4, phase := fld p.2 4 4, hostev := fld p.2 8 1 % 2 == 1 }

/-- CERT (R217). -/
def parseCert (p : Nat × List Byte) : CertE :=
  { ofs := p.1, lctx := fld p.2 0 2, d := fld p.2 2 1, r := fld p.2 3 1, beats := fld p.2 4 4, sch := BitVec.ofNat 128 (fld p.2 8 16) }

/-- MACHINE (R216). -/
def parseMach (p : Nat × List Byte) : MachE :=
  let e := p.2
  let pl := fld e 0 1
  { ofs := p.1, train := bits pl 0 3, pos := bits pl 3 3, md := fld e 1 1, mr := fld e 2 1, mhb := fld e 3 1
    mvbase := BitVec.ofNat 32 (fld e 4 2), spillRgn := BitVec.ofNat 32 (fld e 8 4), master := fld e 0xC 4, mlen := fld e 0x10 4
    digest := (e.drop 0x20).take 32 }

/-- ROUTES (R225). -/
def parseRoute (p : Nat × List Byte) : RouteE :=
  let e := p.2
  { ofs := p.1, kind := fld e 0 1, world := fld e 1 1 % 2 == 1, chan := fld e 2 2, trains := fld e 4 1, pg := fld e 5 1
    owner := fld e 6 2, arrive := fld e 8 4, group := fld e 0xC 1 }

/-- Outlets of group `g` among routes: how many safe values it has (R226). -/
def outletCount (rs : List RouteE) (g : Nat) : Nat := (rs.filter (fun r => r.kind == 1 && r.group == g)).length

/-- GROUPS (R226). -/
def parseGroup (sec : Section) (raw : List Byte) (rs : List RouteE) (p : Nat × List Byte) : GroupE :=
  let e := p.2
  let fl := fld e 2 1
  { ofs := p.1, group := fld e 0 1, policy := fld e 1 1, tripguard := fl % 2 == 1, world := bits fl 1 1 == 1
    template := bits fl 2 1 == 1, pg := fld e 3 1, commit := fld e 4 4
    safe := (List.range (outletCount rs (fld e 0 1))).map (fun i =>
      BitVec.ofNat 32 (fld (raw.drop (sec.ofs + fld e 8 4)) (4 * i) 4)) }

/-- CARRY (09 R248). -/
def parseCarry (p : Nat × List Byte) : CarryE :=
  let e := p.2
  { ofs := p.1, lctx := fld e 0 2, train := fld e 2 1, npers := fld e 3 1, offset := fld e 4 4, length := fld e 8 2
    auxmap := BitVec.ofNat 8 (fld e 0xA 1), qmap := fld e 0xB 1 % 2 == 1 }

/-- EVENTS source (R227). -/
def parseSource (p : Nat × List Byte) : SourceE :=
  { ofs := p.1, lctx := fld p.2 0 2, bit := fld p.2 2 1, kind := fld p.2 3 1, index := fld p.2 4 2 }

/-- EVENTS mailbox (R227). -/
def parseMbox (sec : Section) (raw : List Byte) (p : Nat × List Byte) : MboxE :=
  let e := p.2
  { ofs := p.1, train := fld e 0 1, mb := fld e 1 1, appToSafe := fld e 2 1 % 2 == 1, world := bits (fld e 2 1) 1 1 == 1
    receiver := fld e 4 2
    senders := (List.range (fld e 0xC 2)).map (fun i => fld (raw.drop (sec.ofs + fld e 8 4)) (2 * i) 2 % 1024) }

/-- QUEUES (11 R302). -/
def parseQueue (p : Nat × List Byte) : QueueE :=
  { ofs := p.1, train := fld p.2 0 1, qnum := fld p.2 1 1, base := fld p.2 4 4, size := fld p.2 8 4, maxreq := fld p.2 0xC 4 }

/-- FAULTS (12 R329). -/
def parseFault (p : Nat × List Byte) : FaultE :=
  let e := p.2
  match fld e 0 1 with
  | 0 => .severity p.1 (fld e 1 1) (fld e 2 2) (fld e 4 1) (fld e 5 1 % 2 == 1)
  | 1 => .watchdog p.1 (fld e 2 2) (fld e 4 4)
  | _ => .pair p.1 (fld e 1 1) (fld e 2 1) (fld e 4 2)

/-- BRIDGE (13 R347). -/
def parseBridge (p : Nat × List Byte) : BridgeE :=
  let e := p.2
  match fld e 0 1 with
  | 0 => .header p.1 (fld e 4 2) (fld e 6 2)
  | 1 => .member p.1 (fld e 1 1) (bits (fld e 2 1) 1 1 == 1) (fld e 4 2)
  | _ => .map p.1 (fld e 1 1) (fld e 2 1 % 2 == 1) (fld e 3 1) (fld e 4 2) (fld e 6 2) (fld e 8 2) (fld e 0xA 2)

/-- Parses the entries of a section that needs its own bytes. -/
def withSect {α : Type} (raw : List Byte) (dir : List Section) (typ : Nat) (f : Section → List Byte → Nat × List Byte → α) : List α :=
  match sectOf dir typ with
  | some x => (x.array raw 0 x.count (entrySize typ)).map (f x raw)
  | none => []

/-- The mailbox entries of the EVENTS section: image offset and bytes. -/
def mboxArray (raw : List Byte) (dir : List Section) : List (Nat × List Byte) :=
  match sectOf dir 0xB with
  | some x => x.array raw (8 * (x.count % 65536)) (x.count / 65536) 16
  | none => []

/-- The source entries of the EVENTS section. -/
def sourceArray (raw : List Byte) (dir : List Section) : List (Nat × List Byte) :=
  match sectOf dir 0xB with
  | some x => x.array raw 0 (x.count % 65536) 8
  | none => []

/-- The whole image. -/
def parseImage (raw : List Byte) (dir : List Section) : Image :=
  let routes := (entriesOf raw dir 8).map parseRoute
  { hdr := parseHeader raw
    code := withSect raw dir 1 parseCode
    ctxs := withSect raw dir 2 parseCtx
    tables := withSect raw dir 3 parseTable
    wakes := (entriesOf raw dir 4).map parseWake
    periods := (entriesOf raw dir 5).map parsePeriod
    certs := (entriesOf raw dir 6).map parseCert
    machs := (entriesOf raw dir 7).map parseMach
    routes := routes
    groups := withSect raw dir 9 (fun x raw p => parseGroup x raw routes p)
    carries := (entriesOf raw dir 0xA).map parseCarry
    sources := (sourceArray raw dir).map parseSource
    mboxes := match sectOf dir 0xB with
      | some x => (mboxArray raw dir).map (parseMbox x raw)
      | none => []
    queues := (entriesOf raw dir 0xC).map parseQueue
    faults := (entriesOf raw dir 0xD).map parseFault
    bridges := (entriesOf raw dir 0xE).map parseBridge }

/-! ### FORMAT -/

/-- The first of a list of checks that fails: a check is a condition that holds and the refusal otherwise. -/
def firstBad : List (Bool × Rfs) → Option Rfs
  | [] => none
  | (ok, r) :: l => if ok then firstBad l else some r

/-- The header's own fields in ascending offset (R211, R426). -/
def headerBad (raw : List Byte) : Option Rfs :=
  let f (ok : Bool) (ofs : Nat) : Bool × Rfs := (ok, ⟨1, 0xFF, ofs⟩)
  firstBad [
    f (fld raw 0 4 == 0x494D5853) 0, f (fld raw 4 2 == 1) 4, f (decide (1 ≤ fld raw 6 2 ∧ fld raw 6 2 ≤ 32)) 6,
    f (fld raw 8 4 % 8 == 0) 8, f (decide (fld raw 0xF 1 < 8)) 0xF, f (fld raw 0x20 8 % 4096 == 0) 0x20,
    f (decide (fld raw 0x30 1 ≤ 1)) 0x30, f (zeroAt raw 0x31 7) 0x31, f (zeroAt raw 0x3C 4) 0x3C]

/-- Two byte ranges share a byte. -/
def overlap (a n b m : Nat) : Bool := decide (a < b + m ∧ b < a + n)

/-- Directory entry `i` is valid after the entries before it (R211-R213). -/
def dirOk (raw : List Byte) (dir : List Section) (i : Nat) : Bool :=
  match dir[i]? with
  | none => false
  | some x =>
    let e := (raw.drop (0x40 + 16 * i)).take 16
    zeroAt e 2 2 && entrySize x.typ != 0 && (dir.take i).all (fun y => y.typ != x.typ) &&
      x.ofs % 8 == 0 && decide (0x40 + 16 * dir.length ≤ x.ofs) && decide (x.ofs + x.len ≤ raw.length) &&
      decide (x.arrayLen ≤ x.len) && (dir.take i).all (fun y => !overlap x.ofs x.len y.ofs y.len) &&
      (x.typ != 0xFF || (x.count == 1 && x.len == 128 && x.ofs + 128 == raw.length))

/-- The data that an entry points to lies within its section (R212); an offset inside the entry array is admitted (log entry 72). -/
def inside (x : Section) (ofs len : Nat) : Bool := decide (ofs + len ≤ x.len)

/-- Reserved bits of a PLACE byte. -/
def placeOk (e : List Byte) (o : Nat) : Bool := decide (fld e o 1 < 64)

/-- Reserved bits of a CONTEXTS entry, and its initial values inside the section (R215, R426). -/
def ctxFmt (x : Section) (e : List Byte) : Bool :=
  decide (fld e 0 2 < 1024) && placeOk e 2 && decide (fld e 3 1 < 16) && decide (fld e 4 1 < 64) && fld e 0x12 2 &&& 0x7E == 0 &&
    fld e 0x14 4 &&& 0xE000E000 == 0 && fld e 0x18 4 &&& 0xE000E000 == 0 && decide (fld e 0x20 1 < 2) && decide (fld e 0x22 1 < 2) &&
    zeroAt e 0x23 1 && zeroAt e 0x2E 2 && zeroAt e 0x3A 6 && inside x (fld e 0x28 4) (4 * initWords e)

/-- A SLOTS header, with its entries inside the section (R219). -/
def tableFmt (x : Section) (e : List Byte) : Bool :=
  let n := fld e 2 2
  placeOk e 0 && decide (1 ≤ n ∧ n ≤ 256) && zeroAt e 8 8 && inside x (fld e 4 4) (8 * n)

/-- Reserved bits of a slot entry (R219). -/
def slotFmt (v : Nat) : Bool := bits v 26 6 == 0 && bits v 42 6 == 0 && (bits v 24 2 != 2 || bits v 36 6 == 0)

/-- Offset of the first of `n` elements of `size` bytes from `o` whose value is not well formed. -/
def elemBad (raw : List Byte) (o size n : Nat) (ok : Nat → Bool) : Option Nat :=
  ((List.range n).find? (fun i => !ok (fld (raw.drop (o + size * i)) 0 size))).map (fun i => o + size * i)

/-- Fields that a route's kind does not use are zero (R225, 10 R262). -/
def routeFmt (e : List Byte) : Bool :=
  decide (fld e 0 1 ≤ 3) && decide (fld e 1 1 < 2) && zeroAt e 0xD 3 &&
  match fld e 0 1 with
  | 0 => zeroAt e 6 2 && zeroAt e 0xC 1
  | 1 => zeroAt e 4 2 && zeroAt e 8 4
  | 2 => zeroAt e 4 2 && zeroAt e 8 4 && zeroAt e 0xC 1
  | _ => zeroAt e 1 1 && decide (fld e 4 1 < 16) && zeroAt e 6 2

/-- Reserved bits of a CARRY entry (09 R248). -/
def carryFmt (e : List Byte) : Bool :=
  zeroAt e 0xC 4 && decide (fld e 0xB 1 < 2) && (fld e 0 2 != 0xFFFF || (zeroAt e 3 1 && zeroAt e 0xA 2))

/-- Reserved bits of a FAULTS entry (12 R329). -/
def faultFmt (e : List Byte) : Bool :=
  match fld e 0 1 with
  | 0 => decide (fld e 5 1 < 2) && zeroAt e 6 2
  | 1 => zeroAt e 1 1
  | 2 => zeroAt e 3 1 && zeroAt e 6 2
  | _ => false

/-- Reserved bits of a BRIDGE entry (13 R347). -/
def bridgeFmt (e : List Byte) : Bool :=
  match fld e 0 1 with
  | 0 => zeroAt e 1 3 && zeroAt e 8 8
  | 1 => zeroAt e 3 1 && zeroAt e 6 10 && decide (fld e 2 1 &&& 0xFD = 0)
  | 2 => zeroAt e 0xC 4 && decide (fld e 2 1 < 2)
  | _ => false

/-- A MACHINE entry's reserved bits (R216, R426). -/
def machFmt (e : List Byte) : Bool :=
  placeOk e 0 && fld e 4 2 &&& 0x7E == 0 && zeroAt e 6 2 && fld e 8 4 &&& 0xC000E000 == 0 && zeroAt e 0x14 12

/-- One entry of a section is well formed. -/
def entryFmt (x : Section) (routes : List RouteE) (e : List Byte) : Bool :=
  match x.typ with
  | 1 => decide (fld e 0 1 < 128) && zeroAt e 1 3 && (bits (fld e 0 1) 6 1 == 0 || bits (fld e 0 1) 3 3 == 0) &&
      inside x (fld e 12 4) (fld e 8 4)
  | 2 => ctxFmt x e
  | 3 => tableFmt x e
  | 5 => decide (fld e 8 1 < 2) && zeroAt e 9 7
  | 6 => zeroAt e 24 8
  | 7 => machFmt e
  | 8 => routeFmt e
  | 9 => decide (fld e 1 1 ≤ 1) && decide (fld e 2 1 < 8) && zeroAt e 12 4 &&
      inside x (fld e 8 4) (4 * outletCount routes (fld e 0 1))
  | 0xA => carryFmt e
  | 0xB => zeroAt e 6 2
  | 0xC => zeroAt e 2 2
  | 0xD => faultFmt e
  | 0xE => bridgeFmt e
  | _ => true

/-- A mailbox entry is well formed, with its senders inside the section (R227). -/
def mboxFmt (x : Section) (e : List Byte) : Bool :=
  decide (fld e 2 1 < 4) && zeroAt e 3 1 && zeroAt e 6 2 && zeroAt e 0xE 2 && inside x (fld e 8 4) (2 * fld e 0xC 2)

/-- Two entries that FORMAT bars: MACHINE entries of one position, queues of one TRAIN and QNUM (R234). -/
def dupKey (typ : Nat) (e : List Byte) : Option Nat :=
  match typ with
  | 7 => some (fld e 0 1)
  | 0xC => some (fld e 0 2)
  | _ => none

/-- Where an entry of a section is not well formed: itself, or the slot entry or sender entry that it locates (R232). -/
def entryAt (x : Section) (raw : List Byte) (routes : List RouteE) (p : Nat × List Byte) : Option Nat :=
  if !entryFmt x routes p.2 then some p.1
  else if x.typ = 3 then elemBad raw (x.ofs + fld p.2 4 4) 8 (fld p.2 2 2) slotFmt
  else none

/-- Where a mailbox entry is not well formed. -/
def mboxEntryAt (x : Section) (raw : List Byte) (p : Nat × List Byte) : Option Nat :=
  if !mboxFmt x p.2 then some p.1 else elemBad raw (x.ofs + fld p.2 8 4) 2 (fld p.2 0xC 2) (fun v => decide (v < 1024))

/-- The first entry of a section that FORMAT refuses. -/
def sectBad (raw : List Byte) (dir : List Section) (routes : List RouteE) (i : Nat) (x : Section) : Option Rfs :=
  let n := if x.typ = 0xB then x.count % 65536 else x.count
  let l := x.array raw 0 n (entrySize x.typ)
  let own := l.zipIdx.findSome? (fun p =>
    if (dupKey x.typ p.1.2).isSome && (l.take p.2).any (fun q => dupKey x.typ q.2 == dupKey x.typ p.1.2) then some p.1.1
    else entryAt x raw routes p.1)
  let mb := if x.typ = 0xB then (mboxArray raw dir).findSome? (mboxEntryAt x raw) else none
  (own.or mb).map (fun ofs => ⟨1, i, ofs⟩)

/-- A required section is missing (R213). -/
def imageMissing (img : Image) (dir : List Section) : Bool :=
  let has (t : Nat) : Bool := (sectOf dir t).isSome
  let req := [1, 2, 3, 5, 7, 8, 9].all has
  let wake := has 4 || !(img.tables.any (fun t => t.entries.any (fun e => e.kind == 2)))
  let cert := has 6 || !(img.ctxs.any (fun c => c.db))
  let tag := has 0xFF || img.hdr.tagKind == 0
  !(req && wake && cert && tag)

/-- The trains that the image's entries name (R426). -/
def namedTrains (img : Image) : List Nat :=
  (img.code.map (·.train)) ++ (img.ctxs.map (·.train)) ++ (img.tables.map (·.train)) ++ (img.machs.map (·.train)) ++
    (img.routes.filter (fun r => r.kind == 0)).flatMap (fun r => (List.range 8).filter (fun t => r.trains.testBit t)) ++
    (img.queues.map (·.train)) ++ (img.carries.map (·.train)) ++ (img.mboxes.map (·.train))

/-- The image's FORMAT checks in reading order: header, directory, entries, missing sections, TRAINS. -/
def formatBad (raw : List Byte) (dir : List Section) (img : Image) : Option Rfs :=
  match headerBad raw with
  | some r => some r
  | none =>
    match (List.range dir.length).find? (fun i => !dirOk raw dir i) with
    | some i => some ⟨1, i, 0x40 + 16 * i⟩
    | none =>
      match (dir.zipIdx).findSome? (fun p => sectBad raw dir img.routes p.2 p.1) with
      | some r => some r
      | none =>
        if imageMissing img dir then some ⟨1, 0xFF, 0x40⟩
        else if (List.range 8).all (fun t => img.hdr.trains.testBit t == (namedTrains img).contains t) then none
        else some ⟨1, 0xFF, 0xD⟩

/-- Bytes 0 to IMG_LEN − 1 that the CRC covers: the TAG section left out and the CRC field zero (R211). -/
def crcBytes (raw : List Byte) (dir : List Section) : List Byte :=
  let l := raw.take 0x38 ++ [0, 0, 0, 0] ++ raw.drop 0x3C
  match sectOf dir 0xFF with
  | some x => l.take x.ofs ++ l.drop (x.ofs + x.len)
  | none => l

end Sys2Proof.Machine
end

