-- ==== Sys2Proof/Machine/Admit.lean ====
section
/-! DEFINITION. The admission checks of R229 but for tables and coexistence (spec 08 R229-R234, R426, R428, 03 R70, R71, R87,
07 R192-R196, R205, R209, 09 R250, 10 R262, 12 R329, R332). Each answers the first entry it refuses. -/

namespace Sys2Proof.Machine

/-- The first refusal of a list of checks, later ones not run. -/
def firstSome {α : Type} : List (Unit → Option α) → Option α
  | [] => none
  | f :: l => match f () with | some r => some r | none => firstSome l

/-- Where a refused entry lies: its section type and offset. -/
abbrev Bad := Option (Nat × Nat × Nat)

/-- Refuses entries of a section type with a code, at the first that is not in order. -/
def refuse {α : Type} (code typ : Nat) (ofs : α → Nat) (l : List α) (ok : α → Bool) : Bad :=
  (l.find? (fun x => !ok x)).map (fun x => (code, typ, ofs x))

/-- As `refuse`, with the entries before each one. -/
def refuseSeen {α : Type} (code typ : Nat) (ofs : α → Nat) (l : List α) (ok : List α → α → Bool) : Bad :=
  (l.zipIdx.find? (fun p => !ok (l.take p.2) p.1)).map (fun p => (code, typ, ofs p.1))

/-! ### VARIANT (R6, R426) -/

/-- Header fields that name what the variant lacks; the pointer is into the header (section code 0xFF). -/
def headerVariant (v : Variant) (h : Header) : Bad :=
  if decide (h.trains ≥ 2 ^ v.trains) then some (6, 0x1FF, 0xD)
  else if decide ((v.feat 0).toNat % 256 < h.isaVer) then some (6, 0x1FF, 0xE)
  else if h.flags % 8 != 0 && !v.optional then some (6, 0x1FF, 0xF)
  else none

/-- A fault window of a present unit, or no window at all. -/
def winPresent (v : Variant) (w : Nat) : Bool :=
  if w < 72 then decide (w / 9 < v.trains) else if w < 80 then decide (w - 72 < v.trains) else w != 86 || v.optional

/-- Entries that name an absent train or unit. -/
def entryVariant (v : Variant) (i : Image) : Bad :=
  firstSome [
    fun _ => refuse 6 0xC QueueE.ofs i.queues (fun q => decide (q.train < v.trains)),
    fun _ => refuse 6 0xA CarryE.ofs i.carries (fun c => decide (c.train < v.trains)),
    fun _ => refuse 6 0xB MboxE.ofs i.mboxes (fun m => decide (m.train < v.trains)),
    fun _ => i.faults.findSome? (fun f => match f with
      | .severity ofs _ w _ _ => if winPresent v w then none else some (6, 0xD, ofs)
      | _ => none)]

/-! ### Positions (R229) -/

/-- The position has a MACHINE entry. -/
def hasMach (i : Image) (t p : Nat) : Bool := (i.mach t p).isSome

/-- Every position that code, contexts or tables name has a MACHINE entry. -/
def positionsBad (i : Image) : Bad :=
  firstSome [
    fun _ => refuse 8 1 CodeE.ofs i.code (fun c => c.tm || hasMach i c.train c.pos),
    fun _ => refuse 8 2 CtxE.ofs i.ctxs (fun c => hasMach i c.train c.pos),
    fun _ => refuse 8 3 TableE.ofs i.tables (fun t => hasMach i t.train t.pos)]

/-- The spill region of a word: first byte and one past the last (03 R71). -/
def rgnOfWord (w : Word) : Option (Nat × Nat) :=
  if w.getLsbD 29 then some (8 * (w.extractLsb' 0 13).toNat, 8 * ((w.extractLsb' 16 13).toNat + 1)) else none

/-- `n` bytes from `a` meet the region. -/
def meets (r : Option (Nat × Nat)) (a n : Nat) : Bool :=
  match r with
  | some (lo, hi) => decide (a < hi ∧ lo < a + n)
  | none => false

/-- A vector table with EN = 1 lies outside the region (07 R196). -/
def tableFree (v : Word) (r : Option (Nat × Nat)) : Bool := !meets r (v &&& 0xFF80).toNat 128

/-- SPILL_RGN is valid: EN with LO_W at most HI_W, or no EN and no spill area on the position (03 R71). -/
def rgnValid (i : Image) (m : MachE) : Bool :=
  match rgnOfWord m.spillRgn with
  | some (lo, hi) => decide (lo < hi)
  | none => i.ctxs.all (fun c => c.train != m.train || c.pos != m.pos || (c.dspill.extractLsb' 16 13 == 0 && c.rspill.extractLsb' 16 13 == 0))

/-- One MACHINE entry: PLACEMENT, SPILL, MEMORY. -/
def machBad (i : Image) (m : MachE) : Bad :=
  let r := rgnOfWord m.spillRgn
  if !(m.mvbase.getLsbD 0 && tableFree m.mvbase r) then some (8, 7, m.ofs)
  else if !rgnValid i m then some (9, 7, m.ofs)
  else if m.master % 4096 != 0 || decide (65536 < m.mlen) then some (0x17, 7, m.ofs)
  else none

/-! ### Contexts (R229, R234) -/

/-- CONTEXT checks against the contexts before it. -/
def ctxOk (v : Variant) (seen : List CtxE) (c : CtxE) : Bool :=
  decide (c.lctx < v.lctxs) &&
    seen.all (fun d => d.lctx != c.lctx && !(d.train == c.train && d.pos == c.pos && d.slot == c.slot)) &&
    (c.home == 0 || c.home == 1) && (c.db || c.pdepth == 0) && (c.event || c.ebudget == 0)

/-- Bytes of the pool that LDK can reach (03 R70). -/
def poolLen (kb : Nat) : Nat := Min.min 1024 (0x10000 - kb)

/-- Addresses that a mode may fetch (02 R37). -/
def entryOk (db : Bool) (a : Word) : Bool := fetchable db a.toNat && decide (a.toNat % 2 = 0)

/-- PLACEMENT checks of a context. -/
def ctxPlace (r : Option (Nat × Nat)) (c : CtxE) : Bool :=
  entryOk c.db c.entry && (c.db || entryOk c.db c.restart) && c.kbase.toNat % 8 == 0 && !meets r c.kbase.toNat 1 &&
    (!c.vbase.getLsbD 0 || tableFree c.vbase r)

/-- A spill area in bytes: base and length (03 R83). -/
def spillArea (w : Word) : Nat × Nat := (8 * (w.extractLsb' 0 13).toNat, 8 * (w.extractLsb' 16 13).toNat)

/-- The spill areas of contexts on one position. -/
def areasOn (l : List CtxE) (t p : Nat) : List (Nat × Nat) :=
  (l.filter (fun c => c.train == t && c.pos == p)).flatMap (fun c => [spillArea c.dspill, spillArea c.rspill])

/-- SPILL checks of a context: areas inside the region and disjoint, the pool outside the region (03 R70). -/
def ctxSpill (r : Option (Nat × Nat)) (seen : List CtxE) (c : CtxE) : Bool :=
  let ds := spillArea c.dspill
  let rs := spillArea c.rspill
  let isIn (a : Nat × Nat) : Bool := a.2 == 0 || (match r with | some (lo, hi) => decide (lo ≤ a.1 ∧ a.1 + a.2 ≤ hi) | none => false)
  let apart (a b : Nat × Nat) : Bool := a.2 == 0 || b.2 == 0 || !overlap a.1 a.2 b.1 b.2
  isIn ds && isIn rs && apart ds rs && (areasOn seen c.train c.pos).all (fun a => apart a ds && apart a rs) &&
    !meets r c.kbase.toNat (poolLen c.kbase.toNat)

/-- The spill region of a position. -/
def Image.rgn (i : Image) (t p : Nat) : Option (Nat × Nat) := (i.mach t p).bind (fun m => rgnOfWord m.spillRgn)

/-- A CODE entry of a position's local store lies outside its spill region (03 R70). -/
def codeFree (t p : Nat) (r : Option (Nat × Nat)) (x : CodeE) : Bool :=
  x.tm || x.train != t || x.pos != p || !meets r x.addr x.bytes.length

/-- The checks of one context in the order of R229, code in its spill region among them. -/
def ctxBad (v : Variant) (i : Image) (seen : List CtxE) (c : CtxE) : Bad :=
  let r := i.rgn c.train c.pos
  if !ctxOk v seen c then some (7, 2, c.ofs)
  else if !ctxPlace r c then some (8, 2, c.ofs)
  else if !ctxSpill r seen c then some (9, 2, c.ofs)
  else refuse 9 1 CodeE.ofs i.code (codeFree c.train c.pos r)

/-- Every context in turn, then code inside the spill region of a position without contexts (03 R70). -/
def contextsBad (v : Variant) (i : Image) : Bad :=
  firstSome [
    fun _ => (i.ctxs.zipIdx).findSome? (fun p => ctxBad v i (i.ctxs.take p.2) p.1),
    fun _ => refuse 9 1 CodeE.ofs i.code (fun x => codeFree x.train x.pos (i.rgn x.train x.pos) x)]

/-! ### Machine code, certificates, depths (R229) -/

/-- Overwrites bytes of a list from an index, within its length. -/
def patch (l : List Byte) (o : Nat) (b : List Byte) : List Byte :=
  if l.length ≤ o then l else l.take o ++ b.take (l.length - o) ++ l.drop (o + b.length)

/-- The first `n` bytes of a position's local store as CODE builds them (R216). -/
def Image.lsImage (i : Image) (t p n : Nat) : List Byte :=
  (i.code.filter (fun c => !c.tm && c.train == t && c.pos == p)).foldl (fun l c => patch l c.addr c.bytes) (List.replicate n 0)

/-- MHB, DIGEST, Machine depths of one position. -/
def codeBad (i : Image) (m : MachE) : Bad :=
  if decide (64 < m.mhb) then some (0xC, 7, m.ofs)
  else if sha256 (i.lsImage m.train m.pos m.mlen) != m.digest then some (0xA, 7, m.ofs)
  else if decide (32 < m.md ∨ 16 < m.mr) then some (0xB, 7, m.ofs)
  else none

/-- The certificate of a context. -/
def Image.cert (i : Image) (lctx : Nat) : Option CertE := i.certs.find? (fun c => c.lctx == lctx)

/-- CERT and DEPTH of a deadbeat context (03 R87). -/
def depthBad (i : Image) (c : CtxE) : Bad :=
  if !c.db then none
  else match i.cert c.lctx with
    | none => some (0xA, 2, c.ofs)
    | some e =>
      if !decide (c.pdepth ≤ e.d ∧ e.d ≤ 32 ∧ e.r ≤ 16) then some (0xB, 6, e.ofs)
      else if (spillArea c.dspill).2 == 0 && (spillArea c.rspill).2 == 0 then none
      else some (0xB, 2, c.ofs)

/-- Every check between the contexts and the generators. -/
def certsBad (i : Image) : Bad :=
  firstSome [
    fun _ => i.machs.findSome? (codeBad i),
    fun _ => refuseSeen 0xA 6 CertE.ofs i.certs (fun seen c => seen.all (fun d => d.lctx != c.lctx)),
    fun _ => i.ctxs.findSome? (depthBad i)]

/-! ### Generators and groups named (R218, R226) -/

/-- A valid PERIODS entry. -/
def periodOk (p : PeriodE) : Bool := p.period % 8 == 0 && decide (400 ≤ p.period ∧ p.period ≤ 2 ^ 24 ∧ p.phase < p.period)

/-- PERIOD, then GROUP of the contexts' groups and commit offsets. -/
def generatorsBad (i : Image) : Bad :=
  let n := i.periods.length
  firstSome [
    fun _ => refuseSeen 0xD 5 PeriodE.ofs i.periods (fun seen p => decide (seen.length < 16) && periodOk p),
    fun _ => refuse 0xD 3 TableE.ofs i.tables (fun t => decide (t.pg < n)),
    fun _ => refuse 0xD 9 GroupE.ofs i.groups (fun g => decide (g.pg < n)),
    fun _ => refuse 0xD 8 RouteE.ofs i.routes (fun r => !(r.kind == 0 || r.kind == 3) || decide (r.pg < n)),
    fun _ => refuse 0x15 2 CtxE.ofs i.ctxs (fun c =>
      (List.range 64).all (fun g => !c.groups.getLsbD g || i.groups.any (fun x => x.group == g))),
    fun _ => refuse 0x15 9 GroupE.ofs i.groups (fun g => decide (g.commit < (i.period g.pg).period))]

/-! ### Routes (10 R262) -/

/-- The context of an image. -/
def Image.ctxOf (i : Image) (lctx : Nat) : Option CtxE := i.ctxs.find? (fun c => c.lctx == lctx)

/-- One route, given those before it. -/
def routeOk (i : Image) (seen : List RouteE) (r : RouteE) : Bool :=
  let once := seen.all (fun q => !(q.kind == r.kind && q.chan == r.chan))
  match r.kind with
  | 0 => decide (r.chan < 128) && r.trains != 0 && once && decide (r.arrive < (i.period r.pg).period)
  | 1 => decide (r.chan < 320) && (i.ctxOf r.owner).isSome && once
  | 2 => decide (r.chan < 64) && (i.ctxOf r.owner).isSome && once
  | _ => decide (r.chan < 64) && i.groups.any (fun g => g.group == r.group) &&
      seen.all (fun q => !(q.kind == 3 && q.chan == r.chan) || (q.trains == r.trains && q.pg == r.pg && q.arrive == r.arrive))

/-- ROUTE. -/
def routesBad (i : Image) : Bad := refuseSeen 0x13 8 RouteE.ofs i.routes (routeOk i)

/-! ### Worlds (07 R192, R194) -/

/-- World of an entry's context. -/
def Image.worldOf (i : Image) (lctx : Nat) : Option Bool := (i.ctxOf lctx).map (·.world)

/-- The group entry of an index. -/
def Image.groupOf (i : Image) (g : Nat) : Option GroupE := i.groups.find? (fun x => x.group == g)

/-- WORLD in the single-world arrangement: every world bit is 0. -/
def singleBad (i : Image) : Bad :=
  firstSome [
    fun _ => refuse 0x14 2 CtxE.ofs i.ctxs (fun c => !c.world),
    fun _ => refuse 0x14 8 RouteE.ofs i.routes (fun r => !r.world),
    fun _ => refuse 0x14 9 GroupE.ofs i.groups (fun g => !g.world),
    fun _ => refuse 0x14 0xB MboxE.ofs i.mboxes (fun m => !m.world && !m.appToSafe)]

/-- WORLD in the dual-world arrangement. -/
def dualBad (i : Image) : Bad :=
  let sameOwner (r : RouteE) : Bool := match i.worldOf r.owner with | some w => w == r.world | none => true
  let sameGroup (w : Bool) (g : Nat) : Bool := match i.groupOf g with | some x => x.world == w | none => true
  let sender (m : MboxE) (l : Nat) : Bool := match i.worldOf l with | some w => m.appToSafe || w == m.world | none => true
  firstSome [
    fun _ => refuse 0x14 2 CtxE.ofs i.ctxs (fun c => (List.range 64).all (fun g => !c.groups.getLsbD g || sameGroup c.world g)),
    fun _ => refuse 0x14 8 RouteE.ofs i.routes (fun r =>
      (r.kind != 1 || (sameOwner r && sameGroup r.world r.group)) && (r.kind != 2 || sameOwner r)),
    fun _ => refuse 0x14 0xB MboxE.ofs i.mboxes (fun m => m.senders.all (sender m) &&
      (!m.appToSafe || (m.world && i.worldOf m.receiver != some false)))]

/-- WORLD. -/
def worldsBad (i : Image) : Bad := if i.hdr.flags % 2 = 1 then dualBad i else singleBad i

/-! ### Groups (R231) -/

/-- The contributors of a group. -/
def Image.contribs (i : Image) (g : Nat) : List CtxE := i.ctxs.filter (fun c => c.groups.getLsbD g)

/-- One group entry, given those before it. -/
def groupOk (i : Image) (seen : List GroupE) (x : GroupE) : Bool :=
  let l := i.contribs x.group
  decide (x.group < 64) && seen.all (fun y => y.group != x.group) && l != [] && (i.outletsOf x.group == [] || l.all (·.db)) &&
    (l.all (·.template) || l.all (fun c => !c.template)) && x.template == l.all (·.template)

/-- An axis group is wholly at one level (01 R19): the context agrees with those before it. -/
def axisOk (seen : List CtxE) (c : CtxE) : Bool := c.axgrp == 0xFFFF || seen.all (fun d => d.axgrp != c.axgrp || d.template == c.template)

/-- GROUP. -/
def groupsBad (i : Image) : Bad :=
  let owner (r : RouteE) : Bool := r.kind != 1 || ((i.groupOf r.group).isSome &&
    (match i.ctxOf r.owner with | some c => c.groups.getLsbD r.group | none => false))
  firstSome [
    fun _ => refuseSeen 0x15 9 GroupE.ofs i.groups (groupOk i),
    fun _ => refuse 0x15 8 RouteE.ofs i.routes owner,
    fun _ => refuseSeen 0x15 2 CtxE.ofs i.ctxs axisOk]

/-! ### Mailboxes and event sources (R227) -/

/-- The mailbox that an index names. -/
def Image.mboxOf (i : Image) (n : Nat) : Option MboxE := i.mboxes.find? (fun m => 32 * m.train + m.mb == n)

/-- One source entry, given those before it. -/
def sourceOk (i : Image) (seen : List SourceE) (x : SourceE) : Bool :=
  let idx := match x.kind with
    | 0 => decide (x.index < i.periods.length)
    | 1 => (match i.mboxOf x.index with | some m => m.receiver == x.lctx | none => false) &&
        seen.all (fun y => !(y.kind == 1 && y.index == x.index))
    | 4 => decide (x.index < 64)
    | n => decide (n ≤ 5) && decide (x.index < 32)
  (i.ctxOf x.lctx).isSome && decide (x.bit < 32) && idx && seen.all (fun y => !(y.lctx == x.lctx && y.bit == x.bit))

/-- One mailbox entry, given those before it. -/
def mboxOk (i : Image) (seen : List MboxE) (m : MboxE) : Bool :=
  decide (m.mb < 32) && (i.ctxOf m.receiver).isSome && m.senders.all (fun l => (i.ctxOf l).isSome) &&
    seen.all (fun y => !(y.train == m.train && y.mb == m.mb))

/-- MAILBOX. -/
def mailboxesBad (i : Image) : Bad :=
  firstSome [
    fun _ => refuseSeen 0x16 0xB MboxE.ofs i.mboxes (mboxOk i),
    fun _ => refuseSeen 0x16 0xB SourceE.ofs i.sources (sourceOk i)]

/-! ### Areas, queues, carried state (R229, 11 R428, 09 R250) -/

/-- An area of train memory with the entry that declares it: train, first byte, length, section type, offset. -/
structure AreaE where
  train : Nat
  lo : Nat
  len : Nat
  typ : Nat
  ofs : Nat
  deriving DecidableEq, Repr

/-- Every area of an image (R229). -/
def Image.areas (i : Image) : List AreaE :=
  (i.machs.map (fun m => ⟨m.train, m.master, m.mlen, 7, m.ofs⟩)) ++
    ((i.code.filter (·.tm)).map (fun c => ⟨c.train, c.addr, c.bytes.length, 1, c.ofs⟩)) ++
    (i.queues.map (fun q => ⟨q.train, q.base, 32 + q.size, 0xC, q.ofs⟩)) ++
    (i.carries.filter (fun c => c.lctx == 0xFFFF)).flatMap (fun c =>
      [⟨c.train, c.offset, 8 * c.length, 0xA, c.ofs⟩, ⟨c.train, c.offset + 8 * c.length, 8 * c.length, 0xA, c.ofs⟩])

/-- Two areas share a byte. -/
def AreaE.hit (a b : AreaE) : Bool := a.train == b.train && a.len != 0 && b.len != 0 && overlap a.lo a.len b.lo b.len

/-- MEMORY: areas disjoint and inside 2 MiB, code inside local store and not overlapping. -/
def memoryBad (i : Image) : Bad :=
  let l := i.areas
  firstSome [
    fun _ => (l.zipIdx.find? (fun p => decide (0x200000 < p.1.lo + p.1.len) || (l.take p.2).any (fun a => a.hit p.1))).map
      (fun p => (0x17, p.1.typ, p.1.ofs)),
    fun _ => refuseSeen 0x17 1 CodeE.ofs i.code (fun seen c => c.tm || (decide (c.addr + c.bytes.length ≤ 0x10000) &&
      seen.all (fun d => d.tm || d.train != c.train || d.pos != c.pos || d.bytes == [] || c.bytes == [] ||
        !overlap d.addr d.bytes.length c.addr c.bytes.length)))]

/-- QUEUE (11 R428). -/
def queuesBad (i : Image) : Bad :=
  refuse 0x18 0xC QueueE.ofs i.queues (fun q => decide (q.qnum < 16) && q.base % 32 == 0 && q.size % 32 == 0 &&
    decide (64 ≤ q.size ∧ q.size ≤ 1048576) && q.maxreq % 32 == 0 && decide (32 ≤ q.maxreq ∧ q.maxreq ≤ q.size))

/-- One CARRY entry, given those before it (09 R250). -/
def carryOk (i : Image) (seen : List CarryE) (x : CarryE) : Bool :=
  if x.lctx = 0xFFFF then
    x.offset % 4096 == 0 && decide (1 ≤ x.length ∧ x.length ≤ 8192) && seen.all (fun y => !(y.lctx == 0xFFFF && y.train == x.train))
  else
    match i.ctxOf x.lctx, i.area x.train with
    | some c, some (_, size) =>
      c.train == x.train && c.groups != 0 && decide (x.npers ≤ c.pdepth) && i.carries[c.carry]? == some x &&
        x.offset % 8 == 0 && decide (x.offset + 8 * x.length ≤ 8 * size) &&
        decide (2 + x.npers + popc8 x.auxmap.toNat + 3 * x.qmap.toNat ≤ 2 * x.length) &&
        seen.all (fun y => y.lctx == 0xFFFF || (y.lctx != x.lctx &&
          !(y.train == x.train && overlap y.offset (8 * y.length) x.offset (8 * x.length))))
    | _, _ => false

/-- CARRY: the entries, then contexts whose index names no block entry of theirs. -/
def carriesBad (i : Image) : Bad :=
  firstSome [
    fun _ => refuseSeen 0x19 0xA CarryE.ofs i.carries (carryOk i),
    fun _ => refuse 0x19 2 CtxE.ofs i.ctxs (fun c => c.carry == 0xFFFF || (i.carries[c.carry]?).any (fun x => x.lctx == c.lctx))]

/-! ### Fault entries (12 R329, R332) -/

/-- Offset of a FAULTS entry. -/
def FaultE.ofs : FaultE → Nat
  | .severity o _ _ _ _ => o
  | .watchdog o _ _ => o
  | .pair o _ _ _ => o

/-- A pair that R332 admits. -/
def pairAdmits (i : Image) (g ck : Nat) : Bool :=
  match i.ctxOf ck, i.groupOf g with
  | some k, some x =>
    i.hdr.flags % 2 == 1 && k.db && k.groups.getLsbD g && k.world && x.world && i.outletsOf g != [] &&
      (i.routes.filter (fun r => r.kind == 1 && r.group == g)).all (fun r =>
        match i.ctxOf r.owner with | some c => c.train != k.train | none => true) &&
      i.routes.all (fun r => !(r.kind == 1 && r.owner == ck))
  | _, _ => false

/-- One FAULTS entry, given those before it. -/
def faultOk (i : Image) (seen : List FaultE) (f : FaultE) : Bool :=
  match f with
  | .severity _ src w sev en =>
    (match srcInfo w src with
     | some x => x.allows sev && (en || !x.fixedSafe)
     | none => false) &&
      seen.all (fun g => match g with | .severity _ s2 w2 _ _ => !(s2 == src && w2 == w) | _ => true)
  | .watchdog _ l n =>
    (i.ctxOf l).isSome && decide (400 ≤ n ∧ n ≤ 2 ^ 31) &&
      seen.all (fun g => match g with | .watchdog _ l2 _ => l2 != l | _ => true)
  | .pair _ g _ ck => pairAdmits i g ck

/-- FAULTS. -/
def faultsBad (i : Image) : Bad := refuseSeen 0x1A 0xD FaultE.ofs i.faults (faultOk i)

/-! ### PACE -/

/-- PACE (R211). -/
def paceBad (h : Header) : Bad :=
  if !decide (300 ≤ h.paceFloor ∧ h.paceFloor ≤ 620) then some (0x1E, 0x1FF, 0x1C)
  else if !decide (50 ≤ h.margin ∧ h.margin ≤ 500) then some (0x1E, 0x1FF, 0x1E)
  else none

end Sys2Proof.Machine
end

