-- ==== Sys2Proof/Machine/Tables.lean ====
section
/-! DEFINITION. check_tables of admission, for one image or for the merged table of two (spec 08 R219-R224, R230, 13 R349). -/

namespace Sys2Proof.Machine

/-- A table under check: its cycle and phase, the larger MHB's stop lead and bound, and its entries with their images' side. -/
structure Tbl where
  period : Nat
  phase : Nat
  sl : Nat
  mhb : Nat
  ents : List (Bool × SlotEnt)
  deriving DecidableEq, Repr

/-- Ticks from offset `a` forward to offset `b` of a cycle, 1 to P. -/
def fwd (p a b : Nat) : Nat := (b + p - 1 - a % p) % p + 1

/-- Least value of a list, with a default. -/
def least (d : Nat) (l : List Nat) : Nat := l.foldl Min.min d

/-- Ticks from START `s` to the next entry of another START that satisfies a condition, at most a cycle. -/
def Tbl.next (t : Tbl) (s : Nat) (f : Bool × SlotEnt → Bool) : Nat :=
  least t.period ((t.ents.filter (fun x => x.2.start != s && f x)).map (fun x => fwd t.period s x.2.start))

/-- Ticks since the latest tick of a residue class at or before tick `a`. -/
def back (a p c : Nat) : Nat := (a + p - c % p) % p

/-! ### SLOT (R230) -/

/-- Entry `e` of a side is in order by itself; a wake set that it names is of its own position (R223; log entry 64). -/
def slotOk (i : Image) (t : Tbl) (train pos : Nat) (e : SlotEnt) : Bool :=
  decide (e.start < t.period) &&
  match e.kind with
  | 0 => (match i.ctxOf e.lctx with | some c => c.train == train && c.pos == pos && c.db | none => false)
  | 1 => (match i.ctxOf e.lctx with | some c => c.train == train && c.pos == pos && !c.db | none => false)
  | 2 => (match i.wakes[e.lctx]? with
      | some w => w.members.all (fun l => (i.ctxOf l).any (fun c => c.train == train && c.pos == pos))
      | none => false) && e.budget == 0
  | _ => false

/-! ### DEADBEAT entries (R230) -/

/-- Exactly one commit tick of group `g` in (START(x), START(y)], far enough from START(x), in every alignment of the two
cycles. -/
def deadlineOk (i : Image) (t : Tbl) (x : SlotEnt) (span : Nat) (g : GroupE) : Bool :=
  let p := i.period g.pg
  (List.range (p.period / Nat.gcd t.period p.period)).all (fun j =>
    let a := t.phase + x.start + j * t.period
    let d := p.period - back a p.period (p.phase + g.commit)
    decide (d ≤ span ∧ span < d + p.period ∧ i.hdr.tickNeed x.budget ≤ d))

/-- An arrival of the channel lies after the last commit tick of the group before START(x), in every alignment. -/
def sampleOk (i : Image) (t : Tbl) (x : SlotEnt) (g : GroupE) (r : RouteE) : Bool :=
  let p := i.period g.pg
  let q := i.period r.pg
  (List.range (Nat.lcm t.period (Nat.lcm p.period q.period) / t.period)).all (fun j =>
    let a := t.phase + x.start + j * t.period
    let b := back a p.period (p.phase + g.commit)
    decide (back a q.period (q.phase + r.arrive) < if b = 0 then p.period else b))

/-- The channels that a certificate reads all have arrivals in the window. -/
def samplesOk (i : Image) (t : Tbl) (x : SlotEnt) (c : CtxE) : Bool :=
  match c.lowGroup.bind i.groupOf, i.cert c.lctx with
  | some g, some e => (List.range 128).all (fun n => !e.sch.getLsbD n ||
      (match i.routes.find? (fun r => r.kind == 0 && r.chan == n) with
       | some r => r.trains.testBit c.train && sampleOk i t x g r
       | none => false))
  | _, _ => true

/-- One DEADBEAT entry of a side. -/
def deadbeatBad (i : Image) (t : Tbl) (gen : Bool) (x : SlotEnt) : Bad :=
  match i.ctxOf x.lctx with
  | none => some (0xE, 3, x.ofs)
  | some c =>
    let span := t.next x.start (fun y => y.1 == gen && y.2.kind == 0 && y.2.lctx == x.lctx)
    if (match i.cert c.lctx with | some e => decide (x.budget < e.beats) | none => true) then some (0xA, 3, x.ofs)
    else if t.next x.start (fun y => y.2.kind != 2) < i.hdr.tickFloor (x.budget + 28 + t.mhb) then some (0x10, 3, x.ofs)
    else if !(List.range 64).all (fun g => !c.groups.getLsbD g ||
        (match i.groupOf g with | some y => deadlineOk i t x span y | none => false)) then some (0xF, 3, x.ofs)
    else if !samplesOk i t x c then some (0x11, 3, x.ofs)
    else none

/-! ### Event segments (R223, R230) -/

/-- The STARTs of a table, ascending, each once. -/
def Tbl.starts (t : Tbl) : List Nat := t.ents.foldl (fun l x => if l.getLast? == some x.2.start then l else l ++ [x.2.start]) []

/-- The entries at a START. -/
def Tbl.at (t : Tbl) (s : Nat) : List (Bool × SlotEnt) := t.ents.filter (fun x => x.2.start == s)

/-- The START carries an EVENT entry of a side's wake set. -/
def Tbl.holds (t : Tbl) (gen : Bool) (w s : Nat) : Bool := (t.at s).any (fun x => x.1 == gen && x.2.kind == 2 && x.2.lctx == w)

/-- Ticks from the segment's first START to stop() of its last entry, walking `n` further STARTs. -/
def Tbl.segLen (t : Tbl) (gen : Bool) (w : Nat) : Nat → Nat → Nat → Nat
  | 0, _, acc => acc
  | n + 1, s, acc =>
    let d := t.next s (fun _ => true)
    let s' := (s + d) % t.period
    if t.holds gen w s' then t.segLen gen w n s' (acc + d)
    else acc + d - (if (t.at s').any (fun x => x.2.kind == 0) then t.sl else 0)

/-- Ticks from START(s) of a segment to the end of the preceding activation: that of the last DEADBEAT entry if no FREE one follows it,
which no EVENT entry stops, and SL after a directly preceding FREE or EVENT entry. -/
def Tbl.segDelay (t : Tbl) (need : Bool → Nat → Nat) (s prev : Nat) : Nat :=
  let l := t.ents.filter (fun x => x.2.kind != 2)
  let d := least (t.period + 1) (l.map (fun x => fwd t.period x.2.start s))
  let busy := match l.find? (fun x => x.2.kind == 0 && fwd t.period x.2.start s == d) with
    | some x => need x.1 x.2.budget - d
    | none => 0
  if (t.at prev).any (fun x => x.2.kind == 0) then busy else Max.max t.sl busy

/-- The windows of a side's wake set: first tick and end, in offsets of the cycle (the end may pass it). A table whose entries are all
EVENT of the wake set has no last entry: its one window takes a cycle from the first START (log entry 71). -/
def Tbl.windows (t : Tbl) (need : Bool → Nat → Nat) (gen : Bool) (w : Nat) : List (Nat × Nat) :=
  let l := t.starts
  if l.all (t.holds gen w) then (l.take 1).map (fun s => (s, s + t.period))
  else
    (l.zip (l.drop (l.length - 1) ++ l.take (l.length - 1))).filterMap (fun p =>
      if t.holds gen w p.1 && !t.holds gen w p.2 then
        some (p.1 + t.segDelay need p.1 p.2, p.1 + t.segLen gen w l.length p.1 0)
      else none)

/-! ### Event latency (R230) -/

/-- Activation lengths of a wake set around one member: those of higher priority in order, its own, those of lower priority
with their event sources. -/
structure Prio where
  high : List Nat
  own : Nat
  low : List (Nat × List SourceE)
  deriving DecidableEq, Repr

/-- A window: its first tick, its stop tick, and the member's place in its wake set. -/
structure Win where
  b : Nat
  e : Nat
  x : Prio
  deriving DecidableEq, Repr

/-- From decision point `t` of a window that ends at `e`, with the member and every higher one pending: the end of the
activation that serves it in this window. -/
def serveFrom (x : Prio) (e : Nat) : Nat → Nat → Option Nat
  | 0, _ => none
  | n + 1, t =>
    match x.high.find? (fun h => decide (t + h ≤ e)) with
    | some h => serveFrom x e n (t + h)
    | none => if t + x.own ≤ e then some (t + x.own) else none

/-- End of the activation that serves a member pending before the windows of a list. -/
def serveNext : List Win → Option Nat
  | [] => none
  | w :: r => match serveFrom w.x w.e (w.e - w.b + 1) w.b with | some u => some u | none => serveNext r

/-- Served from decision point `d` of the first window of a list, or in a later one, within `lat` ticks of an event at `a`. -/
def servedBy (lat a d : Nat) (w : Win) (r : List Win) : Bool :=
  match (match serveFrom w.x w.e (w.e - d + 1) d with | some u => some u | none => serveNext r) with
  | some u => decide (u ≤ a + lat)
  | none => false

/-- The decision point at which higher members, pending throughout, leave the window from `t` on: the first at or after `a`, or
the one at which none of them fits. -/
def highChain (x : Prio) (e a : Nat) : Nat → Nat → Nat
  | 0, t => t
  | n + 1, t =>
    if a ≤ t then t
    else match x.high.find? (fun h => decide (t + h ≤ e)) with
      | some h => highChain x e a n (t + h)
      | none => t

/-- Some source of a list gives an event at the tick `p` after the phase of table `t`: an outside event at any tick, a period
event at its own. -/
def srcAt (i : Image) (t : Tbl) (l : List SourceE) (p : Nat) : Bool :=
  l.any (fun s => s.kind != 0 || (let g := i.period s.index; ((t.phase + p : Nat) - (g.phase : Int)) % (g.period : Int) == 0))

/-- The activations of lower members that can run from tick `p` on while the searched member is not pending: a lower member
starts at a decision point of `pts`, or when its own event wakes the parked engine (R224). -/
def lowActs (i : Image) (t : Tbl) (x : Prio) (e : Nat) : Nat → Nat → List Nat → List (Nat × Nat)
  | 0, _, _ => []
  | n + 1, p, pts =>
    let l := (x.low.filter (fun m => decide (p + m.1 ≤ e) && (pts.contains p || srcAt i t m.2 p))).map (fun m => p + m.1)
    l.map (fun q => (p, q)) ++ lowActs i t x e n (p + 1) ((pts ++ l).filter (fun q => decide (p < q)))

/-- Every event of the member that comes after the previous window's end `lo`, up to this window's, is served in time: from the
point it finds, and, where a lower member was released before it, from that one's end. -/
def winOk (i : Image) (t : Tbl) (own : Nat → Bool) (lat lo : Nat) (w : Win) (r : List Win) : Bool :=
  let park := highChain w.x w.e w.e (w.e - w.b + 1) w.b
  (List.range (w.e - lo)).all (fun j =>
    let a := lo + j
    !own a || servedBy lat a (if a ≤ w.b then w.b else if a ≤ park then highChain w.x w.e a (w.e - w.b + 1) w.b else a) w r) &&
  (lowActs i t w.x w.e (w.e - park) park [park]).all (fun u =>
    match (List.range (u.2 - u.1 - 1)).find? (fun j => own (u.1 + 1 + j)) with
    | some j => servedBy lat (u.1 + 1 + j) u.2 w r
    | none => true)

/-- Every event that falls before the end of a window of a list is served in time. -/
def latencyOk (i : Image) (t : Tbl) (own : Nat → Bool) (lat : Nat) : Nat → List Win → Bool
  | _, [] => true
  | lo, w :: r => winOk i t own lat lo w r && latencyOk i t own lat w.e r

/-- The event sources of a context (R227). -/
def Image.sourcesOf (i : Image) (lctx : Nat) : List SourceE := i.sources.filter (fun x => x.lctx == lctx)

/-- Length of an event activation in admission (R230). -/
def actLen (i : Image) (lctx : Nat) : Nat := match i.ctxOf lctx with | some c => i.hdr.tickNeed c.ebudget + 1 | none => 1

/-- The wake sets of a table that list a context. -/
def setsOf (i : Image) (t : Tbl) (gen : Bool) (lctx : Nat) : List Nat :=
  (List.range i.wakes.length).filter (fun w =>
    t.ents.any (fun x => x.1 == gen && x.2.kind == 2 && x.2.lctx == w) &&
      (match i.wakes[w]? with | some e => e.members.contains lctx | none => false))

/-- The windows that serve a context, in order, with its priority in each. -/
def Tbl.winsOf (t : Tbl) (need : Bool → Nat → Nat) (i : Image) (gen : Bool) (lctx : Nat) : List Win :=
  let l := (setsOf i t gen lctx).flatMap (fun w =>
    let ms := match i.wakes[w]? with | some e => e.members | none => []
    let x : Prio := { high := (ms.takeWhile (· ≠ lctx)).map (actLen i), own := actLen i lctx
                      low := ((ms.dropWhile (· ≠ lctx)).drop 1).map (fun m => (actLen i m, i.sourcesOf m)) }
    ((t.windows need gen w).filter (fun p => decide (p.1 < p.2))).map (fun p => { b := p.1, e := p.2, x := x }))
  l.mergeSort (fun a b => decide (a.b ≤ b.b))

/-- The least common multiple of the table's cycle and of the generators that wake members of the windows. -/
def searchSpan (i : Image) (t : Tbl) (own : List SourceE) (ws : List Win) : Nat :=
  ((own ++ ws.flatMap (fun w => w.x.low.flatMap (·.2))).filter (fun s => s.kind == 0)).foldl
    (fun n s => Nat.lcm n (i.period s.index).period) t.period

/-- EVENT for one event context (R230): every arrival of the span is searched, from the second cycle on, so that a window
across the wrap is met whole. -/
def eventOk (t : Tbl) (need : Bool → Nat → Nat) (i : Image) (gen : Bool) (c : CtxE) : Bool :=
  let ws := t.winsOf need i gen c.lctx
  let src := i.sourcesOf c.lctx
  let h := searchSpan i t src ws
  let line := (List.range (h / t.period + 4)).flatMap (fun k =>
    ws.map (fun w => { w with b := w.b + k * t.period, e := w.e + k * t.period }))
  ws.any (fun w => decide (actLen i c.lctx ≤ w.e - w.b)) &&
    (c.evlat == 0 || latencyOk i t (fun a => decide (t.period ≤ a ∧ a < t.period + h) && srcAt i t src a) c.evlat 0 line)

/-! ### check_tables -/

/-- The table of one image's header. -/
def Image.tbl (i : Image) (x : TableE) : Tbl :=
  let p := i.period x.pg
  let mhb := match i.mach x.train x.pos with | some m => m.mhb | none => 0
  { period := p.period, phase := p.phase, sl := i.hdr.tickFloor (28 + mhb) + 1, mhb := mhb, ents := x.entries.map (fun e => (false, e)) }

/-- Event contexts of a position that EVENT refuses. -/
def eventsBad (t : Tbl) (need : Bool → Nat → Nat) (i : Image) (gen : Bool) (train pos : Nat) : Bad :=
  refuse 0x12 2 CtxE.ofs i.ctxs (fun c => !(c.event && c.train == train && c.pos == pos) || eventOk t need i gen c)

/-- One table (R230). -/
def tableBad (i : Image) (seen : List TableE) (x : TableE) : Bad :=
  let t := i.tbl x
  if seen.any (fun y => y.train == x.train && y.pos == x.pos) then some (0xE, 3, x.ofs)
  else firstSome [
    fun _ => refuseSeen 0xE 3 SlotEnt.ofs x.entries (fun l e => l.all (fun y => decide (y.start < e.start)) && slotOk i t x.train x.pos e),
    fun _ => (x.entries.filter (fun e => e.kind == 0)).findSome? (deadbeatBad i t false),
    fun _ => eventsBad t (fun _ b => i.hdr.tickNeed b) i false x.train x.pos]

/-- A wake set lists free-mode event contexts of one position. R223 names no code: EVENT at the WAKESETS entry, before every table (log
entry 64). -/
def wakeOk (i : Image) (w : WakeE) : Bool :=
  let l := w.members.map i.ctxOf
  l.all (fun c => match c, l.head? with
    | some c, some (some d) => c.event && !c.db && c.train == d.train && c.pos == d.pos
    | _, _ => false)

/-- check_tables, with the event contexts of positions that have no table (R230). The wake sets come first: the spec names neither the
code nor the pointer of a member that is not a free-mode event context of one position (R223; log entry 64). -/
def tablesBad (i : Image) : Bad :=
  firstSome [
    fun _ => refuse 0x12 4 WakeE.ofs i.wakes (wakeOk i),
    fun _ => (i.tables.zipIdx).findSome? (fun p => tableBad i (i.tables.take p.2) p.1),
    fun _ => refuse 0x12 2 CtxE.ofs i.ctxs (fun c => !c.event || i.tables.any (fun t => t.train == c.train && t.pos == c.pos))]

end Sys2Proof.Machine
end

