-- ==== Sys2Proof/Machine/Coexist.lean ====
section
/-! DEFINITION. The admission checks of an image beside a running one: BRIDGE and COEXIST (spec 13 R345, R347-R350). `o` is the
older image, `n` the newer one, whose BRIDGE section joins them. -/

namespace Sys2Proof.Machine

/-- The set of a context of a side. -/
def Image.setOn (n : Image) (newer : Bool) (lctx : Nat) : Option Nat :=
  n.bridges.findSome? (fun b => match b with
    | .member _ set side l => if side = newer ∧ l = lctx then some set else none
    | _ => none)

/-- The image of a side. -/
def side (o n : Image) (newer : Bool) : Image := if newer then n else o

/-- Offset of a BRIDGE entry. -/
def BridgeE.ofs : BridgeE → Nat
  | .header o _ _ => o
  | .member o _ _ _ => o
  | .map o _ _ _ _ _ _ _ => o

/-- The members of a set on a side, each once. -/
def Image.membersOf (n : Image) (set : Nat) (newer : Bool) : List Nat :=
  (n.bridges.filterMap (fun b => match b with
    | .member _ s sd l => if s = set ∧ sd = newer then some l else none
    | _ => none)).eraseDups

/-- The sets of the section, each once. -/
def Image.sets (n : Image) : List Nat :=
  (n.bridges.filterMap (fun b => match b with | .member _ s _ _ => some s | _ => none)).eraseDups

/-- The groups of a set on a side, ascending: those with a contributor among its members (R348). -/
def setGroups (o n : Image) (set : Nat) (newer : Bool) : List Nat :=
  let i := side o n newer
  (List.range 64).filter (fun g => (n.membersOf set newer).any (fun l =>
    match i.ctxOf l with | some c => c.groups.getLsbD g | none => false))

/-- The anchor of a set: the GROUPS entry and its image's side (R348). -/
def anchor (o n : Image) (set : Nat) : Option (Bool × GroupE) :=
  match setGroups o n set false, setGroups o n set true with
  | g :: _, _ => (o.groupOf g).map (fun x => (false, x))
  | [], g :: _ => (n.groupOf g).map (fun x => (true, x))
  | [], [] => none

/-! ### BRIDGE (R345, R347, R348) -/

/-- Words `w` to `w + count - 1` of a context's block, outside its header words. -/
def blockWords (i : Image) (lctx w count : Nat) : Bool :=
  match i.block lctx with
  | some b => decide (2 ≤ w ∧ w + count ≤ 2 * b.length)
  | none => false

/-- One BRIDGE entry, given those before it (log entry 30). -/
def bridgeOk (o n : Image) (seen : List BridgeE) (b : BridgeE) : Bool :=
  match b with
  | .header _ s d => seen == [] && s == o.hdr.layoutGen && d == n.hdr.layoutGen
  | .member _ set newer l =>
    seen != [] && decide (set < 64) && ((side o n newer).ctxOf l).isSome &&
      seen.all (fun x => match x with | .member _ s2 n2 l2 => !(n2 == newer && l2 == l && s2 != set) | _ => true)
  | .map _ set rev count sl sw dl dw =>
    seen != [] && decide (set < 64 ∧ 1 ≤ count) && n.setOn rev sl == some set && n.setOn (!rev) dl == some set &&
      blockWords (side o n rev) sl sw count && blockWords (side o n (!rev)) dl dw count &&
      seen.all (fun x => match x with
        | .map _ _ r2 c2 _ _ dl2 dw2 => !(r2 == rev && dl2 == dl && overlap dw count dw2 c2)
        | _ => true)

/-- One set: it has a group, and its old groups agree (R348). -/
def setOk (o n : Image) (set : Nat) : Bool :=
  let old := (setGroups o n set false).map o.groupOf
  (anchor o n set).isSome && old.all (fun x => match x, old.head? with
    | some a, some (some b) => a.pg == b.pg && a.commit == b.commit
    | _, _ => false)

/-- The contributors of a group lie in one set. -/
def oneSet (o n : Image) (newer : Bool) (g : Nat) : Bool :=
  let l := ((side o n newer).contribs g).map (fun c => n.setOn newer c.lctx)
  l.all (fun x => l.head? == some x)

/-- BRIDGE. A breach that no entry of the newer image holds points at entry 0 (log entry 30). -/
def bridgeBad (o n : Image) : Bad :=
  let zero : Bad := match n.bridges with | b :: _ => some (0x1B, 0xE, b.ofs) | [] => some (0x1B, 0x1FF, 0x40)
  if n.hdr.gen != (o.hdr.gen + 1) % 65536 then some (0x1B, 0x1FF, 0x18)
  else if n.bridges == [] then zero
  else firstSome [
    fun _ => refuseSeen 0x1B 0xE BridgeE.ofs n.bridges (bridgeOk o n),
    fun _ => if o.ctxs.all (fun c => (n.setOn false c.lctx).isSome) then none else zero,
    fun _ => refuse 0x1B 2 CtxE.ofs n.ctxs (fun c => (n.setOn true c.lctx).isSome),
    fun _ => if n.sets.all (setOk o n) then none else zero,
    fun _ => if o.groups.all (fun g => oneSet o n false g.group) then none else zero,
    fun _ => refuse 0x1B 9 GroupE.ofs n.groups (fun g => oneSet o n true g.group)]

/-! ### COEXIST: shared resources (R349) -/

/-- An older and a newer context are members of one set. -/
def together (n : Image) (old new : Nat) : Bool :=
  match n.setOn false old, n.setOn true new with
  | some a, some b => a == b
  | _, _ => false

/-- Every pair of an older and a newer context is of one set. -/
def allTogether (n : Image) (old new : List Nat) : Bool := old.all (fun a => new.all (fun b => together n a b))

/-- The contexts that use a mailbox. -/
def MboxE.users (m : MboxE) : List Nat := m.receiver :: m.senders

/-- A newer context against the older ones: slot and LCTX. -/
def ctxShared (o n : Image) (c : CtxE) : Bool :=
  o.ctxs.all (fun d => !((d.train == c.train && d.pos == c.pos && d.slot == c.slot) || d.lctx == c.lctx) || together n d.lctx c.lctx)

/-- A newer group against an older one of its index. -/
def grpShared (o n : Image) (g : GroupE) : Bool :=
  match o.groupOf g.group with
  | some h => h.pg == g.pg && h.commit == g.commit &&
      allTogether n ((o.contribs g.group).map (·.lctx)) ((n.contribs g.group).map (·.lctx))
  | none => true

/-- A newer route against the older ones of its channel. -/
def routeShared (o n : Image) (r : RouteE) : Bool :=
  (o.routes.filter (fun q => q.kind == r.kind && q.chan == r.chan)).all (fun q =>
    match r.kind with
    | 0 => q.pg == r.pg && q.arrive == r.arrive
    | 3 => q.trains == r.trains && q.pg == r.pg && q.arrive == r.arrive
    | _ => together n q.owner r.owner)

/-- A newer mailbox against the older one. -/
def mboxShared (o n : Image) (m : MboxE) : Bool :=
  match o.mboxOf (32 * m.train + m.mb) with
  | some x => allTogether n x.users m.users
  | none => true

/-- A newer generator against the older one of its index. -/
def periodShared (o : Image) (seen : List PeriodE) (p : PeriodE) : Bool :=
  match o.periods[seen.length]? with
  | some q => q.period == p.period && q.phase == p.phase
  | none => true

/-- The local-store byte that CODE writes at an address of a position. -/
def Image.codeByte (i : Image) (t p a : Nat) : Option Byte :=
  (i.code.filter (fun c => !c.tm && c.train == t && c.pos == p)).findSome? (fun c => if c.addr ≤ a then c.bytes[a - c.addr]? else none)

/-- The newer CODE covers the older one with the same values. -/
def codeCovers (o n : Image) (t p : Nat) : Bool :=
  (o.code.filter (fun c => !c.tm && c.train == t && c.pos == p)).all (fun c =>
    c.bytes.zipIdx.all (fun b => n.codeByte t p (c.addr + b.2) == some b.1))

/-- A position of both images: code, spill region, vector base and spill areas. -/
def machShared (o n : Image) (m : MachE) : Bool :=
  match o.mach m.train m.pos with
  | some x => x.spillRgn == m.spillRgn && x.mvbase == m.mvbase && codeCovers o n m.train m.pos &&
      (areasOn o.ctxs m.train m.pos).all (fun a => (areasOn n.ctxs m.train m.pos).all (fun b =>
        a.2 == 0 || b.2 == 0 || !overlap a.1 a.2 b.1 b.2))
  | none => true

/-- Two queue entries are identical. -/
def QueueE.same (a b : QueueE) : Bool :=
  a.train == b.train && a.qnum == b.qnum && a.base == b.base && a.size == b.size && a.maxreq == b.maxreq

/-- The areas of an image without the queues that the other image has identically. -/
def ownAreas (i j : Image) : List AreaE :=
  i.areas.filter (fun a => a.typ != 0xC || !(i.queues.any (fun q => q.ofs == a.ofs && j.queues.any q.same)))

/-- A newer queue of an older one's number is identical to it. -/
def queueShared (o : Image) (q : QueueE) : Bool := o.queues.all (fun x => !(x.train == q.train && x.qnum == q.qnum) || q.same x)

/-! ### The merged slot table (R349) -/

/-- The contexts of a slot entry. -/
def entryCtxs (i : Image) (e : SlotEnt) : List Nat :=
  if e.kind = 2 then (match i.wakes[e.lctx]? with | some w => w.members | none => []) else [e.lctx]

/-- The table of a position in an image. -/
def Image.tableOf (i : Image) (t p : Nat) : Option TableE := i.tables.find? (fun x => x.train == t && x.pos == p)

/-- An entry of a table with the larger budget of the entry that the other table has at its START. -/
def larger (l : List SlotEnt) (e : SlotEnt) : SlotEnt :=
  match l.find? (fun x => x.start == e.start) with
  | some x => { e with budget := Max.max e.budget x.budget }
  | none => e

/-- The merged table of a position; its cycle is that of either table. -/
def mergedTbl (o n : Image) (t p : Nat) : Option Tbl :=
  let a := o.tableOf t p
  let b := n.tableOf t p
  let ea := match a with | some x => x.entries | none => []
  let eb := match b with | some x => x.entries | none => []
  let mhb := Max.max (match o.mach t p with | some m => m.mhb | none => 0) (match n.mach t p with | some m => m.mhb | none => 0)
  let per := match a, b with
    | some x, _ => some (o.period x.pg)
    | none, some y => some (n.period y.pg)
    | none, none => none
  per.map (fun q =>
    { period := q.period, phase := q.phase, sl := Max.max (o.hdr.tickFloor (28 + mhb)) (n.hdr.tickFloor (28 + mhb)) + 1, mhb := mhb
      ents := ((ea.map (fun e => (false, larger eb e))) ++ (eb.map (fun e => (true, larger ea e)))).mergeSort
        (fun x y => decide (x.2.start ≤ y.2.start)) })

/-- Both tables have one cycle, and entries of one START are of one set. -/
def mergeable (o n : Image) (t p : Nat) : Bool :=
  match o.tableOf t p, n.tableOf t p with
  | some a, some b =>
    (o.period a.pg).period == (n.period b.pg).period && (o.period a.pg).phase == (n.period b.pg).phase &&
      a.entries.all (fun x => b.entries.all (fun y => x.start != y.start || allTogether n (entryCtxs o x) (entryCtxs n y)))
  | _, _ => true

/-- The merged table of a position passes check_tables. -/
def mergedOk (o n : Image) (t p : Nat) : Bool :=
  mergeable o n t p &&
  match mergedTbl o n t p with
  | none => true
  | some x =>
    let need (g : Bool) (b : Nat) : Nat := (side o n g).hdr.tickNeed b
    x.ents.all (fun e => e.2.kind != 0 || (deadbeatBad (side o n e.1) x e.1 e.2).isNone) &&
      (eventsBad x need o false t p).isNone && (eventsBad x need n true t p).isNone

/-! ### Leads (R350) -/

/-- W_t: words that a set maps into train `t` in a direction. -/
def mapWords (o n : Image) (set : Nat) (rev : Bool) (t : Nat) : Nat :=
  n.bridges.foldl (fun a b => match b with
    | .map _ s r count _ _ dl _ =>
      if s = set ∧ r = rev ∧ ((side o n (!rev)).ctxOf dl).any (fun c => c.train == t) then a + count else a
    | _ => a) 0

/-- lead(S, e) in a direction. -/
def leadOf (o n : Image) (set : Nat) (rev : Bool) (t p : Nat) : Nat :=
  let i := side o n (!rev)
  let ne := ((n.membersOf set (!rev)).filter (fun l => (i.ctxOf l).any (fun c => c.train == t && c.pos == p))).length
  ceilDiv (mapWords o n set rev t) 8 + i.hdr.tickFloor (128 * ne) + 2

/-- The STARTs of a member lie far enough after every commit tick of the anchor, in every alignment of the two cycles. -/
def memberLead (o n : Image) (set : Nat) (rev : Bool) (lctx : Nat) : Bool :=
  let i := side o n (!rev)
  match anchor o n set, i.ctxOf lctx with
  | some (g, a), some c =>
    match i.tableOf c.train c.pos with
    | some t =>
      let q := (side o n g).period a.pg
      let p := i.period t.pg
      let starts := (t.entries.filter (fun e => (entryCtxs i e).contains lctx)).map (·.start)
      (List.range (p.period / Nat.gcd p.period q.period)).all (fun j =>
        let k := q.phase + a.commit + j * q.period
        starts.all (fun s => decide (leadOf o n set rev c.train c.pos ≤ fwd p.period (p.offset k) s)))
    | none => true
  | _, _ => true

/-- Every member of a direction keeps its lead. -/
def leadsOk (o n : Image) (set : Nat) (rev : Bool) : Bool := (n.membersOf set (!rev)).all (memberLead o n set rev)

/-- COEXIST (R349, R350). A breach of leads points at entry 0 of the BRIDGE section (log entry 30). -/
def coexistBad (o n : Image) : Bad :=
  firstSome [
    fun _ => refuse 0x1C 2 CtxE.ofs n.ctxs (ctxShared o n),
    fun _ => refuse 0x1C 9 GroupE.ofs n.groups (grpShared o n),
    fun _ => refuse 0x1C 8 RouteE.ofs n.routes (routeShared o n),
    fun _ => refuse 0x1C 0xB MboxE.ofs n.mboxes (mboxShared o n),
    fun _ => refuseSeen 0x1C 5 PeriodE.ofs n.periods (periodShared o),
    fun _ => refuse 0x1C 7 MachE.ofs n.machs (machShared o n),
    fun _ => refuse 0x1C 0xC QueueE.ofs n.queues (queueShared o),
    fun _ => (ownAreas n o).findSome? (fun a => if o.areas.any (fun b => b.hit a) then some (0x1C, a.typ, a.ofs) else none),
    fun _ => n.machs.findSome? (fun m => if mergedOk o n m.train m.pos then none else
      match n.tableOf m.train m.pos with | some t => some (0x1C, 3, t.ofs) | none => some (0x1C, 7, m.ofs)),
    fun _ => if n.sets.all (fun s => leadsOk o n s false && leadsOk o n s true) then none
      else match n.bridges with | b :: _ => some (0x1C, 0xE, b.ofs) | [] => none]

end Sys2Proof.Machine
end

