-- ==== Sys2Proof/Machine/Regulator.lean ====
section
/-! DEFINITION. Meanings of the regulator's commands and events: admission, loading, cold start (spec 08 R229-R238, R253 of 09,
11 R303, 12 R320, 13 R345, R346). -/

namespace Sys2Proof.Machine

/-! ### The end of a command (R232, R235, R236) -/

/-- Changes the regulator's registers. -/
def State.modRgl (s : State) (f : Rgl → Rgl) : State := { s with rgl := f s.rgl }

/-- A command has finished with a RESULT. -/
def State.rglDone (s : State) (result : BitVec 2) : State := s.modRgl (fun r => { r with op := .idle, done := true, result := result })

/-- A refusal (R232): reason, pointer, and the source REFUSE (12 R319). -/
def State.rglRefuse (s : State) (x : Rfs) : State :=
  ((s.rglDone 2).modRgl (fun r => { r with sect := BitVec.ofNat 8 x.sect, code := BitVec.ofNat 8 x.code, ptr := BitVec.ofNat 32 x.ptr })).raiseInfo
    { w := 84, src := 0 }

/-- The end of a command that admits nothing and refuses nothing: the spec codes no RESULT for it (log entry 8). -/
def State.rglPlain (s : State) : State := let d := s.draw; d.2.rglDone (d.1.extractLsb' 0 2)

/-- STATE (R232, R234). -/
def stateRfs : Rfs := ⟨0x1D, 0xFF, 0⟩
/-- LIFECYCLE (R232, 15 R396). -/
def lifeRfs : Rfs := ⟨5, 0xFF, 0x30⟩
/-- FORMAT for RGL_LEN or IMG_LEN (R232, R236). -/
def lenRfs : Rfs := ⟨1, 0xFF, 8⟩

/-- A command of the regulator: CMD_ERR while BUSY (R236), LIFECYCLE in SCRAPPED where it applies (15 R396). -/
def State.rglCmd (s : State) (life : Bool) (f : State → State) : State :=
  if s.rgl.op != .idle then s.modRgl (fun r => { r with cmdErr := true })
  else if life && s.lcs.st == .scrapped then s.rglRefuse lifeRfs
  else f s

/-- Zeroes the banks and records of a generation's UNUSED contexts, which no image assigns (03 R84; 13 R354). -/
def State.dropRetired (s : State) (gen : Bool) : State :=
  s.ctx.foldl (fun s p => if p.2.st == .unused && p.2.gen == gen then s.setCtx p.1 {} else s) s

/-- Empties a slot; a pending upgrade step has no newer image left (log entry 31). -/
def State.emptySlot (s : State) (gen : Bool) : State :=
  let s := (s.dropRetired gen).setSlot gen {}
  { s with upg := { s.upg with pop := 0, sw := 0, beside := false, follow := [] } }

/-- CHECK (R236). -/
def State.cmdCheck (s : State) : State := s.rglCmd true (fun s => s.modRgl (fun r => { r.reads r.len.toNat with op := .check }))
/-- CHECK. -/
def execCheck (a : HAcc) (s : State) : Res := .next (s.hostDo a 0x1000 State.cmdCheck)

/-- LOAD (R236): the target slot is emptied; refused when it is RUNNING, and in retention (log entry 31). -/
def State.cmdLoad (s : State) (slot : Bool) : State :=
  s.rglCmd true (fun s =>
    if s.running slot || s.power.retSt != .active then s.rglRefuse stateRfs
    else (s.emptySlot slot).modRgl (fun r => { r.reads r.len.toNat with op := .load slot }))
/-- LOAD. -/
def execLoad (slot : Bool) (a : HAcc) (s : State) : Res := .next (s.hostDo a 0x1000 (fun s => s.cmdLoad slot))

/-- ABORT (R236). -/
def State.abort (s : State) : State :=
  match s.rgl.op with
  | .check => s.rglDone 3
  | .load _ => s.rglDone 3
  | _ => s.modRgl (fun r => { r with cmdErr := true })

/-- ABORT. -/
def execAbort (a : HAcc) (s : State) : Res := .next (s.hostDo a 0x1000 State.abort)

/-- DISCARD (R236). -/
def State.cmdDiscard (s : State) (slot : Bool) : State :=
  s.rglCmd false (fun s => if (s.slotOf slot).st == .loaded then (s.emptySlot slot).rglPlain else s.rglRefuse stateRfs)
/-- DISCARD. -/
def execDiscard (slot : Bool) (a : HAcc) (s : State) : Res := .next (s.hostDo a 0x1000 (fun s => s.cmdDiscard slot))

/-! ### Admission (R229, R233) -/

/-- The tag rule of R233. -/
def State.tagBad (s : State) (raw : List Byte) (dir : List Section) (h : Header) : Option Rfs :=
  if s.lcs.st == .scrapped then some lifeRfs
  else if h.tagKind = 0 then (if s.lcs.st == .secured then some ⟨4, 0xFF, 0x30⟩ else none)
  else if s.lcs.st == .secured || s.lcs.keyProg then
    let n := raw.length - 128
    if tagOk s.keyBytes (raw.drop n) (raw.take n) then none
    else some ⟨4, sectIdx dir 0xFF, match sectOf dir 0xFF with | some x => x.ofs | none => 0x30⟩
  else none

/-- The image in force that a new image would join: the older of two (13 R345; log entry 31). -/
def State.runGen (s : State) : Option Bool := if s.anyRunning then some (if s.running s.olderGen then s.olderGen else !s.olderGen) else none

/-- A refused entry as section index and pointer (R232). -/
def badRfs (dir : List Section) (b : Nat × Nat × Nat) : Rfs := ⟨b.1, if b.2.1 = 0x1FF then 0xFF else sectIdx dir b.2.1, b.2.2⟩

/-- The checks of R229 after the tag, in order. -/
def State.imageBad (s : State) (i : Image) : Bad :=
  firstSome [
    fun _ => paceBad i.hdr,
    fun _ => headerVariant s.variant i.hdr,
    fun _ => entryVariant s.variant i,
    fun _ => positionsBad i,
    fun _ => i.machs.findSome? (machBad i),
    fun _ => contextsBad s.variant i,
    fun _ => certsBad i,
    fun _ => generatorsBad i,
    fun _ => tablesBad i,
    fun _ => routesBad i,
    fun _ => worldsBad i,
    fun _ => groupsBad i,
    fun _ => mailboxesBad i,
    fun _ => memoryBad i,
    fun _ => queuesBad i,
    fun _ => carriesBad i,
    fun _ => faultsBad i,
    fun _ => match s.runGen with | some g => bridgeBad (s.img g) i | none => none,
    fun _ => match s.runGen with | some g => coexistBad (s.img g) i | none => none]

/-- Every check of a whole image that was read without error. -/
def State.admits (s : State) (raw : List Byte) : Except Rfs Image :=
  let dir := parseDir raw (fld raw 6 2)
  let img := parseImage raw dir
  match formatBad raw dir img with
  | some r => .error r
  | none =>
    if (crc32 (crcBytes raw dir)).toNat != img.hdr.crc then .error ⟨2, 0xFF, 0x38⟩
    else match s.tagBad raw dir img.hdr with
      | some r => .error r
      | none => match s.imageBad img with
        | some b => .error (badRfs dir b)
        | none => .ok img

/-! ### What LOAD writes (R236, 09 R253, 10 R278, 11 R303, 12 R320, 13 R346) -/

/-- Master copies and code of train memory. -/
def State.writeCopies (s : State) (i : Image) : State :=
  let s := i.machs.foldl (fun s m => s.place (tmKey m.train m.master) (i.lsImage m.train m.pos m.mlen)) s
  (i.code.filter (·.tm)).foldl (fun s c => s.place (tmKey c.train c.addr) c.bytes) s

/-- The engines (0-8) that hold the code of position `p`: the one that the map names, and an incoming one that has loaded its copy in a
rotation step or a substitution (12 R335, R339). -/
def State.codeEngines (s : State) (t p : Nat) : List Nat :=
  let x := s.trainAt t
  s.engOfPos t p :: ((match x.rot with
    | some r => if r.pos == p && r.loaded then [r.dst] else []
    | none => []) ++ (x.subs.filter (fun u => u.pos == p && u.partLoaded)).map (·.dst))

/-- CODE bytes into the local stores of the engines that hold the positions (13 R346). -/
def State.writeCode (s : State) (i : Image) : State :=
  (i.code.filter (fun c => !c.tm)).foldl (fun s c =>
    (s.codeEngines c.train c.pos).foldl (fun s e => s.place (lsKey (9 * c.train + e) c.addr) c.bytes) s) s

/-- The words of a block at admission (09 R253). -/
def blockInit (layout : Nat) (c : CtxE) (b : CarryE) : List Word :=
  let q := if b.qmap then [c.q.extractLsb' 0 32, c.q.extractLsb' 32 32, (c.q.extractLsb' 64 8).signExtend 32] else []
  let l := [0, BitVec.ofNat 32 (layout * 65536)] ++ c.pers.take b.npers ++
    ((List.range 8).filter (fun i => b.auxmap.getLsbD i)).map (fun i => c.aux.getD i 0) ++ q
  l ++ List.replicate (2 * b.length - l.length) 0

/-- Both halves of every block; half 0 is published. -/
def State.writeBlocks (s : State) (gen : Bool) (i : Image) : State :=
  let s := { s with sel := s.sel.filter (fun p => !(decide (1024 * gen.toNat ≤ p.1 ∧ p.1 < 1024 * gen.toNat + 1024))) }
  (i.carries.filter (fun b => b.lctx != 0xFFFF)).foldl (fun s b =>
    match i.ctxOf b.lctx with
    | some c =>
      let bytes := (blockInit i.hdr.layoutGen c b).flatMap (fun w => leBytes 4 w.toNat)
      (s.putRange (s.blockKey gen b false 0) bytes).putRange (s.blockKey gen b true 0) bytes
    | none => s) s

/-- Queue headers are zero at admission, an identical queue's of the running image too (11 R303). -/
def State.writeQueues (s : State) (i : Image) : State :=
  i.queues.foldl (fun s q => s.putRange (tmKey q.train q.base) (List.replicate 32 0)) s

/-- FW_EN and FW_SEV of every window from the defaults, then the severity entries (12 R320). -/
def State.writeSeverities (s : State) (i : Image) : State :=
  let s := (List.range 88).foldl (fun s w => s.modFw w (fun f => { f with en := (fwDefault w).en, sev := (fwDefault w).sev })) s
  i.faults.foldl (fun s f => match f with
    | .severity _ src w sev en => s.modFw w (fun f =>
        { f.setSev src sev with en := if en then f.en ||| bitW src else f.en &&& ~~~(bitW src) })
    | _ => s) s

/-- TRP_CFG of a trip route (10 R262, R278, R279). -/
def RouteE.tripWord (r : RouteE) : Word :=
  BitVec.ofNat 32 (2 ^ 31 + r.trains % 2 * 2 ^ 30 + r.trains / 2 % 4 * 2 ^ 28 + r.pg % 16 * 2 ^ 24 + r.trains / 8 % 2 * 2 ^ 23)

/-- TRP_CFG and TRP_REF of every routed trip channel. -/
def State.writeTrips (s : State) (i : Image) : State :=
  (i.routes.filter (fun r => r.kind == 3)).foldl (fun s r =>
    (s.modTrip r.chan (fun t => { t with ref := BitVec.ofNat 32 r.arrive &&& 0xFFF00FFF })).tripCfg r.chan r.tripWord) s

/-- The status of every routed converter-command channel is 0 (10 R274). A word at the port stays there until its report (16 R410;
log entry 77). -/
def State.clearCommands (s : State) (i : Image) : State :=
  (i.routes.filter (fun r => r.kind == 2)).foldl (fun s r => s.modCvc r.chan (fun x => { req := x.req, cmd := x.cmd, stale := x.req })) s

/-- LOAD admits an image into a slot. -/
def State.loadImage (s : State) (gen : Bool) (i : Image) : State :=
  let run := s.runGen
  let s := s.writeQueues i
  let s := s.setSlot gen { st := .loaded, img := i }
  let s := match run with
    | some g => { s.writeCode i with upg := { s.upg with older := g, beside := true, sw := 0, pop := 0 } }
    | none => s.writeSeverities i
  let s := (((s.writeCopies i).writeBlocks gen i).writeTrips i).clearCommands i
  (List.range s.variant.trains).foldl (fun s t => s.modTrain t (fun x => { x with hev := 0 })) s

/-- The position whose local-store writes wait too long in a LOAD beside a RUNNING image. How long they wait depends on the beats that
its engine leaves free, so which position it is, if any, is a free value (13 R346; log entry 62). -/
def State.lateCode (s : State) (i : Image) : Option MachE × State :=
  if !s.anyRunning then (none, s)
  else
    let d := s.draw
    (match d.1.toNat with
     | 0 => none
     | n + 1 => (i.machs.filter (fun m => i.code.any (fun c => !c.tm && c.train == m.train && c.pos == m.pos)))[n]?, d.2)

/-- LOAD of an admissible image: STATE at the MACHINE entry of a position that waits too long (13 R346). -/
def State.loadOr (s : State) (gen : Bool) (i : Image) (sect : Nat) : State :=
  let d := s.lateCode i
  match d.1 with
  | some m => d.2.rglRefuse ⟨0x1D, sect, m.ofs⟩
  | none => (d.2.loadImage gen i).rglDone 1

/-- The end of a CHECK or LOAD that read the whole image. -/
def State.admitted (s : State) (raw : List Byte) : State :=
  match s.admits raw, s.rgl.op with
  | .error r, _ => s.rglRefuse r
  | .ok i, .load gen => s.loadOr gen i (sectIdx (parseDir raw (fld raw 6 2)) 7)
  | .ok _, _ => s.rglDone 1

/-- The reading of an image (R232, R236): `raw` is what lies at RGL_ADDR, `err` the offset of an error response. -/
def State.readImage (s : State) (raw : List Byte) (err : Option Nat) : State :=
  let len := s.rgl.len.toNat
  let fetch (x : Nat) : State := s.rglRefuse ⟨3, 0xFF, x / 32 * 32⟩
  let before (n : Nat) : Option Nat := match err with | some x => if x < n then some x else none | none => none
  if len < 64 ∨ len % 8 ≠ 0 then s.rglRefuse lenRfs
  else match before 64 with
    | some x => fetch x
    | none =>
      if raw.length < 64 then s
      else if fld raw 8 4 ≠ len then s.rglRefuse lenRfs
      else match before len with
        | some x => fetch x
        | none => if raw.length < len then s else s.admitted (raw.take len)

/-- ADMISSION (R229): the regulator finishes a CHECK or LOAD. -/
def execAdmission (img : List Byte) (err : Option Nat) (s : State) : Res :=
  .next (if !s.power.ready then s else match s.rgl.op with
    | .check => s.readImage img err
    | .load _ => s.readImage img err
    | _ => s)

/-! ### Cold start (R237, 03 R88, 04 R90, 12 R328, 16 R409) -/

/-- The watchdog interval of a context; 0 for none. -/
def Image.watchdog (i : Image) (lctx : Nat) : Nat :=
  (i.faults.findSome? (fun f => match f with | .watchdog _ l n => if l = lctx then some n else none | _ => none)).getD 0

/-- Auxiliary registers with their initial values; FL and MODE keep their defined bits (04 R90). -/
def CtxE.auxTab (e : CtxE) : Tab Word :=
  (List.range 8).foldl (fun (t : Tab Word) i =>
    let v := e.aux.getD i 0
    t.set (fun _ => 0) i (if i = 6 then v &&& 0x1F else if i = 7 then v &&& 0xF else v)) []

/-- The bank and record of a context as START writes them. -/
def CtxE.initial (e : CtxE) (gen : Bool) (wd : Nat) : Ctx :=
  { dw := (e.pers.zipIdx).foldl (fun (t : Tab Word) p => t.set (fun _ => 0) p.2 p.1) [], dtop := BitVec.ofNat 5 (e.pdepth + 31)
    docc := e.pdepth, aux := e.auxTab, q := e.q, pc := e.entry, st := .idle, db := e.db, gen := gen, lctx := e.lctx, entry := e.entry
    restart := e.restart, pdepth := e.pdepth, world := e.world, home := e.home, level := e.home, kbase := e.kbase
    vbase := e.vbase, dspill := e.dspill, rspill := e.rspill, evmask := e.evmask, ie := e.evctl.getLsbD 0, wdW := wd
    fresh := true }

/-- Engine `k` enters START. -/
def State.enterStart (s : State) (k : Nat) : State := s.modEng k (fun e => { e with st := .start, run := .parked, icache := [] })

/-- Engine `k` of the start: a position's engine loads its code, engine 8 enters TEST with the spare role. An engine of a fenced
train stays OFF, and a failed load leaves the local store as it was (R429, log entry 31). -/
def State.startEngine (s : State) (i : Image) (k : Nat) : State :=
  if (s.engAt k).st != .off || s.fences.contains (.train (k / 9)) then s
  else if k % 9 = 8 then
    (s.enterTest k).modTrain (k / 9) (fun x => { x with spare := some 8 })
  else
    match i.mach (k / 9) (k % 9) with
    | some m =>
      if s.copyBad (k / 9) m then ((s.modEng k (fun e => e.forPos m)).enterStart k).copyFailed (k / 9) m
      else ((s.copyIn k m).modEng k (fun e => e.forPos m)).enterStart k
    | none => (s.wipe (lsKey k 0) 0x10000).enterStart k

/-- The service tick of a start (R237 step 3). -/
def State.serviceAt (s : State) (i : Image) : Nat :=
  if i.hdr.startTime ≠ 0 then i.hdr.startTime
  else
    let t := s.now + 8000
    let p := i.period 0
    let o := p.offset t
    if o = 0 then t else t + p.period - o

/-- Steps 1 and 2 of R237. -/
def State.startImage (s : State) (gen : Bool) : State :=
  let i := s.img gen
  let s := (List.range (9 * s.variant.trains)).foldl (fun s k => s.startEngine i k) s
  let s := i.ctxs.foldl (fun s c => s.setCtx (ctxId (9 * c.train + c.pos) c.slot) (c.initial gen (i.watchdog c.lctx))) s
  let s := i.mboxes.foldl (fun s m => s.modMbox m.train m.mb (fun _ => {})) s
  let outs := (List.range 64).flatMap (fun g => (i.outletsOf g).map (fun n => (n, i.safeOf g n)))
  let s := outs.foldl (fun s p => s.writeSafe p.1 p.2) s
  s.modRgl (fun r => { r with op := .start gen (s.serviceAt i) })

/-- START (R236, R237). -/
def State.start (s : State) (gen : Bool) : State :=
  let t := (s.img gen).hdr.startTime
  if s.anyRunning || (s.slotOf gen).st != .loaded || s.gf.safe || s.power.retSt != .active then s.rglRefuse stateRfs
  else if t ≠ 0 ∧ t < s.now + 8000 then s.rglRefuse ⟨0x1D, 0xFF, 0x28⟩
  else s.startImage gen

/-- START as a command. -/
def State.cmdStart (s : State) (slot : Bool) : State := s.rglCmd true (fun s => s.start slot)
/-- START. -/
def execStart (slot : Bool) (a : HAcc) (s : State) : Res := .next (s.hostDo a 0x1000 (fun s => s.cmdStart slot))

/-- Step 4 of R237: engines enter SERVICE and the image is RUNNING. The trip channels that guard its groups are enabled, and a group may
be TRIPPED from now on (09 R246, 10 R277, R280); in SAFE, raised while START waited, its outlets carry 0b11 (16 R407). -/
def State.service (s : State) (gen : Bool) : State :=
  let s := (List.range (9 * s.variant.trains)).foldl (fun s k =>
    if (s.engAt k).st == .start then s.modEng k (fun e => { e with st := .service }) else s) s
  let s := { s with
    esc := { s.esc with svc := s.time }
    rmt := { s.rmt with startedSecured := s.rmt.startedSecured || s.lcs.st == LState.secured } }
  let s := s.tripChange (fun s => (s.setSlot gen { s.slotOf gen with st := .running }).tripEdges)
  (if s.gf.safe then s.overrideAll else s).rglPlain

/-- SERVICE_TICK (R237). -/
def execServiceTick (s : State) : Res :=
  .next (match s.rgl.op with
    | .start gen svc => if svc ≤ s.now then s.service gen else s
    | _ => s)

end Sys2Proof.Machine
end

