-- ==== Sys2Proof/Machine/Upgrade.lean ====
section
/-! DEFINITION. Meanings of the live-upgrade commands and of the switch of a set (spec 13 R351-R357). -/

namespace Sys2Proof.Machine

/-- Changes the upgrade registers. -/
def State.modUpg (s : State) (f : Upg → Upg) : State := { s with upg := f s.upg }

/-- A refused command (R357). -/
def State.upgErr (s : State) : State := s.modUpg (fun u => { u with err := true })

/-- The older and the newer image. -/
def State.oldImg (s : State) : Image := s.img s.olderGen
/-- The newer image. -/
def State.newImg (s : State) : Image := s.img (!s.olderGen)

/-- The first tick at or after `t` at which a generator is at an offset. -/
def PeriodE.tickFrom (p : PeriodE) (o t : Nat) : Nat := t + (o + p.period - p.offset t) % p.period

/-- The first commit tick of a set's anchor at or after tick `t` (R348). -/
def State.anchorTick (s : State) (set t : Nat) : Option Nat :=
  (anchor s.oldImg s.newImg set).map (fun x => ((side s.oldImg s.newImg x.1).period x.2.pg).tickFrom x.2.commit t)

/-- SWITCH or REVERT of a set becomes the pending step (R351, R353). -/
def State.schedule (s : State) (pop : BitVec 2) (set : BitVec 6) : State :=
  match s.anchorTick set.toNat (Max.max s.upg.target.toNat (s.now + 2000)) with
  | some k => s.modUpg (fun u => { u with pop := pop, pset := set, due := k, defers := 0 })
  | none => s.upgErr

/-- The command may schedule a step of the set: a newer image is loaded, nothing is pending, and the set is defined (R357). -/
def State.canSchedule (s : State) (set : BitVec 6) : Bool :=
  s.coexist && s.upg.pop == 0 && s.newImg.sets.contains set.toNat

/-- SWITCH (R351). -/
def State.cmdSwitch (s : State) (set : BitVec 6) : State :=
  if s.canSchedule set && !s.switched set.toNat then s.schedule 1 set else s.upgErr
/-- SWITCH. -/
def execSwitch (set : BitVec 6) (a : HAcc) (s : State) : Res := .next (s.hostDo a 0x1020 (fun s => s.cmdSwitch set))

/-- REVERT (R353). -/
def State.cmdRevert (s : State) (set : BitVec 6) : State :=
  if s.canSchedule set && s.switched set.toNat then s.schedule 2 set else s.upgErr
/-- REVERT. -/
def execRevert (set : BitVec 6) (a : HAcc) (s : State) : Res := .next (s.hostDo a 0x1020 (fun s => s.cmdRevert set))

/-- CANCEL of the pending step, if any (R356, R357). -/
def State.cmdCancel (s : State) : State := if s.coexist then s.modUpg (fun u => { u with pop := 0 }) else s.upgErr
/-- CANCEL. -/
def execCancel (a : HAcc) (s : State) : Res := .next (s.hostDo a 0x1020 State.cmdCancel)

/-- COMPLETE (R354): accepted when every set is switched and no step is pending; it takes effect at the next tick. -/
def State.cmdComplete (s : State) : State :=
  if s.coexist && s.upg.pop == 0 && s.newImg.sets.all s.switched then s.modUpg (fun u => { u with compl := true }) else s.upgErr
/-- COMPLETE. -/
def execComplete (a : HAcc) (s : State) : Res := .next (s.hostDo a 0x1020 State.cmdComplete)

/-- COMPLETE takes effect (R354): the older slot is EMPTY, its retired members are zeroed, and the newer severities apply. -/
def State.completeTick (s : State) : State :=
  if !s.upg.compl then s
  else if !s.coexist then s.modUpg (fun u => { u with compl := false })
  else
    let old := s.olderGen
    let s := s.writeSeverities s.newImg
    let s := s.dropRetired old
    { s.setSlot old {} with
      upg := { s.upg with compl := false, beside := false, done := true, sw := 0, follow := [], pop := 0 } }

/-! ### The switch (R351-R353) -/

/-- The CTXID that a member of a side has, on the engine that holds its position. -/
def State.seat (s : State) (gen : Bool) (lctx : Nat) : Option Nat :=
  (s.ctxEntry gen lctx).map (fun c => ctxId (9 * c.train + s.engOfPos c.train c.pos) c.slot)

/-- An engine that holds a member is fenced, serves no position, or is under migration (R351). -/
def State.seatBad (s : State) (id : Nat) : Bool :=
  let k := engOfCtx id
  let x := s.trainAt (k / 9)
  (s.engAt k).st == .fenced || s.fences.contains (.train (k / 9)) || (s.posOfEng (k / 9) (k % 9)).isNone ||
    (match x.rot with | some r => r.src == k % 9 || r.dst == k % 9 | none => false)

/-- A member is RESTORING or HALTED (R351). -/
def State.memberBad (s : State) (gen : Bool) (lctx : Nat) : Bool :=
  match s.locate gen lctx with
  | some id => (s.ctxAt id).st == .restoring || (s.ctxAt id).st == .halted
  | none => false

/-- The conditions of R351 at the switch tick, for a step that leaves side `from'`. -/
def State.mayMove (s : State) (set : Nat) (from' : Bool) : Bool :=
  let o := s.oldImg
  let n := s.newImg
  let gen (newer : Bool) : Bool := newer != s.olderGen
  let members := [false, true].flatMap (fun b => (n.membersOf set b).map (fun l => (gen b, l)))
  !s.gf.safe &&
    (setGroups o n set from').all (fun g => (s.grpAt g).last == 1 && (s.grpAt g).prev == some s.now) &&
    members.all (fun m => !s.memberBad m.1 m.2 && (match s.seat m.1 m.2 with | some id => !s.seatBad id | none => false))

/-- Step 1 of R352: a member becomes UNUSED; a RUNNING one receives a stop request, and stops at once where a member of the other
side takes its slot (log entry 32). -/
def State.retireMember (s : State) (seats : List Nat) (gen : Bool) (lctx : Nat) : State :=
  match s.locate gen lctx with
  | none => s
  | some id =>
    let k := engOfCtx id
    if (s.ctxAt id).st != .running then s.modCtx id (fun c => { c with st := .unused })
    else if seats.contains id then ((s.stopCtx k (id % 16) 1).modCtx id (fun c => { c with st := .unused }))
    else s.sendStop k

/-- One map (R347, R352 step 3): words of the source's published block into both halves of the destination's. -/
def State.applyMap (s : State) (srcGen dstGen : Bool) (sl sw dl dw count : Nat) : State :=
  match (s.img srcGen).block sl, (s.img dstGen).block dl with
  | some a, some b =>
    (List.range count).foldl (fun s i =>
      let r := s.strRead (s.blockKey srcGen a (s.pubHalf srcGen sl) (sw + i))
      (r.2.write (s.blockKey dstGen b false (dw + i)) 4 r.1.toNat).write (s.blockKey dstGen b true (dw + i)) 4 r.1.toNat) s
  | _, _ => s

/-- The header of a destination block: VALID = 1 and the layout generation of its image (R352 step 3). -/
def State.markHeader (s : State) (gen : Bool) (lctx : Nat) : State :=
  match (s.img gen).block lctx with
  | some b =>
    [false, true].foldl (fun s h =>
      let key := s.blockKey gen b h 1
      let v := (s.rd32 key).toNat
      s.write key 4 ((s.img gen).hdr.layoutGen % 65536 * 65536 + v % 65536 / 2 * 2 + 1)) s
  | none => s

/-- Every map of a set in a direction. -/
def State.bridge (s : State) (set : Nat) (rev : Bool) : State :=
  let src := rev != s.olderGen
  let maps := s.newImg.bridges.filterMap (fun b => match b with
    | .map _ st r count sl sw dl dw => if st = set ∧ r = rev then some (count, sl, sw, dl, dw) else none
    | _ => none)
  let s := maps.foldl (fun (s : State) (m : Nat × Nat × Nat × Nat × Nat) =>
    s.applyMap src (!src) m.2.1 m.2.2.1 m.2.2.2.1 m.2.2.2.2 m.1) s
  ((maps.map (fun (m : Nat × Nat × Nat × Nat × Nat) => m.2.2.2.1)).eraseDups).foldl (fun s l => s.markHeader (!src) l) s

/-- A member has had a bank before: every older one, and a newer one whose set has moved before. -/
def State.hadBank (s : State) (gen : Bool) (lctx : Nat) : Bool :=
  gen == s.olderGen || (s.setOf gen lctx).any (fun set => s.upg.follow.any (fun x => x.1 == set))

/-- Step 4 of R352: a member's bank is rebuilt from its block, or takes its initial values without one (12 R338). -/
def State.rebuildMember (s : State) (gen : Bool) (lctx : Nat) : State :=
  match s.seat gen lctx, s.ctxEntry gen lctx with
  | some id, some e =>
    let now := s.ctxAt id
    let first := e.initial gen ((s.img gen).watchdog lctx)
    let s := s.modEng (engOfCtx id) (fun x => { x with bload := if x.bload.any (fun b => b.slot == id % 16) then none else x.bload })
    if ((s.img gen).block lctx).isNone then s.setCtx id { first with builds := now.builds + 1 }
    else
      let old := if s.hadBank gen lctx && now.gen == gen && now.lctx == lctx && now.entry == e.entry then { now with act := none } else first
      s.restoreCtx id { old with builds := now.builds } true
  | _, _ => s

/-- Step 5 of R352: mailboxes whose receiver moves are zeroed. -/
def State.passMailboxes (s : State) (gen : Bool) (members : List Nat) : State :=
  ((s.img gen).mboxes.filter (fun m => members.contains m.receiver)).foldl (fun s m => s.modMbox m.train m.mb (fun _ => {})) s

/-- The safe values of the outlets that pass (16 R409). -/
def State.passOutlets (s : State) (gen : Bool) (members : List Nat) : State :=
  ((s.img gen).routes.filter (fun r => r.kind == 1 && members.contains r.owner)).foldl
    (fun s r => s.writeSafe r.chan ((s.img gen).safeOf r.group r.chan)) s

/-- Instruction caches are invalid after an image switch (02 R47): of every engine that holds a member of either side. -/
def State.flushCaches (s : State) (ids : List Nat) : State :=
  ids.foldl (fun s id => s.modEng (engOfCtx id) (fun e => { e with icache := [] })) s

/-- The slot states and UPG_SW after a step (R352, R353). -/
def State.markMoved (s : State) (set : Nat) (newer : Bool) : State :=
  let bit : BitVec 64 := 1#64 <<< set
  let sw := if newer then s.upg.sw ||| bit else s.upg.sw &&& ~~~bit
  let gen := !s.olderGen
  { s.setSlot gen { s.slotOf gen with st := if sw = 0 then .loaded else .running } with
    upg := { s.upg with sw := sw, pop := 0, done := true } }

/-- The switch of a set to a side (R352, R353). -/
def State.moveSet (s : State) (set : Nat) (newer : Bool) : State :=
  let n := s.newImg
  let to' := newer != s.olderGen
  let members := n.membersOf set newer
  let seats := members.filterMap (s.seat to')
  let left := (n.membersOf set (!newer)).filterMap (s.seat (!to'))
  let groups := setGroups s.oldImg n set newer
  let next := s.anchorTick set (s.now + 1)
  let s := (n.membersOf set (!newer)).foldl (fun s l => s.retireMember seats (!to') l) s
  let s := s.bridge set (!newer)
  let s := s.tripChange (fun s => (s.markMoved set newer).tripEdges)
  let s := members.foldl (fun s l => s.rebuildMember to' l) s
  let s := ((s.passMailboxes to' members).passOutlets to' members).flushCaches (left ++ seats)
  match next with
  | some k =>
    (groups.foldl (fun s g => s.modGrp g (fun x => { x with start := k })) s).modUpg
      (fun u => { u with follow := u.follow.set (fun _ => 0) set k })
  | none => s

/-- The switch is deferred to the next commit tick of the anchor (R351). -/
def State.deferMove (s : State) : State :=
  match s.anchorTick s.upg.pset.toNat (s.now + 1) with
  | some k => s.modUpg (fun u => { u with due := k, defers := Min.min (u.defers + 1) 255 })
  | none => s

/-- SET_SWITCH at the switch tick (R351-R353). -/
def execSetSwitch (s : State) : Res :=
  .next (
    if s.upg.pop = 0 ∨ s.now < s.upg.due ∨ !s.coexist then s
    else
      let newer := s.upg.pop == 1
      if s.mayMove s.upg.pset.toNat (!newer) then s.moveSet s.upg.pset.toNat newer else s.deferMove)

end Sys2Proof.Machine
end

