-- ==== Sys2Proof/Machine/Debug.lean ====
section
/-! DEFINITION. Meanings of the halt controller's and the trace unit's rows (spec 14 R366-R374, R379-R382). -/

namespace Sys2Proof.Machine

/-- Changes the debug registers of an engine. -/
def State.modEDbg (s : State) (k : Nat) (f : EDbg → EDbg) : State := s.modEng k (fun e => { e with dbg := f e.dbg })

/-- Changes the block's debug registers. -/
def State.modDbg (s : State) (f : Dbg → Dbg) : State := { s with dbg := f s.dbg }

/-! ### Halt (R366-R368, R373) -/

/-- SAFE-world groups with outlets that have a contributor on engine `k` latch SAFE (R373). -/
def State.haltLatch (s : State) (k : Nat) : State :=
  if s.lcs.st == .secured && s.rmt.startedSecured then
    (s.groupsOn (· == k)).foldl (fun s g =>
      match s.group g with
      | some (gen, e) => if e.world && (s.img gen).outletsOf g != [] then s.modGrp g (fun x => { x with esc := true }) else s
      | none => s) s
  else s

/-- Every other engine of the halt group receives a request (R368). -/
def State.haltGroup (s : State) (k : Nat) : State :=
  if s.dbg.hgrp.getLsbD k then
    (List.range (9 * s.variant.trains)).foldl (fun s j => if j ≠ k ∧ s.dbg.hgrp.getLsbD j then s.requestHalt j 5 else s) s
  else s

/-- A release that waited for a late stopping point is skipped by the halt (R367). -/
def State.skipLate (s : State) (k : Nat) : State :=
  match (s.engAt k).late with
  | some r => s.skipRelease k r.slot
  | none => s

/-- Between repetitions the resume PC is the REP's, which executes again (06 R163). -/
def Ctx.atRep (c : Ctx) : Ctx := { c with pc := c.resumePc, rep := false }

/-- The context of a slot becomes HALTED (R366), between repetitions at the REP unless a boundary load is still to complete there; its
traced activation ends with reason 3 (R380). -/
def State.haltCtx (s : State) (k slot : Nat) : State :=
  let s := s.traceEnd k (s.ctxAt (ctxId k slot)) 3
  let c := s.ctxAt (ctxId k slot)
  s.setCtx (ctxId k slot) { (if (s.engAt k).held then c else c.atRep) with st := .halted }

/-- Engine `k` takes its halt request, with the context of a slot or none (R366). -/
def State.takeHalt (s : State) (k : Nat) (slot : Option Nat) : State :=
  let s := match slot with | some i => s.haltCtx k i | none => s
  let s := (s.modEng k (fun e => { e.endFlow with
    run := .parked
    dbg := { e.dbg with halted := true, pend := false, cause := e.dbg.pendCause, hl := slot, hlRun := e.run, stepping := false } })).skipLate k
  ((s.haltLatch k).haltGroup k).raiseLow { w := 87, src := 0, arg := some k }

/-- What a halt request that is taken now halts: a context at its stopping point or waiting for a boundary load, or a parked
engine. -/
def State.haltNow (s : State) (k : Nat) : Option (Option Nat) :=
  let e := s.engAt k
  if !e.dbg.pend || e.dbg.halted || e.mstop then none
  else match e.run with
    | .parked => some none
    | .ctx slot => if (s.takes k .halt).isSome || (e.held && e.stopReq.isNone) then some (some slot) else none
    | .mach _ => none

/-- HALT_TAKE (R366). -/
def execHaltTake (k : Nat) (s : State) : Res :=
  if !s.hasEngine k then .fault .noSuchUnit
  else .next (match s.haltNow k with | some x => s.takeHalt k x | none => s)

/-- Host offset of register `x` of engine `k`'s debug block (R382). -/
def dbgOffset (k x : Nat) : Nat := 0x9000 + 0x100 * k + x

/-- A write of DBG_ECTL.HALT. -/
def State.cmdHalt (s : State) (k : Nat) : State := if s.hasEngine k then s.requestHalt k 1 else s

/-- HALT: the host's write (R366). -/
def execHalt (k : Nat) (a : HAcc) (s : State) : Res :=
  if 72 ≤ k then .fault .noSuchUnit else .next (s.hostDo a (dbgOffset k 0) (fun s => s.cmdHalt k))

/-! ### Resume and step (R370-R372) -/

/-- With DBG_ECTL.FRZ the watchdogs of the engine restart with their full interval and the beat count restarts at 0 (R372);
SAFE-world watchdogs of a SECURED image did not pause (R373). -/
def State.thaw (s : State) (k : Nat) (slot : Option Nat) : State :=
  if !(s.engAt k).dbg.frz then s
  else
    let kept (c : Ctx) : Bool := s.lcs.st == .secured && s.rmt.startedSecured && c.world
    let s := (List.range 16).foldl (fun s i =>
      let c := s.ctxAt (ctxId k i)
      if c.st != .unused && c.wdAt.isSome && !kept c then s.modCtx (ctxId k i) (fun c => { c with wdAt := some s.now }) else s) s
    match slot with
    | some i => s.modCtx (ctxId k i) (fun c => { c with beats := 0 })
    | none => s

/-- The engine continues no activation: it parks until its next START (R370). -/
def State.rejoin (s : State) (k : Nat) : State := s.modEDbg k (fun d => { d with hlRun := .parked, parkFrom := s.now })

/-- The HALTED context goes on at PC within the slot entry of its release; otherwise its activation is abandoned (R370). A load that
came back under REP while it was HALTED leaves it between repetitions. -/
def State.goOn (s : State) (k slot : Nat) (stepping : Bool) : State :=
  let id := ctxId k slot
  let c := s.ctxAt id
  let inEntry := match c.act with | some a => decide (s.now < a.endAt) | none => false
  if inEntry then
    let late := (s.engAt k).bload.any (fun b => b.slot == slot)
    let s := s.setCtx id { (if late then c else c.atRep) with st := .running }
    s.modEng k (fun e => { e with run := e.dbg.hlRun, dbg := { e.dbg with hlRun := .parked, pass := true, stepping := stepping } })
  else (s.setCtx id (c.abandon c.pc c.divp)).rejoin k

/-- The halt of engine `k` ends. -/
def State.unhalt (s : State) (k : Nat) : State := s.modEDbg k (fun d => { d with halted := false, hl := none })

/-- A write of DBG_ECTL.RESUME (R370, R377). -/
def State.cmdResume (s : State) (k : Nat) : State :=
  let d := (s.engAt k).dbg
  if !d.halted || s.lcs.st == .scrapped then s
  else
    let s := (s.thaw k d.hl).unhalt k
    match d.hl with
    | some slot => s.goOn k slot false
    | none => s.rejoin k

/-- RESUME: the host's write. -/
def execResume (k : Nat) (a : HAcc) (s : State) : Res :=
  if 72 ≤ k then .fault .noSuchUnit else .next (s.hostDo a (dbgOffset k 0) (fun s => s.cmdResume k))

/-- A write of DBG_ECTL.STEP (R371, R377). -/
def State.cmdStep (s : State) (k : Nat) : State :=
  let d := (s.engAt k).dbg
  if !d.halted || s.lcs.st == .scrapped then s
  else match d.hl with
    | some slot => ((s.thaw k d.hl).unhalt k).goOn k slot true
    | none => s

/-- STEP: the host's write. -/
def execStep (k : Nat) (a : HAcc) (s : State) : Res :=
  if 72 ≤ k then .fault .noSuchUnit else .next (s.hostDo a (dbgOffset k 0) (fun s => s.cmdStep k))

/-- DBG_SKIPREL read: RC unless quiet (R365, R382). -/
def State.skiprelRead (s : State) (k : Nat) (quiet : Bool) : Word × State :=
  (BitVec.ofNat 32 (s.engAt k).dbg.skiprel, if quiet then s else s.modEDbg k (fun d => { d with skiprel := 0 }))

/-- DBG_SKIPREL: the host's read. -/
def execDbgSkiprel (k : Nat) (s : State) : Res :=
  if 72 ≤ k then .fault .noSuchUnit
  else .next (s.hostGet (fun s => if s.hasEngine k then s.skiprelRead k false else (0, s)))

/-! ### Trace (R379-R382) -/

/-- Room returned: OVF and SYNC of earlier losses are written (R379). -/
def State.roomBack (s : State) : State := if s.tracing then s.flushOvf else s

/-- TRC_RDATA: four buffer bytes, popped; a quiet read leaves them and sets QUIET_SKIP (R365, R382). -/
def State.trcRead (s : State) (quiet : Bool) : Word × State :=
  let v : Word := BitVec.ofNat 32 ((s.dbg.buf.take 4).foldr (fun b x => b.toNat + 256 * x) 0)
  if quiet then (v, s.modDbg (fun d => { d with quietSkip := true }))
  else (v, (s.modDbg (fun d => { d with buf := d.buf.drop 4 })).roomBack)

/-- TRC_RDATA: the host's read. -/
def execTrcRdata (s : State) : Res :=
  .next (s.hostGet (fun s => if s.variant.optional then s.trcRead false else (0, s)))

/-- STIM: the host's write to a stimulus port (R381); SRC is 0xFE. -/
def execStim (p : Nat) (v : Word) (a : HAcc) (s : State) : Res :=
  if 64 ≤ p then .fault .noSuchUnit
  else .next (s.hostDo a (0x8100 + 4 * p) (fun s => s.stimWrite p v 0xFE))

/-- The SYNC interval in ticks (R380). -/
def State.syncEvery (s : State) : Nat := 2 ^ (10 + s.dbg.syncInt.toNat)

/-- TRACE_SYNC: the interval has passed (R380). -/
def execTraceSync (s : State) : Res :=
  .next (if s.tracing && decide (s.dbg.lastSync + s.syncEvery ≤ s.now) then
    (s.emit s.syncPkt).modDbg (fun d => { d with lastSync := s.now })
  else s)

/-- A write of TRC_CTL (R380, R382): a SYNC packet at enable; outcomes not yet sent are gone when EN falls, as no packet arises then. -/
def State.trcCtl (s : State) (v : Word) : State :=
  let was := s.dbg.trcEn
  let n := v.extractLsb' 0 3
  let s := s.modDbg (fun d => { d with
    trcEn := v.getLsbD 31, sink := v.getLsbD 30, commitPk := v.getLsbD 8, syncInt := if n.toNat ≤ 5 then n else d.syncInt })
  if v.getLsbD 31 && !was then (s.emit s.syncPkt).modDbg (fun d => { d with lastSync := s.now })
  else if v.getLsbD 31 then s
  else (List.range (9 * s.variant.trains)).foldl (fun s k => s.modEDbg k (fun d => { d with fbr := [] })) s

/-- TRACE_PORT_DRAIN (R379): one byte leaves the buffer at the port. -/
def execTracePortDrain (s : State) : Res :=
  .next (
    if s.dbg.sink || !s.variant.optional || s.lcs.st == .scrapped then s
    else match s.dbg.buf with
      | [] => s
      | b :: r => (s.modDbg (fun d => { d with buf := r, port := some b })).roomBack)

end Sys2Proof.Machine
end

