-- ==== Sys2Proof/Machine/Fixed.lean ====
section
/-! DEFINITION. Meanings of groups 6 and 7: the accumulator and XMAC (spec 06 R147-R153). -/

namespace Sys2Proof.Machine

/-- A multiply-accumulate: takes `pop` of N and T and stores the exact sum of `Q × acc` and `sgn × P` (R147). -/
def macBody (pop : Nat) (acc sgn : Int) : Body := fun s w c =>
  match c.needData 2 with
  | some x => x.res w.k s c
  | none =>
    let o := storeQ c.md (acc * c.q.toInt + sgn * prodTerm c.md (c.data 1) (c.data 0))
    .done s ({ (c.drop pop).stick o.2 with q := o.1 }) 1

/-- MAC (R147). -/
def execMac (k : Nat) (s : State) : Res := runInstr k (gword 6 0) true (macBody 2 1 1) s
/-- MSU (R147). -/
def execMsu (k : Nat) (s : State) : Res := runInstr k (gword 6 1) true (macBody 2 1 (-1)) s
/-- MPY (R147). -/
def execMpy (k : Nat) (s : State) : Res := runInstr k (gword 6 2) true (macBody 2 0 1) s
/-- MACK keeps a, the entry below T (R147). -/
def execMack (k : Nat) (s : State) : Res := runInstr k (gword 6 3) true (macBody 1 1 1) s
/-- QCLR (R147). -/
def execQclr (k : Nat) (s : State) : Res :=
  runInstr k (gword 6 4) true (fun s _ c => .done s { c with q := 0 } 1) s

/-- QRD and QRDC (R147, R95-R97). -/
def qrdBody (clr : Bool) : Body := stackBody 0 1 2 (fun s _ c =>
  let o := transferQ c.md c.q
  let f := c.fl.zn o.1
  (s, { (c.push o.1).setFl { f with s := f.s || o.2 } with q := if clr then 0 else c.q }))
/-- QRD (R147). -/
def execQrd (k : Nat) (s : State) : Res := runInstr k (gword 6 8) true (qrdBody false) s
/-- QRDC (R147). -/
def execQrdc (k : Nat) (s : State) : Res := runInstr k (gword 6 9) true (qrdBody true) s
/-- QSH (R148). -/
def execQsh (k : Nat) (s : State) : Res :=
  runInstr k (gword 6 0xA) true (stackBody 1 0 2 (fun s _ c =>
    let o := shiftQ c.md c.q c.t.toInt
    (s, { (c.drop 1).stick o.2 with q := o.1 }))) s
/-- QSAT clamps whatever MODE.SAT holds (R147). -/
def execQsat (k : Nat) (s : State) : Res :=
  runInstr k (gword 6 0xB) true (fun s _ c =>
    let o := clampTo 64 c.q.toInt
    .done s { c.stick o.2 with q := BitVec.ofInt 72 o.1 } 2) s
/-- QLDH (R147). -/
def execQldh (k : Nat) (s : State) : Res :=
  runInstr k (gword 6 0xC) true (stackBody 1 0 2 (fun s _ c =>
    (s, { c.drop 1 with q := BitVec.ofInt 72 (c.t.toInt * 2 ^ 32) }))) s
/-- QST ( -- lo hi g ) (R147). -/
def execQst (k : Nat) (s : State) : Res :=
  runInstr k (gword 6 0xD) true (stackBody 0 3 2 (fun s _ c =>
    (s, c.pushAll [c.q.extractLsb' 0 32, c.q.extractLsb' 32 32, (c.q.extractLsb' 64 8).signExtend 32]))) s
/-- QLD ( lo hi g -- ) (R147). -/
def execQld (k : Nat) (s : State) : Res :=
  runInstr k (gword 6 0xE) true (stackBody 3 0 2 (fun s _ c =>
    (s, { c.drop 3 with q := ((c.data 0).extractLsb' 0 8) ++ (c.data 1) ++ (c.data 2) }))) s

/-- Group 7 functions (R151). -/
inductive XOp where
  | mac | msu | macr | sig
  deriving DecidableEq, Repr

/-- Q after one element (R151). -/
def XOp.elem (op : XOp) (m : Md) (q : Acc) (ls tm : Word) : Acc × Bool :=
  match op with
  | .mac | .macr => storeQ m (q.toInt + prodTerm m ls tm)
  | .msu => storeQ m (q.toInt - prodTerm m ls tm)
  | .sig =>
    let lo : Word := ((q.extractLsb' 0 32).rotateLeft 1) ^^^ ls ^^^ tm
    let hi : Word := q.extractLsb' 32 32 + ls + tm
    (q.extractLsb' 64 8 ++ hi ++ lo, false)

/-- Memory keys of an element's words in local store and train memory. -/
def xKeys (w : Who) (c : Ctx) : Nat × Nat := (lsKey w.k (c.auxR 0).toNat, tmKey (trainOf w.k) ((c.auxR 1).toNat % 0x200000))

/-- The fault of an element, if any (R152). Of two faults of one kind the local-store word's is raised (log entry 54). -/
def xElemFault (s : State) (w : Who) (c : Ctx) : Option Flt :=
  let a0 := (c.auxR 0).toNat
  let a1 := (c.auxR 1).toNat
  let x := xKeys w c
  if rgnOf a0 ≠ some .ls ∨ rgnOf (a0 + 3) ≠ some .ls then some (.berr (c.auxR 0))
  else if rgnOf a1 ≠ some .tm ∨ rgnOf (a1 + 3) ≠ some .tm ∨
      (s.tmPlace w (a1 % 0x200000) 4 false false).isNone then some (.berr (c.auxR 1))
  else if w.level ≠ 3 ∧ (s.engAt w.k).inSpill a0 4 then some (.priv 2 (c.auxR 0))
  else if (s.firstUE x.1 4).isSome then some (.ecc (BitVec.ofNat 32 (a0 / 8 * 8)))
  else match s.firstUE x.2 4 with
    | some key => some (.ecc (BitVec.ofNat 32 (a1 / 8 * 8)) (some key))
    | none => none

/-- One element: both words are read, single-bit errors reported and the comparators asked (R151, 11 R300, 14 R375). -/
def XOp.step (op : XOp) (s : State) (w : Who) (c : Ctx) : State × Ctx :=
  let x := xKeys w c
  let v0 := s.rd32 x.1
  let v1 := s.rd32 x.2
  let o := op.elem c.md c.q v0 v1
  let a1 := if op = .macr then c.auxR 1 - 4 else c.auxR 1 + 4
  let s := (((s.noteCE x.1 4).noteCE x.2 4).watchData w false (c.auxR 0).toNat 4 [v0]).watchData w false (c.auxR 1).toNat 4 [v1]
  let c := { c.stick o.2 with q := o.1 }
  (s, ((c.setAux 0 (c.auxR 0 + 4)).setAux 1 a1).setAux 5 (c.auxR 5 - 1))

/-- The test port reports an uncorrectable word that it has read (11 R288, R300). -/
def State.portUE (s : State) (key : Option Nat) : State :=
  match key with
  | some a => if s.bankFenced a then s else s.raiseMemUE a
  | none => s

/-- Up to `n` elements of one beat each, in which the local-store word takes the port (R32); the fault of the first one that has one
(R152). -/
def xRun (op : XOp) (w : Who) : Nat → State → Ctx → State × Ctx × Option Flt
  | 0, s, c => (s, c, none)
  | n + 1, s, c =>
    if c.cnt = 0 then (s, c, none)
    else match xElemFault s w c with
      | some f => ((if f.code = 0xB then s.elapse w.k [.port] else s).portUE f.key, c, some f)
      | none =>
        let r := op.step s w c
        let s1 := r.1.elapse w.k [.port]
        if s1.cutsRun w then (s1, r.2, none) else xRun op w n s1 r.2

/-- A group 7 instruction that runs at most `n` elements (R150-R153). Of two misaligned addresses A0 is named (log entry 54). -/
def xmacBody (op : XOp) (n : Nat) : Body := fun s w c =>
  let e := s.engAt w.k
  let setup := 2 - e.begun.paid
  if e.st ≠ .start ∧ e.st ≠ .test ∧ e.st ≠ .recover then .fault s c .illegal
  else if c.cnt = 0 then .done (s.elapse w.k (List.replicate setup .idle)) c setup
  else if (c.auxR 0).toNat % 4 ≠ 0 then .fault s c (.misalign (c.auxR 0))
  else if (c.auxR 1).toNat % 4 ≠ 0 then .fault s c (.misalign (c.auxR 1))
  else
    let r := xRun op w (if e.dbg.stepping then 1 else n) (s.elapse w.k (List.replicate setup .idle)) c
    let beats := setup + (c.cnt - r.2.1.cnt)
    match r.2.2 with
    | some f => let p := charge r.1 w r.2.1 (if f.code = 0xB then beats + 1 else beats); .fault p.1 p.2 f
    | none => if r.2.1.cnt = 0 then .done r.1 r.2.1 beats else .wait (r.1.begin w.k (.setup 2)) r.2.1 beats

/-- XMAC (R151). -/
def execXmac (k n : Nat) (s : State) : Res := runInstr k (gword 7 0) false (xmacBody .mac n) s
/-- XMSU (R151). -/
def execXmsu (k n : Nat) (s : State) : Res := runInstr k (gword 7 1) false (xmacBody .msu n) s
/-- XMACR (R151). -/
def execXmacr (k n : Nat) (s : State) : Res := runInstr k (gword 7 2) false (xmacBody .macr n) s
/-- XSIG (R151). -/
def execXsig (k n : Nat) (s : State) : Res := runInstr k (gword 7 3) false (xmacBody .sig n) s

end Sys2Proof.Machine
end

