-- ==== Sys2Proof/Machine/Flow.lean ====
section
/-! DEFINITION. Meanings of the changes of flow: JMP, the conditional branches, CALL, CALLT, JMPT, RET; loop buffer and
target buffer (spec 02 R36-R41, R46, 03 R77, R78, 04 R104, R105, 06 R154-R156). -/

namespace Sys2Proof.Machine

/-! ### Loop buffer and target buffer -/

/-- A branch at `pc` to `tgt` closes a loop that can be captured (02 R38). -/
def loopQualifies (pc tgt : Word) : Bool :=
  decide (tgt.toNat ≤ pc.toNat ∧ pc.toNat ≤ tgt.toNat + 62) && rgnOf tgt.toNat == some .ls && rgnOf (pc.toNat + 1) == some .ls

/-- The loop buffer after a taken conditional branch or JMP, and whether the branch costs 1 beat as its closing branch
(02 R38, R39, R41). -/
def LoopBuf.taken (l : LoopBuf) (pc tgt : Word) : LoopBuf × Bool :=
  if l.active = some (tgt, pc) then (l, true)
  else if l.capture = some (tgt, pc) ∧ !l.disabled then ({ l with capture := none, active := some (tgt, pc) }, true)
  else if loopQualifies pc tgt ∧ !l.disabled then ({ l.off with capture := some (tgt, pc) }, false)
  else (l.off, false)

/-- The loop buffer after a conditional branch that is not taken, and whether it was the active closing branch (02 R40). -/
def LoopBuf.notTaken (l : LoopBuf) (pc tgt : Word) : LoopBuf × Bool :=
  if l.active = some (tgt, pc) then (l.off, true)
  else if l.capture = some (tgt, pc) then (l.off, false)
  else (l, false)

/-- Any other change of flow ends capture and deactivates the loop buffer (02 R40). -/
def State.otherFlow (s : State) (k : Nat) : State :=
  s.modEng k (fun e => { e with lb := e.lb.off })

/-- The target buffer holds the branch (02 R46). -/
def Engine.tbHit (e : Engine) (pc tgt : Word) (slot : Nat) : Bool := e.tbuf.contains { pc := pc, target := tgt, slot := slot }

/-- The branch becomes the most recently used entry of the target buffer. -/
def Engine.tbUse (e : Engine) (pc tgt : Word) (slot : Nat) : Engine :=
  { e with tbuf := ({ pc := pc, target := tgt, slot := slot } ::
      e.tbuf.filter (fun x => !(x.pc == pc && x.slot == slot))).take 16 }

/-- Cost of a free-mode JMP or CALL, with the target buffer updated (02 R46). -/
def State.tbJump (s : State) (w : Who) (pc tgt : Word) : State × Nat :=
  let slot := (w.id.getD 0) % 16
  (s.modEng w.k (fun e => e.tbUse pc tgt slot), if (s.engAt w.k).tbHit pc tgt slot then 1 else 2)

/-- Target of a relative offset in instructions (04 R104). -/
def Ctx.relTarget (c : Ctx) (off : Word) : Word := c.pc + 2 + 2 * off

/-! ### JMP and the conditional branches -/

/-- JMP (06 R154). -/
def jmpBody (s13 : BitVec 13) : Body := fun s w c =>
  let tgt := c.relTarget (s13.signExtend 32)
  if !fetchable w.db tgt.toNat then .fault s c (.berr tgt)
  else
    let r := (s.engAt w.k).lb.taken c.pc tgt
    let s := s.modEng w.k (fun e => { e with lb := r.1 })
    if r.2 then .flow s c tgt 1
    else if w.db then .flow s c tgt 3
    else let x := s.tbJump w c.pc tgt; .flow x.1 c tgt x.2

/-- JMP s13. -/
def execJmp (k : Nat) (s13 : BitVec 13) (s : State) : Res := runInstr k (BitVec.ofNat 16 s13.toNat) false (jmpBody s13) s

/-- Condition ccc of FL (04 R105); code 0b111 is TZ, which tests T. -/
def Fl.cond (f : Fl) (t : Word) (ccc : Nat) : Bool :=
  match ccc with
  | 0 => f.z
  | 1 => !f.z
  | 2 => f.n != f.v
  | 3 => f.n == f.v
  | 4 => !f.c
  | 5 => f.c
  | 6 => f.v
  | _ => t == 0

/-- A conditional branch of condition `ccc`; TZ pops T whether or not it is taken (04 R105, 06 R154). -/
def bccBody (ccc : Nat) (s10 : BitVec 10) : Body := fun s w c =>
  let tgt := c.relTarget (s10.signExtend 32)
  match (if ccc = 7 then c.needData 1 else none) with
  | some x => x.res w.k s c
  | none =>
    let taken := c.fl.cond c.t ccc
    if taken && !fetchable w.db tgt.toNat then .fault s c (.berr tgt)
    else
      let c1 := if ccc = 7 then c.drop 1 else c
      let s := if w.level = 3 then s else s.traceBranch w.k c taken
      let l := (s.engAt w.k).lb
      if taken then
        let r := l.taken c.pc tgt
        let s := s.modEng w.k (fun e => { e with lb := r.1 })
        if r.2 then .flow s c1 tgt 1
        else if w.db then .flow s c1 tgt 3
        else
          let x := s.tbJump w c.pc tgt
          .flow x.1 c1 tgt (if s10.msb then x.2 else 4)
      else
        let r := l.notTaken c.pc tgt
        let s := s.modEng w.k (fun e => { e with lb := r.1, fetch := if r.2 then none else e.fetch })
        .done s c1 (if r.2 then 3 else if !w.db && s10.msb then 4 else 1)

/-- Bcc s10 with conditions EQ to VS; code 0b111 is TZ. -/
def execBcc (k : Nat) (ccc : BitVec 3) (s10 : BitVec 10) (s : State) : Res :=
  runInstr k (BitVec.ofNat 16 (0x2000 + ccc.toNat * 0x400 + s10.toNat)) true (bccBody ccc.toNat s10) s
/-- TZ s10. -/
def execTz (k : Nat) (s10 : BitVec 10) (s : State) : Res :=
  runInstr k (BitVec.ofNat 16 (0x3C00 + s10.toNat)) true (bccBody 7 s10) s

/-! ### Frames (03 R77, R78) -/

/-- Tag of a SAVED entry. -/
def savedTag : BitVec 5 := 16
/-- Tag of a LINK entry with its mask. -/
def linkTag (m : BitVec 3) : BitVec 5 := 8 + m.setWidth 5

/-- Groups named in a save mask. -/
def maskGroups (m : BitVec 3) : Nat := (m.getLsbD 0).toNat + (m.getLsbD 1).toNat + (m.getLsbD 2).toNat

/-- Pushes the two registers of one group as SAVED entries. -/
def Ctx.savePair (c : Ctx) (on : Bool) (r : Nat) : Ctx :=
  if on then (c.rpush (c.auxR r) savedTag).rpush (c.auxR (r + 1)) savedTag else c

/-- Pushes a frame whose LINK holds the return address (R77). -/
def Ctx.pushFrame (c : Ctx) (m : BitVec 3) (link : Word) : Ctx :=
  (((c.savePair (m.getLsbD 0) 0).savePair (m.getLsbD 1) 2).savePair (m.getLsbD 2) 4).rpush link (linkTag m)

/-- Restores one group from RT and pops it: the higher register lies at RT. -/
def Ctx.restorePair (c : Ctx) (on : Bool) (r : Nat) : Ctx :=
  if on then ((c.setAux (r + 1) (c.ret 0)).setAux r (c.ret 1)).rdrop 2 else c

/-- CALL m, s10: the target is checked before return room (06 R155). -/
def callBody (m : BitVec 3) (s10 : BitVec 10) : Body := fun s w c =>
  let tgt := c.relTarget (s10.signExtend 32)
  let g := maskGroups m
  if !fetchable w.db tgt.toNat then .fault s c (.berr tgt)
  else match c.roomRet (1 + 2 * g) with
    | some x => x.res w.k s c
    | none =>
      let c1 := c.pushFrame m (c.pc + 2)
      let s := s.otherFlow w.k
      if w.db then .flow s c1 tgt (3 + g)
      else let x := s.tbJump w c.pc tgt; .flow x.1 c1 tgt (x.2 + g)

/-- CALL. -/
def execCall (k : Nat) (m : BitVec 3) (s10 : BitVec 10) (s : State) : Res :=
  runInstr k (BitVec.ofNat 16 (0x4000 + m.toNat * 0x400 + s10.toNat)) false (callBody m s10) s

/-- Checks of a computed target in the order of 04 R112. -/
def computedTarget (db : Bool) (a : Word) : Option Flt :=
  if !fetchable db a.toNat then some (.berr a) else if a.getLsbD 0 then some (.misalign a) else none

/-- An FTGT packet of traced deadbeat code below Machine level (14 R380). -/
def State.traceTarget (s : State) (w : Who) (c : Ctx) (a : Word) : State :=
  if w.level = 3 then s else s.traceWord w.k c 3 a

/-- CALLT m. -/
def calltBody (m : BitVec 3) : Body := fun s w c =>
  match c.needData 1 with
  | some x => x.res w.k s c
  | none =>
    let g := maskGroups m
    match computedTarget w.db c.t with
    | some f => .fault s c f
    | none =>
      match c.roomRet (1 + 2 * g) with
      | some x => x.res w.k s c
      | none =>
        .flow ((s.otherFlow w.k).traceTarget w c c.t) ((c.drop 1).pushFrame m (c.pc + 2)) c.t ((if w.db then 4 else 3) + g)

/-- CALLT. -/
def execCallt (k : Nat) (m : BitVec 3) (s : State) : Res := runInstr k (gword 22 m.toNat) false (calltBody m) s

/-- JMPT. -/
def jmptBody : Body := fun s w c =>
  match c.needData 1 with
  | some x => x.res w.k s c
  | none =>
    match computedTarget w.db c.t with
    | some f => .fault s c f
    | none => .flow ((s.otherFlow w.k).traceTarget w c c.t) (c.drop 1) c.t (if w.db then 4 else 3)

/-- JMPT. -/
def execJmpt (k : Nat) (s : State) : Res := runInstr k (gword 22 0x80) false jmptBody s

/-- RET (03 R78). -/
def retBody : Body := fun s w c =>
  match c.needRet 1 with
  | some x => x.res w.k s c
  | none =>
    let m : BitVec 3 := (c.rtag 0).setWidth 3
    let g := maskGroups m
    if tagKind (c.rtag 0) ≠ 1 ∨ c.rocc + c.rused < 1 + 2 * g then .fault s c .illegal
    else if c.rocc < 1 + 2 * g then Stop.res (.fusee .fillReturn) w.k s c
    else if !(List.range (2 * g)).all (fun i => tagKind (c.rtag (1 + i)) == 2) then .fault s c .illegal
    else
      let tgt := evenPc (c.ret 0)
      if !fetchable w.db tgt.toNat then .fault s c (.berr tgt)
      else
        let c1 := (((c.rdrop 1).restorePair (m.getLsbD 2) 4).restorePair (m.getLsbD 1) 2).restorePair (m.getLsbD 0) 0
        .flow ((s.otherFlow w.k).traceTarget w c tgt) c1 tgt ((if w.db then 3 else 2) + g)

/-- RET. -/
def execRet (k : Nat) (s : State) : Res := runInstr k (gword 16 0x10) false retBody s

end Sys2Proof.Machine
end

