-- ==== Sys2Proof/Machine/Link.lean ====
section
/-! DEFINITION. Meanings of the sync link (spec 13 R355, R358-R361). -/

namespace Sys2Proof.Machine

/-- Changes the link's registers. -/
def State.modLink (s : State) (f : Link → Link) : State := { s with link := f s.link }

/-- The highest generation resident in the block (R358, R359): RUNNING or LOADED. -/
def State.topGen (s : State) : Option Nat :=
  let l := s.gens.map (fun g => (s.img g).hdr.gen)
  match l with
  | [a, b] => some (if a = (b + 1) % 65536 then a else if b = (a + 1) % 65536 then b else Max.max a b)
  | [a] => some a
  | _ => none

/-- The link works: present, enabled and not fenced (R360, R361). -/
def State.linkUp (s : State) : Bool := s.variant.optional && s.link.en && !s.fences.contains .link

/-- Payload word `n` of a frame with the generation it is of (R358). -/
def State.linkWord (s : State) (n : Nat) : Word64 × Option Nat :=
  let t := s.link.txsel.get (fun _ => 0) n
  let lctx := (t.extractLsb' 16 10).toNat
  match t.getLsbD 31, s.selGen lctx with
  | true, some gen =>
    let w := (if gen then t.extractLsb' 0 8 else t.extractLsb' 8 8).toNat
    (s.pubWord gen lctx (w + 1) ++ s.pubWord gen lctx w, some (s.img gen).hdr.gen)
  | _, _ => (0, none)

/-- CRC-32 of frame words. -/
def frameCrc (l : List Word64) : Word64 := (crc32 (l.flatMap (fun w => leBytes 8 w.toNat))).setWidth 64

/-- The frame of the current tick (R358). -/
def State.linkFrame (s : State) : List Word64 :=
  let nw := s.link.ntx.toNat
  let top := s.topGen.getD 0
  let pay := (List.range nw).map s.linkWord
  let old := (pay.zipIdx).foldl (fun a p => if p.1.2 == some ((top + 65535) % 65536) then a + 2 ^ p.2 else a) 0
  let l := [BitVec.ofNat 64 (0x5C17 + top * 2 ^ 16 + s.link.fseq.toNat * 2 ^ 32 + nw * 2 ^ 48), s.time, BitVec.ofNat 64 old] ++
    pay.map (·.1)
  l ++ [frameCrc l]

/-- The current tick is a frame tick. -/
def State.frameTick (s : State) : Bool := s.now % 10000 == s.link.phase.toNat

/-- The single-bit errors that reading payload word `n` corrects (11 R300). -/
def State.linkNote (s : State) (n : Nat) : State :=
  let t := s.link.txsel.get (fun _ => 0) n
  let lctx := (t.extractLsb' 16 10).toNat
  match t.getLsbD 31, s.selGen lctx with
  | true, some gen => (s.pubRead gen lctx (if gen then t.extractLsb' 0 8 else t.extractLsb' 8 8).toNat).2
  | _, _ => s

/-- A frame as the halves that leave the port, low half first (16 R415). -/
def frameHalves (l : List Word64) : List Word := l.flatMap (fun w => [w.extractLsb' 0 32, w.extractLsb' 32 32])

/-- The frame is sent, and the count of frame ticks without a valid frame advances, anew from the third (R358, R361; log entry 33). -/
def State.linkSend (s : State) : State :=
  ((List.range s.link.ntx.toNat).foldl State.linkNote s).modLink (fun l => { l with
    tx := frameHalves s.linkFrame, fseq := l.fseq + 1, missed := if 2 ≤ l.missed then 0 else l.missed + 1 })

/-- LINK_TX_FRAME: a frame tick, at which a working link sends (R358). LNK_STAT.UP ages with or without it (R360). -/
def execLinkTxFrame (s : State) : Res :=
  .next (if s.variant.optional && s.frameTick then
    let s := s.modLink (fun l => { l with age := Min.min (l.age + 1) 3 })
    if s.linkUp then s.linkSend else s
  else s)

/-- A frame whose mark, length and CRC are right (R358, R359, 16 R415). -/
def frameOk (l : List Word64) : Bool :=
  let nw := ((l.getD 0 0).extractLsb' 48 6).toNat
  (l.getD 0 0).extractLsb' 0 16 == 0x5C17#16 && decide (nw ≤ 32 ∧ l.length = nw + 4) &&
    (l.getD (nw + 3) 0).extractLsb' 0 32 == (frameCrc (l.take (nw + 3))).extractLsb' 0 32

/-- The latest frame tick at or before now. -/
def State.ownFrame (s : State) : Nat := s.now - (s.now + 10000 - s.link.phase.toNat % 10000) % 10000

/-- Payload words of a frame that this block does not accept (R359). -/
def State.rejected (s : State) (frameGen old nw : Nat) : List Nat :=
  (List.range nw).filter (fun n =>
    let g := if old.testBit n then (frameGen + 65535) % 65536 else frameGen
    match s.topGen with
    | some top => !(g == top || g == (top + 65535) % 65536)
    | none => true)

/-- The 288-byte record of a frame (R359). -/
def State.linkRecord (s : State) (l : List Word64) (rej : List Nat) : List Byte :=
  let nw := ((l.getD 0 0).extractLsb' 48 6).toNat
  let rejBits := rej.foldl (fun a n => a + 2 ^ n) 0
  let old := ((l.getD 2 0).extractLsb' 0 32).toNat
  let pay := (List.range 32).map (fun n => if n < nw ∧ !rej.contains n then l.getD (3 + n) 0 else 0)
  ([l.getD 0 0, l.getD 1 0, BitVec.ofNat 64 (rejBits * 2 ^ 32 + old), s.time] ++ pay).flatMap (fun w => leBytes 8 w.toNat)

/-- A record of 288 bytes enters queue `e` of train `t` at write pointer `wr`, which moves last (R359). -/
def State.linkPut (s : State) (t : Nat) (e : QueueE) (wr : Word) (rec : List Byte) : State :=
  let n := Min.min rec.length (e.size - wr.toNat % e.size)
  let h := tmKey t e.base
  ((s.writeAll (h + 32 + wr.toNat % e.size) (rec.take n)).writeAll (h + 32) (rec.drop n)).write h 4 (wr + 288).toNat

/-- A pointer of a queue's header; 0 while its bank is fenced. A single-bit error is corrected (11 R300, R301). -/
def State.linkPtr (s : State) (a : Nat) : Word × State := if s.bankFenced a then (0, s) else (s.rd32 a, s.noteWord a)

/-- As `linkPut` where 288 bytes are free; else the record is dropped (R359). -/
def State.linkRoom (s : State) (t : Nat) (e : QueueE) (wr : Word) (rec : List Byte) (free : Option Nat) : State :=
  if free.any (fun f => 288 ≤ f) then s.linkPut t e wr rec else s.raise { w := 86, src := 3, tgt := some .link }

/-- Writes a record into the receive queue, or drops it for want of 288 bytes (R359). -/
def State.linkStore (s : State) (rec : List Byte) : State :=
  match s.queueOf s.link.rxTrain.toNat s.link.rxq.toNat with
  | none => s.raise { w := 86, src := 3, tgt := some .link }
  | some e =>
    let h := tmKey s.link.rxTrain.toNat e.base
    let w := s.linkPtr h
    let d := w.2.linkPtr (h + 8)
    d.2.linkRoom s.link.rxTrain.toNat e w.1 rec (qFree e w.1 d.1)

/-- A valid frame (R359-R361). -/
def State.linkReceive (s : State) (l : List Word64) : State :=
  let w0 := l.getD 0 0
  let gen := w0.extractLsb' 16 16
  let seq := w0.extractLsb' 32 16
  let skew : Word := ((l.getD 1 0) - BitVec.ofNat 64 s.ownFrame).setWidth 32
  let jump := match s.link.lastSeq with | some x => seq != x + 1 | none => false
  let s := s.modLink (fun k => { k with age := 0, missed := 0, peerGen := gen, skew := skew, lastSeq := some seq })
  let s := if jump then s.raiseInfo { w := 86, src := 4 } else s
  let rej := s.rejected gen.toNat ((l.getD 2 0).extractLsb' 0 32).toNat (w0.extractLsb' 48 6).toNat
  let s := s.linkStore (s.linkRecord l rej)
  if rej = [] then s else s.raise { w := 86, src := 2, tgt := some .link }

/-- LINK_RX_FRAME (R359). -/
def execLinkRxFrame (words : List Word64) (s : State) : Res :=
  .next (
    if !s.linkUp || !s.power.ready then s
    else if frameOk words then s.linkReceive words
    else s.raiseInfo { w := 86, src := 0 })

/-- LNK_LOSS: the third frame tick without a valid frame (R361). It acts before the frame of its tick, which a fence stops (12 R318). -/
def execLnkLoss (s : State) : Res :=
  .next (if s.linkUp && s.frameTick && decide (2 ≤ s.link.missed) then s.raise { w := 86, src := 1, tgt := some .link } else s)

/-- LNK_CTL as a word (R360). -/
def Link.ctl (l : Link) : Word :=
  BitVec.ofNat 32 (l.en.toNat * 2 ^ 31 + l.cfgErr.toNat * 2 ^ 30 + l.ntx.toNat * 2 ^ 24 + l.rxTrain.toNat * 2 ^ 20 +
    l.rxq.toNat * 2 ^ 16 + l.phase.toNat)

/-- The receive queue exists and can hold a record (R360). -/
def State.linkQueueOk (s : State) (t q : Nat) : Bool :=
  match s.queueOf t q with
  | some e => decide (288 ≤ e.size)
  | none => false

/-- A write of LNK_CTL (R360); a link that is enabled waits anew for its first frame (R361). Values beyond a field's range leave it unchanged (log entry 33). -/
def State.lnkCtl (s : State) (v : Word) : State :=
  if s.rmt.startedSecured || !s.variant.optional then s
  else
    let ok := s.linkQueueOk (v.extractLsb' 20 3).toNat (v.extractLsb' 16 4).toNat
    s.modLink (fun l => { l with
      en := v.getLsbD 31 && ok, missed := if l.en then l.missed else 0, cfgErr := v.getLsbD 31 && !ok
      ntx := if (v.extractLsb' 24 6).toNat ≤ 32 then v.extractLsb' 24 6 else l.ntx
      rxTrain := v.extractLsb' 20 3, rxq := v.extractLsb' 16 4
      phase := if (v.extractLsb' 0 14).toNat < 10000 then v.extractLsb' 0 14 else l.phase })

/-- LNK_CTL: the host's write. -/
def execLnkCtl (v : Word) (a : HAcc) (s : State) : Res := .next (s.hostDo a 0x800 (fun s => s.lnkCtl v))

end Sys2Proof.Machine
end

