-- ==== Sys2Proof/Machine/HostRegs.lean ====
section
/-! DEFINITION. The host register map, the memory windows, and the meanings of the host commands that use them
(spec 17 R417-R425, 00 R5, R12, R13, 11 R310, 16 R412). -/

namespace Sys2Proof.Machine

/-! ### Helpers -/

/-- Index of `off` in `n` words that start at `base`, `stride` apart. -/
def strided (off base stride n : Nat) : Option Nat :=
  if base ≤ off ∧ off < base + stride * n ∧ (off - base) % stride = 0 then some ((off - base) / stride) else none

/-- Packs bits, bit 0 first. -/
def packBits (n : Nat) (f : Nat → Bool) : Word := BitVec.ofNat 32 ((List.range n).foldl (fun a i => a + (f i).toNat * 2 ^ i) 0)

/-- The low word of a 64-bit register. -/
def lo32 (v : Word64) : Word := v.setWidth 32
/-- The high word of a 64-bit register. -/
def hi32 (v : Word64) : Word := (v >>> 32).setWidth 32
/-- Writes one half of a 64-bit register. -/
def setHalf (v : Word64) (hi : Bool) (w : Word) : Word64 :=
  if hi then w ++ v.extractLsb' 0 32 else v.extractLsb' 32 32 ++ w

/-- A write field whose value must lie in a range; other values leave it unchanged. -/
def ranged {n : Nat} (old new : BitVec n) (lo hi : Nat) : BitVec n := if lo ≤ new.toNat ∧ new.toNat ≤ hi then new else old

/-- A register of an optional unit: 0 where the unit is absent (00 R5). -/
def orAbsent (have' : Bool) (v : Word) : Word := if have' then v else 0

/-! ### Fault windows (12 R314, R320) -/

/-- The fault window and register offset of a host offset (12 R313). -/
def fwPlace (off : Nat) : Option (Nat × Nat) :=
  if 0x10000 ≤ off ∧ off < 0x90000 then
    let t := off / 0x10000 - 1
    let x := off % 0x10000
    if 0x400 ≤ x ∧ x < 0x440 then some (72 + t, x - 0x400)
    else if 0x440 ≤ x ∧ x < 0x680 then some (9 * t + (x - 0x440) / 0x40, x % 0x40)
    else none
  else if 0x5100 ≤ off ∧ off < 0x5300 then some (80 + (off - 0x5100) / 0x40, off % 0x40)
  else none

/-- FW_SEVr (12 R314). -/
def FW.sevWord (f : FW) (r : Nat) : Word := (f.sev.extractLsb' (24 * r) 24).setWidth 32

/-- FW_IRQ (12 R314). -/
def FW.irqWord (f : FW) : Word := BitVec.ofNat 32 (f.line.toNat * 256 + f.irq.toNat)

/-- A register of a window without a read effect. -/
def FW.word (f : FW) (x : Nat) : Word :=
  match x with
  | 0x00 => f.stat
  | 0x04 => f.en
  | 0x08 => f.sevWord 0
  | 0x0C => f.sevWord 1
  | 0x10 => f.sevWord 2
  | 0x14 => f.sevWord 3
  | 0x1C => f.cap
  | 0x20 => f.addr
  | 0x24 => f.conseq
  | 0x28 => BitVec.ofNat 32 f.cnt
  | 0x2C => f.irqWord
  | 0x30 => BitVec.ofNat 32 f.chk.toNat
  | _ => 0

/-- FW_EN with the fixed SAFE sources of a window at 1 and undefined sources at 0 (12 R314, R315). -/
def enWord (w : Nat) (v : Word) : Word :=
  let l := srcsOf w
  let fixed := l.zipIdx.foldl (fun a p => if p.1.fixedSafe then a ||| bitW p.2 else a) (0 : Word)
  (v ||| fixed) &&& enMask l

/-- A write of FW_SEVr: codes outside a source's range leave its field unchanged (12 R315). -/
def FW.writeSev (f : FW) (w r : Nat) (v : Word) : FW :=
  (List.range 8).foldl (fun f i =>
    let n := 8 * r + i
    let c := (v.extractLsb' (3 * i) 3).toNat
    match srcInfo w n with
    | some info => if info.allows c then f.setSev n c else f
    | none => f) f

/-- What a clear of FW_STAT bits releases (12 R316). -/
def State.statCleared (s : State) (w : Nat) (v : Word) : State :=
  if 72 ≤ w ∧ w < 80 ∧ v.getLsbD 9 then s.modPace (w - 72) (fun p => { p with holdPace := false })
  else if w = 83 ∧ v.getLsbD 1 then
    (List.range s.variant.trains).foldl (fun s t => s.modPace t (fun p => { p with holdRail := false })) s
  else s

/-- A write of register `x` of a present fault window. -/
def State.fwWrite (s : State) (w x : Nat) (v : Word) : State :=
  let locked := s.rmt.startedSecured
  match x with
  | 0x00 => (s.modFw w (fun f => { f with stat := f.stat &&& ~~~(v &&& ~~~f.now) })).statCleared w (v &&& ~~~(s.fwAt w).now)
  | 0x04 => if locked then s else s.modFw w (fun f => { f with en := enWord w v })
  | 0x08 | 0x0C | 0x10 | 0x14 => if locked then s else s.modFw w (fun f => f.writeSev w ((x - 8) / 4) v)
  | 0x18 => s.fwForce w v
  | 0x24 => s.modFw w (fun f => { f with conseq := f.conseq &&& ~~~(v &&& ~~~f.now) })
  | 0x2C => if locked then s else s.modFw w (fun f => { f with irq := v.extractLsb' 0 5 })
  | _ => s

/-! ### Identification, interrupts and the link (17 R420, 13 R360) -/

/-- IRQ_FWi: lines of windows 32 i to 32 i + n - 1. -/
def State.irqFw (s : State) (i n : Nat) : Word := packBits n (fun b => s.hasWindow (32 * i + b) && (s.fwAt (32 * i + b)).line)

/-- `hst_irq_rgl` (16 R415). -/
def State.irqRgl (s : State) : Bool := s.rgl.done || s.upg.done

/-- IRQ_MISC. -/
def State.irqMisc (s : State) : Word :=
  BitVec.ofNat 32 (s.irqRgl.toNat + 256 * (packBits 8 (fun t => s.hasTrain t && (s.trainAt t).hev != 0)).toNat)

/-- Registers 0x0000-0x0FFF. -/
def State.globalVal (s : State) (off : Nat) : Option Word :=
  let link := s.variant.optional
  match off with
  | 0x00 => some (BitVec.ofNat 32 (s.variant.part * 65536 + 0x4B56))
  | 0x04 => some 0x00010001
  | 0x08 => some s.scratch
  | 0x10 => some (s.variant.feat 0)
  | 0x14 => some (s.variant.feat 1)
  | 0x18 => some (s.variant.feat 2)
  | 0x1C => some (s.variant.feat 3)
  | 0x20 => some (s.irqFw 0 32)
  | 0x24 => some (s.irqFw 1 32)
  | 0x28 => some (s.irqFw 2 24)
  | 0x2C => some s.irqMisc
  | 0x800 => some (orAbsent link s.link.ctl)
  | 0x804 => some (orAbsent link (BitVec.ofNat 32 ((decide (s.link.age < 3)).toNat * 2 ^ 31 + s.link.peerGen.toNat)))
  | 0x808 => some (orAbsent link s.link.skew)
  | _ => (strided off 0x840 4 32).map (fun n => orAbsent link (s.link.txsel.get (fun _ => 0) n))

/-- Writes registers 0x0000-0x0FFF. -/
def State.globalWrite (s : State) (off : Nat) (v : Word) : State :=
  if off = 0x08 then { s with scratch := v }
  else if off = 0x800 then s.lnkCtl v
  else match strided off 0x840 4 32 with
    | some n =>
      if s.rmt.startedSecured || !s.variant.optional then s
      else s.modLink (fun l => { l with txsel := l.txsel.set (fun _ => 0) n (v &&& 0x83FFFFFF) })
    | none => s

/-! ### Regulator and upgrade (08 R235, 13 R356) -/

/-- Code of a slot state. -/
def SlotSt.code : SlotSt → Nat
  | .empty => 0 | .loaded => 1 | .running => 2

/-- RGL_STAT. -/
def State.rglStat (s : State) : Word :=
  BitVec.ofNat 32 (s.slotB.st.code * 2 ^ 12 + s.slotA.st.code * 2 ^ 10 + s.rgl.cmdErr.toNat * 2 ^ 9 + s.rgl.done.toNat * 2 ^ 8 +
    s.rgl.result.toNat * 4 + (s.rgl.op != .idle).toNat)

/-- UPG_STAT. -/
def Upg.stat (u : Upg) : Word :=
  BitVec.ofNat 32 (u.err.toNat * 2 ^ 31 + u.done.toNat * 2 ^ 30 + u.defers * 2 ^ 16 + u.pop.toNat * 2 ^ 14 + u.pset.toNat * 256)

/-- Registers 0x1000-0x1FFF. -/
def State.rglVal (s : State) (off : Nat) : Option Word :=
  match off with
  | 0x1000 => some 0
  | 0x1004 => some s.rglStat
  | 0x1008 => some (BitVec.ofNat 32 (s.rgl.sect.toNat * 256 + s.rgl.code.toNat))
  | 0x100C => some s.rgl.ptr
  | 0x1010 => some s.rgl.addrLo
  | 0x1014 => some s.rgl.addrHi
  | 0x1018 => some s.rgl.len
  | 0x1020 => some 0
  | 0x1024 => some s.upg.stat
  | 0x1028 => some (lo32 s.upg.sw)
  | 0x102C => some (hi32 s.upg.sw)
  | 0x1030 => some (lo32 s.upg.target)
  | 0x1034 => some (hi32 s.upg.target)
  | _ => none

/-- A write of RGL_CMD: an invalid OP sets CMD_ERR (08 R235). -/
def State.rglCommand (s : State) (v : Word) : State :=
  let slot := v.getLsbD 8
  match v.toNat % 16 with
  | 1 => s.cmdCheck
  | 2 => s.cmdLoad slot
  | 3 => s.abort
  | 4 => s.cmdDiscard slot
  | 5 => s.cmdStart slot
  | _ => s.modRgl (fun r => { r with cmdErr := true })

/-- A write of UPG_CMD: any other OP is refused (13 R357). -/
def State.upgCommand (s : State) (v : Word) : State :=
  let set := v.extractLsb' 8 6
  match v.toNat % 16 with
  | 1 => s.cmdSwitch set
  | 2 => s.cmdRevert set
  | 3 => s.cmdCancel
  | 4 => s.cmdComplete
  | _ => s.upgErr

/-- Writes an address or length register, which is held while a command is in progress (08 R236). -/
def State.rglHeld (s : State) (f : Rgl → Rgl) : State := if s.rgl.op != .idle then s else s.modRgl f

/-- Writes registers 0x1000-0x1FFF. -/
def State.rglWrite (s : State) (off : Nat) (v : Word) : State :=
  match off with
  | 0x1000 => s.rglCommand v
  | 0x1004 => s.modRgl (fun r => { r with cmdErr := r.cmdErr && !v.getLsbD 9, done := r.done && !v.getLsbD 8 })
  | 0x1010 => s.rglHeld (fun r => { r with addrLo := v &&& 0xFFFFFFE0 })
  | 0x1014 => s.rglHeld (fun r => { r with addrHi := v })
  | 0x1018 => s.rglHeld (fun r => { r with len := v })
  | 0x1020 => s.upgCommand v
  | 0x1024 => s.modUpg (fun u => { u with err := u.err && !v.getLsbD 31, done := u.done && !v.getLsbD 30 })
  | 0x1030 => s.modUpg (fun u => { u with target := setHalf u.target false v })
  | 0x1034 => s.modUpg (fun u => { u with target := setHalf u.target true v })
  | _ => s

/-! ### Escapement (17 R421) -/

/-- The generator that ESC_PER and ESC_PH show: what any image uses, while one is RUNNING. -/
def State.periodView (s : State) (p : Nat) : Option PeriodE :=
  if s.anyRunning then
    s.gens.findSome? (fun g => if s.running g || s.coexist then (s.img g).periods[p]? else none)
  else none

/-- Registers 0x2000-0x2FFF but for ESC_LATE. -/
def State.escVal (s : State) (off : Nat) : Option Word :=
  match off with
  | 0x2000 => some (lo32 s.time)
  | 0x2004 => some (hi32 s.time)
  | 0x2008 => some (lo32 s.esc.svc)
  | 0x200C => some (hi32 s.esc.svc)
  | _ =>
    match strided off 0x2100 8 16, strided off 0x2104 8 16 with
    | some p, _ => some (match s.periodView p with | some e => BitVec.ofNat 32 e.period | none => 0)
    | none, some p => some (match s.periodView p with | some e => BitVec.ofNat 32 e.phase | none => 0)
    | none, none => none

/-- ESC_LATE read: RC (17 R421). -/
def State.lateRead (s : State) (quiet : Bool) : Word × State :=
  (BitVec.ofNat 32 s.esc.late, if quiet then s else { s with esc := { s.esc with late := 0 } })

/-! ### Remontoire and dial (09 R255-R258) -/

/-- RMT_GSTAT. -/
def State.gstat (s : State) (g : Nat) : Word :=
  let x := s.grpAt g
  BitVec.ofNat 32 (x.esc.toNat * 2 ^ 31 + (s.grpTripped g).toNat * 2 ^ 30 + x.last.toNat * 2 ^ 28 + x.consec * 2 ^ 16 + x.ccount.toNat)

/-- RMT_STAT. -/
def Rmt.stat (r : Rmt) : Word := BitVec.ofNat 32 (r.esc.toNat * 4 + r.safeOut.toNat * 2 + r.holdOut.toNat)

/-- Dial channel and register offset of a host offset (09 R255). -/
def dialPlace (off : Nat) : Option (Nat × Nat) := if 0x3400 ≤ off ∧ off < 0x3C00 then some ((off - 0x3400) / 0x40, off % 0x40) else none

/-- Registers 0x3000-0x3FFF but for DIAL_SEQ. -/
def State.rmtVal (s : State) (off : Nat) : Option Word :=
  match off with
  | 0x3000 => some (BitVec.ofNat 32 (s.rmt.startedSecured.toNat * 256 + s.rmt.holdLimit.toNat))
  | 0x3004 => some s.rmt.stat
  | 0x3008 => some (lo32 s.rmt.heldCnt)
  | 0x300C => some (hi32 s.rmt.heldCnt)
  | _ =>
    match strided off 0x3100 4 64, dialPlace off with
    | some g, _ => some (s.gstat g)
    | none, some (n, x) => some (if x = 0 then (s.dialAt n).sel else (s.dialAt n).buf.getD ((x - 8) / 4) 0)
    | none, none => none

/-- A write of 1 to RMT_GSTAT.ESC: the latch is released, with CONSEC, unless the block is in SAFE (09 R243). CONSEC of a group that is
not latched stays (log entry 73). -/
def State.gstatEsc (s : State) (g : Nat) : State :=
  if s.gf.safe then s else s.modGrp g (fun x => if x.esc then { x with esc := false, consec := 0 } else x)

/-- Writes registers 0x3000-0x3FFF. -/
def State.rmtWrite (s : State) (off : Nat) (v : Word) : State :=
  match off with
  | 0x3000 => if s.rmt.startedSecured then s else { s with rmt := { s.rmt with holdLimit := v.extractLsb' 0 8 } }
  | 0x3004 => { s with rmt := { s.rmt with
      esc := s.rmt.esc && !v.getLsbD 2, safeOut := s.rmt.safeOut && !v.getLsbD 1, holdOut := s.rmt.holdOut && !v.getLsbD 0 } }
  | _ =>
    match strided off 0x3100 4 64, dialPlace off with
    | some g, _ => if v.getLsbD 31 then s.gstatEsc g else s
    | none, some (n, x) => if x = 0 then s.dialSelect n v else s
    | none, none => s

/-! ### Windway (17 R422, 10 R278, R281) -/

/-- RTE_SCH: the union of the sample routes (R422, 13 R349). -/
def State.schView (s : State) (ch : Nat) : Word :=
  let l := s.routeGens.filterMap (fun g => (s.img g).routes.find? (fun r => r.kind == 0 && r.chan == ch))
  match l with
  | [] => 0
  | r :: _ => BitVec.ofNat 32 (2 ^ 31 + (l.foldl (fun a x => a ||| x.trains) 0) % 256 * 65536 + r.pg % 16 * 4096)

/-- The route that RTE_OCH shows: that of the image that owns the channel now, else from admission on that of the one image that routes
it (R422). -/
def State.ochRoute (s : State) (n : Nat) : Option RouteE :=
  match s.outRoute n with
  | some x => some x.2
  | none => s.routeGens.findSome? (fun g => (s.img g).routes.find? (fun r => r.kind == 1 && r.chan == n))

/-- RTE_OCH. -/
def State.ochView (s : State) (n : Nat) : Word :=
  match s.ochRoute n with
  | some r => BitVec.ofNat 32 (2 ^ 31 + r.world.toNat * 2 ^ 30 + r.owner % 1024 * 65536 + r.group % 64)
  | none => 0

/-- TRP_STATE. -/
def State.trpWord (s : State) (i : Nat) : Word :=
  BitVec.ofNat 32 ((List.range 16).foldl (fun a j => a + (s.tripState (16 * i + j)).toNat * 4 ^ j) 0)

/-- Registers 0x4000-0x4FFF. -/
def State.wayVal (s : State) (off : Nat) : Option Word :=
  match strided off 0x4000 4 128, strided off 0x4200 4 320, strided off 0x4800 4 128, strided off 0x4A00 4 4 with
  | some n, _, _, _ => some (s.schView n)
  | _, some n, _, _ => some (s.ochView n)
  | _, _, some n, _ => some (if n % 2 = 0 then (s.tripAt (n / 2)).cfg else (s.tripAt (n / 2)).ref)
  | _, _, _, some i => some (s.trpWord i)
  | _, _, _, _ => if off = 0x4A10 ∨ off = 0x4A14 then some 0 else none

/-- Writes registers 0x4000-0x4FFF; the guarding channels of an image started in SECURED are locked (10 R278). -/
def State.wayWrite (s : State) (off : Nat) (v : Word) : State :=
  if off = 0x4A10 then s.tripClearWord 0 v
  else if off = 0x4A14 then s.tripClearWord 32 v
  else match strided off 0x4800 4 128 with
    | some n =>
      if s.rmt.startedSecured && s.guards (n / 2) != [] then s
      else if n % 2 = 0 then s.tripCfg (n / 2) v
      else s.modTrip (n / 2) (fun t => { t with ref := v &&& 0xFFF00FFF })
    | none => s

/-! ### Global fault and tourbillon registers (12 R342) -/

/-- GF_STAT. -/
def Gf.stat (g : Gf) : Word :=
  BitVec.ofNat 32 (g.safe.toNat * 2 ^ 31 + g.degraded.toNat * 2 ^ 30 + g.safeWin.toNat * 2 ^ 16 + g.safeSrc.toNat * 256 + g.integ.toNat)

/-- Registers 0x5000-0x50FF. -/
def State.gfVal (s : State) (off : Nat) : Option Word :=
  match off with
  | 0x5000 => some s.gf.stat
  | 0x5004 => some (BitVec.ofNat 32 (s.gf.qtail.toNat * 65536 + s.gf.chkw.toNat))
  | 0x5008 => some (BitVec.ofNat 32 (s.gf.rotEn.toNat * 65536 + s.gf.rotMs.toNat))
  | _ => none

/-- A write of TRB_CTL (12 R342). -/
def State.trbCtl (s : State) (v : Word) : State :=
  let locked := s.rmt.startedSecured
  { s with gf := { s.gf with
      rotEn := v.getLsbD 16 || (locked && s.gf.rotEn)
      rotMs := ranged s.gf.rotMs (v.extractLsb' 0 16) 10 (if locked then 50 else 1000) } }

/-- Writes registers 0x5000-0x50FF. -/
def State.gfWrite (s : State) (off : Nat) (v : Word) : State :=
  match off with
  | 0x5000 => { s with gf := { s.gf with degraded := s.gf.degraded && !v.getLsbD 30 } }
  | 0x5004 => s.gfCtl v
  | 0x5008 => s.trbCtl v
  | _ => s

/-! ### Power, bellows and life cycle (15 R398) -/

/-- Code of a retention state. -/
def RetSt.code : RetSt → Nat
  | .active => 0 | .entering => 1 | .retained => 2 | .waking => 3

/-- PWR_STAT. -/
def Power.stat (p : Power) : Word := BitVec.ofNat 32 (p.ready.toNat * 2 ^ 31 + p.phase.toNat * 256 + p.retErr.toNat * 4 + p.retSt.code)

/-- LCS_STAT. -/
def Lcs.stat (x : Lcs) : Word :=
  BitVec.ofNat 32 (x.cmdErr.toNat * 2 ^ 11 + x.busy.isSome.toNat * 2 ^ 10 + x.tamper.toNat * 2 ^ 9 + x.keyProg.toNat * 256 + x.st.code)

/-- Registers 0x6000-0x7FFF but for BLW_PACE. -/
def State.powVal (s : State) (off : Nat) : Option Word :=
  match off with
  | 0x6000 => some (BitVec.ofNat 32 s.power.ret.toNat)
  | 0x6004 => some s.power.stat
  | 0x6008 => some (BitVec.ofNat 32 (s.power.guard.toNat * 65536 + s.power.band.toNat))
  | 0x600C => some (s.power.vblk.setWidth 32)
  | 0x7000 => some s.lcs.stat
  | 0x7004 => some 0
  | 0x7030 => some (lo32 s.chal)
  | 0x7034 => some (hi32 s.chal)
  | _ =>
    match strided off 0x7010 4 8, strided off 0x6100 0x10 8 with
    | some i, _ => some (s.lcs.keydig.get (fun _ => 0) i)
    | none, some t => some (orAbsent (s.hasTrain t) ((s.trainAt t).pace.mv.setWidth 32))
    | none, none => none

/-- A write of LCS_CMD (15 R393-R395). The bytes of a token come with the row TO_RETURNED: here host memory holds free values (log
entry 63). -/
def State.lcsCommand (s : State) (v : Word) : State :=
  let unlock := v.extractLsb' 16 16
  match v.toNat % 16 with
  | 1 => s.progKey unlock
  | 2 => s.lcsTo unlock .develop []
  | 3 => s.lcsTo unlock .secured []
  | 4 => if s.tokenRead unlock then let d := s.drawBytes 34; d.2.toReturned unlock d.1 else s.toReturned unlock []
  | 5 => s.lcsTo unlock .scrapped []
  | _ => { s with lcs := { s.lcs with cmdErr := true } }

/-- Writes registers 0x6000-0x7FFF. -/
def State.powWrite (s : State) (off : Nat) (v : Word) : State :=
  match off with
  | 0x6000 => if v.getLsbD 0 then s.retain else s.wake
  | 0x6004 => { s with power := { s.power with retErr := s.power.retErr && !v.getLsbD 2 } }
  | 0x6008 =>
    if s.rmt.startedSecured && s.anyRunning then s
    else { s with power := { s.power with
      guard := ranged s.power.guard (v.extractLsb' 16 8) 10 100, band := ranged s.power.band (v.extractLsb' 0 8) 20 100 } }
  | 0x7000 => { s with lcs := { s.lcs with cmdErr := s.lcs.cmdErr && !v.getLsbD 11, tamper := s.lcs.tamper && !v.getLsbD 9 } }
  | 0x7004 => s.lcsCommand v
  | _ =>
    match strided off 0x7010 4 8 with
    | some i =>
      if s.lcs.keyProg || s.lcs.busy == some .progKey then s
      else { s with lcs := { s.lcs with keydig := s.lcs.keydig.set (fun _ => 0) i v } }
    | none => s

/-! ### Debug and trace (14 R382) -/

/-- Registers 0x8000-0x8FFF but for TRC_RDATA. -/
def State.dbgVal (s : State) (off : Nat) : Option Word :=
  let d := s.dbg
  let trc := orAbsent s.variant.optional
  match off with
  | 0x8000 => some (BitVec.ofNat 32 (s.anyHalted.toNat * 2 + d.quietSkip.toNat))
  | 0x8004 => some (BitVec.ofNat 32 (d.quiet.toNat * 2 ^ 31 + d.eng.toNat))
  | 0x8008 => some (BitVec.ofNat 32 (d.frzStr.toNat * 8 + d.frzSwp.toNat * 4 + d.frzTrb.toNat * 2 + d.frzRmt.toNat))
  | 0x8010 => some (d.hgrp.extractLsb' 0 32)
  | 0x8014 => some (d.hgrp.extractLsb' 32 32)
  | 0x8018 => some ((d.hgrp.extractLsb' 64 8).setWidth 32)
  | 0x8020 => some (trc (BitVec.ofNat 32 (d.trcEn.toNat * 2 ^ 31 + d.sink.toNat * 2 ^ 30 + d.commitPk.toNat * 256 + d.syncInt.toNat)))
  | 0x8024 => some (trc (BitVec.ofNat 32 (d.ovf.toNat * 2 ^ 31 + d.buf.length % 2 ^ 14)))
  | 0x8030 => some (trc (lo32 d.stimen))
  | 0x8034 => some (trc (hi32 d.stimen))
  | _ => (strided off 0x8100 4 64).map (fun _ => 0)

/-- Writes a third of DBG_HGRP. -/
def setHgrp (g : BitVec 72) (i : Nat) (v : Word) : BitVec 72 :=
  (g &&& ~~~(0xFFFFFFFF#72 <<< (32 * i))) ||| (v.setWidth 72 <<< (32 * i))

/-- Writes registers 0x8000-0x8FFF; `src` is the SRC byte of a stimulus packet (14 R380). -/
def State.dbgWrite (s : State) (off : Nat) (v : Word) (src : Byte) : State :=
  let trc (f : Dbg → Dbg) : State := if s.variant.optional then s.modDbg f else s
  match off with
  | 0x8000 => s.modDbg (fun d => { d with quietSkip := d.quietSkip && !v.getLsbD 0 })
  | 0x8004 => s.modDbg (fun d => { d with quiet := v.getLsbD 31, eng := v.extractLsb' 0 7 })
  | 0x8008 => s.modDbg (fun d => { d with
      frzStr := v.getLsbD 3, frzSwp := v.getLsbD 2, frzTrb := v.getLsbD 1, frzRmt := v.getLsbD 0 })
  | 0x8010 => s.modDbg (fun d => { d with hgrp := setHgrp d.hgrp 0 v })
  | 0x8014 => s.modDbg (fun d => { d with hgrp := setHgrp d.hgrp 1 v })
  | 0x8018 => s.modDbg (fun d => { d with hgrp := setHgrp d.hgrp 2 v })
  | 0x8020 => if s.variant.optional then s.trcCtl v else s
  | 0x8024 => trc (fun d => { d with ovf := d.ovf && !v.getLsbD 31 })
  | 0x8030 => trc (fun d => { d with stimen := setHalf d.stimen false v })
  | 0x8034 => trc (fun d => { d with stimen := setHalf d.stimen true v })
  | _ =>
    match strided off 0x8100 4 64 with
    | some p => s.stimWrite p v src
    | none => s

/-- Engine and register offset in the per-engine debug blocks. -/
def dbgPlace (off : Nat) : Option (Nat × Nat) := if 0x9000 ≤ off ∧ off < 0xD800 then some ((off - 0x9000) / 0x100, off % 0x100) else none

/-- DBG_ESTAT. -/
def State.estat (s : State) (k : Nat) : Word :=
  let d := (s.engAt k).dbg
  let hl := match d.hl with
    | some i => let c := s.ctxAt (ctxId k i); c.gen.toNat * 2 ^ 11 + 2 ^ 10 + c.lctx % 1024
    | none => 0
  BitVec.ofNat 32 (d.halted.toNat * 2 ^ 31 + d.pend.toNat * 2 ^ 30 + d.deferred.toNat * 2 ^ 29 + d.cause.toNat * 2 ^ 26 +
    d.cmp.toNat * 2 ^ 24 + hl)

/-- A register of the debug block of engine `k` but for DBG_SKIPREL. -/
def State.edbgVal (s : State) (k x : Nat) : Option Word :=
  let d := (s.engAt k).dbg
  match x with
  | 0x00 => some (BitVec.ofNat 32 (d.frz.toNat * 256 + d.bkhalt.toNat * 128 + d.flow.toNat * 64 + d.flowctx.toNat * 32))
  | 0x04 => some (s.estat k)
  | 0x08 => some d.ewaddr
  | 0x0C => some (d.ctxm.setWidth 32)
  | _ =>
    match strided x 0x10 8 4, strided x 0x14 8 4, strided x 0x30 8 2, strided x 0x34 8 2 with
    | some i, _, _, _ => some (d.ac.get (fun _ => {}) i).addr
    | _, some i, _, _ => some (d.ac.get (fun _ => {}) i).ctl
    | _, _, some j, _ => some (d.dc.get (fun _ => {}) j).val
    | _, _, _, some j => some (d.dc.get (fun _ => {}) j).mask
    | _, _, _, _ => none

/-- A write of DBG_ECTL: the RW fields, then RESUME, STEP and HALT (14 R382; log entry 34). Without FLOW no outcome is kept (R380). -/
def State.ectl (s : State) (k : Nat) (v : Word) : State :=
  let s := s.modEDbg k (fun d => { d with
    frz := v.getLsbD 8, bkhalt := v.getLsbD 7, flow := v.getLsbD 6, flowctx := v.getLsbD 5, fbr := if v.getLsbD 6 then d.fbr else [] })
  let s := if v.getLsbD 30 then s.cmdResume k else s
  let s := if v.getLsbD 29 then s.cmdStep k else s
  if v.getLsbD 31 then s.cmdHalt k else s

/-- Writes a register of the debug block of a present engine. -/
def State.edbgWrite (s : State) (k x : Nat) (v : Word) : State :=
  let ac (i : Nat) (f : ACmp → ACmp) : State :=
    s.modEDbg k (fun d => { d with ac := d.ac.set (fun _ => {}) i (f (d.ac.get (fun _ => {}) i)) })
  let dc (i : Nat) (f : DCmp → DCmp) : State :=
    s.modEDbg k (fun d => { d with dc := d.dc.set (fun _ => {}) i (f (d.dc.get (fun _ => {}) i)) })
  match x with
  | 0x00 => s.ectl k v
  | 0x04 => s.modEDbg k (fun d => { d with deferred := d.deferred && !v.getLsbD 29 })
  | 0x0C => s.modEDbg k (fun d => { d with ctxm := v.extractLsb' 0 10 })
  | _ =>
    match strided x 0x10 8 4, strided x 0x14 8 4, strided x 0x30 8 2, strided x 0x34 8 2 with
    | some i, _, _, _ => ac i (fun c => { c with addr := v })
    | _, some i, _, _ => ac i (fun c => { c with ctl := v &&& (if i % 2 = 1 then 0x7FD else 0x7ED) })
    | _, _, some j, _ => dc j (fun c => { c with val := v })
    | _, _, _, some j => dc j (fun c => { c with mask := v })
    | _, _, _, _ => s

/-! ### Train blocks (17 R423-R425) -/

/-- A register of train block `t` but for fault windows; `none` for an undefined offset. -/
def State.trainRead (s : State) (t x : Nat) (quiet : Bool) : Option (Word × State) :=
  if x = 0 then some ((s.trainAt t).hev, s)
  else if 0x1000 ≤ x ∧ x < 0x1800 then some ((s.mboxAt t ((x - 0x1000) / 0x40)).word (x % 0x40 / 4), s)
  else s.trainCtlRead t x false quiet

/-- Writes a register of train block `t` but for fault windows. -/
def State.trainWrite (s : State) (t x : Nat) (v : Word) : State :=
  if x = 0 then s.modTrain t (fun y => { y with hev := y.hev &&& ~~~(v &&& ~~~y.hevNow) })
  else if 0x1000 ≤ x ∧ x < 0x1800 then s.modMbox t ((x - 0x1000) / 0x40) (fun m => m.hostWrite (x % 0x40 / 4) v)
  else (s.trainCtlWrite t x false v).getD s

/-! ### The whole map (17 R417, R418) -/

/-- Adds the unchanged state to a value. -/
def State.plain (s : State) (v : Option Word) : Option (Word × State) := v.map (fun x => (x, s))

/-- Offset `off` of register space as a read finds it: `none` where it is undefined on every variant, 0 of an absent unit. -/
def State.regRead (s : State) (off : Nat) (quiet : Bool) : Option (Word × State) :=
  if off % 4 ≠ 0 then none
  else match fwPlace off with
    | some (w, x) =>
      if !s.hasWindow w then some (0, s)
      else if x = 0x1C then some (s.fwCapRead w quiet)
      else if x = 0x28 then some (s.fwCntRead w quiet)
      else some ((s.fwAt w).word x, s)
    | none =>
      match off / 0x1000 with
      | 0 => s.plain (s.globalVal off)
      | 1 => s.plain (s.rglVal off)
      | 2 => if off = 0x2010 then some (s.lateRead quiet) else s.plain (s.escVal off)
      | 3 =>
        match dialPlace off with
        | some (n, 4) => some (s.dialSeq n quiet)
        | _ => s.plain (s.rmtVal off)
      | 4 => s.plain (s.wayVal off)
      | 5 => s.plain (s.gfVal off)
      | 6 =>
        match strided off 0x6104 0x10 8 with
        | some t => some (if s.hasTrain t then s.blwPace t quiet else (0, s))
        | none => s.plain (s.powVal off)
      | 7 => s.plain (s.powVal off)
      | 8 =>
        if off = 0x8028 then some (if s.variant.optional then s.trcRead quiet else (0, s)) else s.plain (s.dbgVal off)
      | _ =>
        if 0x10000 ≤ off ∧ off < 0x90000 then
          let t := off / 0x10000 - 1
          (s.trainRead t (off % 0x10000) quiet).map (fun r => if s.hasTrain t then r else (0, s))
        else match dbgPlace off with
          | some (k, x) =>
            if x = 0x40 then some (if s.hasEngine k then s.skiprelRead k quiet else (0, s))
            else s.plain ((s.edbgVal k x).map (orAbsent (s.hasEngine k)))
          | none => none

/-- The write of a defined register of a present unit. -/
def State.regStore (s : State) (off : Nat) (v : Word) (src : Byte) : State :=
  match fwPlace off with
  | some (w, x) => if s.hasWindow w then s.fwWrite w x v else s
  | none =>
    match off / 0x1000 with
    | 0 => s.globalWrite off v
    | 1 => s.rglWrite off v
    | 3 => s.rmtWrite off v
    | 4 => s.wayWrite off v
    | 5 => s.gfWrite off v
    | 6 => s.powWrite off v
    | 7 => s.powWrite off v
    | 8 => s.dbgWrite off v src
    | _ =>
      if 0x10000 ≤ off ∧ off < 0x90000 then
        let t := off / 0x10000 - 1
        if s.hasTrain t then s.trainWrite t (off % 0x10000) v else s
      else match dbgPlace off with
        | some (k, x) => if s.hasEngine k then s.edbgWrite k x v else s
        | none => s

/-- A write of offset `off` of register space; `none` where it is undefined on every variant. -/
def State.regWrite (s : State) (off : Nat) (v : Word) (src : Byte) : Option State :=
  (s.regRead off true).map (fun _ => s.regStore off v src)

/-- A host read of register space: value, response and state (15 R390, R396, 00 R5). -/
def State.hostRead (s : State) (off : Nat) (quiet : Bool) : Word × BitVec 2 × State :=
  if !s.power.ready then (if off = 0x6004 then s.power.stat else 0, 0, s)
  else match s.regRead off quiet with
    | none => (0, 2, s)
    | some r => if s.lcs.st == .scrapped && off != 0x6004 && off != 0x7000 then (0, 0, s) else (r.1, 0, r.2)

/-- A host write of register space: response and state. A retention command before READY is refused with RETERR (15 R388). -/
def State.hostWrite (s : State) (off : Nat) (v : Word) (prot1 : Bool) (src : Byte) : BitVec 2 × State :=
  if prot1 && s.lcs.st == .secured && protOffset off then (2, s)
  else if !s.power.ready then (0, if off = 0x6000 ∧ v.getLsbD 0 then s.retain else s)
  else match s.regWrite off v src with
    | none => (2, s)
    | some s => (0, s)

/-! ### Memory windows (11 R310, 16 R412, 11 R301) -/

/-- A key lies in a master copy of a resident image (12 R337). -/
def State.inMaster (s : State) (a : Nat) : Bool :=
  match arrOf a with
  | (.tm t, x) => s.gens.any (fun g => (s.img g).machs.any (fun m => m.train == t && decide (m.master ≤ x ∧ x < m.master + m.mlen)))
  | _ => false

/-- The unit of a window offset is present; `none` where the offset is undefined. -/
def State.windowUnit (s : State) (off : Nat) : Option Bool :=
  if off < 0x2000000 then some (s.hasTrain (off / 0x200000 - 8))
  else if off < 0x2480000 then some (s.hasEngine (off / 0x10000 - 0x200))
  else none

/-- In SECURED, local stores and master copies are closed to writes (R310). -/
def State.windowLocked (s : State) (a n : Nat) : Bool :=
  s.lcs.st == .secured && (decide (0x2000000 ≤ a ∧ a < 0x4000000) || (List.range n).any (fun i => s.inMaster (a + i)))

/-- A read of the 64-bit word at `w`: its value, whether it was in error, and the state (R286, R300, R301). -/
def State.windowWord (s : State) (w : Nat) : Word64 × Bool × State :=
  if s.bankFenced w then (0, false, s)
  else if s.isUE w then (0, true, s.raiseMemUE w)
  else (s.rd64 w, false, s.noteCE w 8)

/-- A write of the strobed bytes of the 64-bit word at `w`: whether it was refused, and the state (R286). -/
def State.windowPut (s : State) (w : Nat) (data : Word64) (mask : BitVec 8) : Bool × State :=
  if mask = 0 then (false, s)
  else (mask != 0xFF && !s.bankFenced w && s.isUE w, s.retireEntry { line := w, data := data, mask := mask })

/-- The gate of a window access: a response that ends it, before READY at every offset (15 R390), or `none`. -/
def State.windowGate (s : State) (off : Nat) : Option (BitVec 2) :=
  if !s.power.ready then some 0
  else match s.windowUnit off with
  | none => some 2
  | some false => some 0
  | some true => if s.power.retSt != .active then some 2 else none

/-- A read beat of `n` bytes at `off`: the two words of its 16-byte row that it touches. -/
def State.windowRead (s : State) (off n : Nat) : BitVec 128 × BitVec 2 × State :=
  match s.windowGate off with
  | some r => (0, r, s)
  | none =>
    if s.lcs.st == .scrapped then (0, 0, s)
    else
      let row := off / 16 * 16
      let last := off / n * n + n - 1
      let a := if off < row + 8 then s.windowWord row else (0, false, s)
      let b := if row + 8 ≤ last then a.2.2.windowWord (row + 8) else (0, false, a.2.2)
      let bad := a.2.1 || b.2.1
      let lanes : BitVec 128 := ((1#128 <<< (8 * (last + 1 - row))) - 1) &&& ~~~((1#128 <<< (8 * (off - row))) - 1)
      (if bad then 0 else (b.1 ++ a.1) &&& lanes, if bad then 2 else 0, b.2.2)

/-- A write beat of `n` bytes at `off` with the strobes of its 16-byte row. -/
def State.windowWrite (s : State) (off n : Nat) (strb : BitVec 16) (data : BitVec 128) : BitVec 2 × State :=
  match s.windowGate off with
  | some r => (r, s)
  | none =>
    let row := off / 16 * 16
    let last := off / n * n + n - 1
    let lanes : BitVec 16 := BitVec.ofNat 16 (2 ^ (last + 1 - row) - 2 ^ (off - row))
    let m := strb &&& lanes
    if s.windowLocked off (last + 1 - off) then (2, s)
    else
      let a := s.windowPut row (data.extractLsb' 0 64) (m.extractLsb' 0 8)
      let b := a.2.windowPut (row + 8) (data.extractLsb' 64 64) (m.extractLsb' 8 8)
      (if a.1 || b.1 then 2 else 0, b.2)

/-- A beat size that the bus has. -/
def beatOk (n : Nat) : Bool := n == 1 || n == 2 || n == 4 || n == 8 || n == 16

/-! ### Meanings -/

/-- TRP_CLR: a write of TRP_CLR_LO or TRP_CLR_HI (10 R280). -/
def execTrpClr (hi : Bool) (v : Word) (a : HAcc) (s : State) : Res :=
  .next (s.hostDo a (if hi then 0x4A14 else 0x4A10) (fun s => s.tripClearWord (if hi then 32 else 0) v))

/-- RMT_GSTAT_ESC: a write of 1 to RMT_GSTAT[g].ESC (09 R243). -/
def execRmtGstatEsc (g : Nat) (a : HAcc) (s : State) : Res :=
  if 64 ≤ g then .fault .noSuchUnit else .next (s.hostDo a (0x3100 + 4 * g) (fun s => s.gstatEsc g))

/-- DIAL_SEL (09 R256). -/
def execDialSel (n : Nat) (v : Word) (a : HAcc) (s : State) : Res :=
  if 32 ≤ n then .fault .noSuchUnit else .next (s.hostDo a (0x3400 + 0x40 * n) (fun s => s.dialSelect n v))

/-- DIAL_SEQ: the host's read, which is never quiet (09 R257). -/
def execDialSeq (n : Nat) (s : State) : Res :=
  if 32 ≤ n then .fault .noSuchUnit else .next (s.hostGet (fun s => s.dialSeq n false))

/-- ESC_LATE: the host's read (17 R421). -/
def execEscLate (s : State) : Res := .next (s.hostGet (fun s => s.lateRead false))

/-- HOST_REG_WRITE (17 R417-R425). -/
def execHostRegWrite (off : Nat) (v : Word) (a : HAcc) (s : State) : Res :=
  .next (
    if !a.ok || decide (0x1000000 ≤ off) then s.answer 2
    else let r := s.hostWrite off v a.prot1 0xFE; r.2.answer r.1)

/-- The answer of a read beat. -/
def State.answerBeat (s : State) (v : BitVec 128) (r : BitVec 2) : State := { s with host := { rdata := v, resp := r } }

/-- HOST_WINDOW_ACCESS: one beat. Below the windows it is a register access, which must be a single aligned word (16 R412). -/
def execHostWindowAccess (off : Nat) (wr : Bool) (strb : BitVec 16) (data : BitVec 128) (a : WinAcc) (size : Nat) (s : State) : Res :=
  .next (
    if !a.burstOk || !beatOk size then (if wr then s.answer 2 else s.answerBeat 0 2)
    else if off < 0x1000000 then
      if !a.reg.ok ∨ size ≠ 4 ∨ off % 4 ≠ 0 ∨ (wr ∧ strb.extractLsb' (off % 16) 4 ≠ 0xF) then (if wr then s.answer 2 else s.answerBeat 0 2)
      else if wr then
        let r := s.hostWrite off (data.extractLsb' (8 * (off % 16)) 32) a.reg.prot1 0xFE
        r.2.answer r.1
      else
        let r := s.hostRead off false
        r.2.2.answerBeat (r.1.setWidth 128 <<< (8 * (off % 16))) r.2.1
    else if wr then let r := s.windowWrite off size strb data; r.2.answer r.1
    else let r := s.windowRead off size; r.2.2.answerBeat r.1 r.2.1)

/-- HOST_WINDOW_TIMEOUT: the access ends with SLVERR and writes nothing (R310). -/
def execHostWindowTimeout (s : State) : Res := .next (s.answer 2)

end Sys2Proof.Machine
end

