-- ==== Sys2Proof/Machine/Tap.lean ====
section
/-! DEFINITION. The test access port and the debug master (spec 14 R362-R365, R369, R377). -/

namespace Sys2Proof.Machine

/-- Changes the TAP. -/
def State.modTap (s : State) (f : Tap → Tap) : State := { s with tap := f s.tap }

/-! ### The controller (R362) -/

/-- The controller's next state at an edge of `tap_tck`, by `tap_tms` (R362: the state machine of IEEE 1149.1; log entry 12). -/
def TapSt.next : TapSt → Bool → TapSt
  | .testLogicReset, false => .runTestIdle
  | .testLogicReset, true => .testLogicReset
  | .runTestIdle, tms => if tms then .selectDr else .runTestIdle
  | .selectDr, tms => if tms then .selectIr else .captureDr
  | .captureDr, tms => if tms then .exit1Dr else .shiftDr
  | .shiftDr, tms => if tms then .exit1Dr else .shiftDr
  | .exit1Dr, tms => if tms then .updateDr else .pauseDr
  | .pauseDr, tms => if tms then .exit2Dr else .pauseDr
  | .exit2Dr, tms => if tms then .updateDr else .shiftDr
  | .updateDr, tms => if tms then .selectDr else .runTestIdle
  | .selectIr, tms => if tms then .testLogicReset else .captureIr
  | .captureIr, tms => if tms then .exit1Ir else .shiftIr
  | .shiftIr, tms => if tms then .exit1Ir else .shiftIr
  | .exit1Ir, tms => if tms then .updateIr else .pauseIr
  | .pauseIr, tms => if tms then .exit2Ir else .pauseIr
  | .exit2Ir, tms => if tms then .updateIr else .shiftIr
  | .updateIr, tms => if tms then .selectDr else .runTestIdle

/-- `tap_tms` over an instruction scan and a scan of an `n`-bit data register that begin and end in Run-Test/Idle. -/
def scanTms (n : Nat) : List Bool :=
  [false, true, true, false, false] ++ List.replicate 4 false ++ [true, true, false] ++
    [true, false, false] ++ List.replicate (n - 1) false ++ [true, true, false]

/-- The controller after `tap_tms` has taken these levels. -/
def Tap.walk (t : Tap) (tms : List Bool) : Tap := { t with st := tms.foldl TapSt.next t.st }

/-! ### Instructions of the port (R362, R363) -/

/-- IDCODE: the instruction register and the captured code. -/
def execIdcode (s : State) : Res :=
  .next (s.modTap (fun t => { t.walk (scanTms 32) with ir := 0b00001, cap := s.idcode.setWidth 34 }))

/-- BYPASS: captures 0. -/
def execBypass (s : State) : Res := .next (s.modTap (fun t => { t.walk (scanTms 1) with ir := 0b11111, cap := 0 }))

/-- DADDR: captures SPACE and ADDR as they stand, then takes the new ones. -/
def execDaddr (v : BitVec 34) (s : State) : Res :=
  .next (s.modTap (fun t => { t.walk (scanTms 34) with
    ir := 0b01000, cap := t.space ++ t.addr, addr := v.extractLsb' 0 32, space := v.extractLsb' 32 2 }))

/-- STATUS (R363). -/
def Tap.status (t : Tap) : BitVec 2 := if t.acc.isSome then 1 else if t.err then 2 else 0

/-- DDATA: captures STATUS and RDATA, and starts an access unless one is in flight. -/
def execDdata (v : BitVec 34) (s : State) : Res :=
  .next (s.modTap (fun t => { t.walk (scanTms 34) with
    ir := 0b01001, cap := t.status ++ t.rdata
    acc := if t.acc.isSome then t.acc else
      some { addr := t.addr, space := t.space, wr := v.getLsbD 32, data := v.extractLsb' 0 32, inc := v.getLsbD 33
             served := s.power.retSt == .active } }))

/-- TAP_RESET: five edges with `tap_tms` high reach Test-Logic-Reset, and IDCODE is the instruction. Update-DR has started the access in
flight, so it goes on (R362, R363). -/
def execTapReset (s : State) : Res := .next (s.modTap (fun t => { t.walk (List.replicate 5 true) with ir := 0b00001 }))

/-! ### What an access does (R364) -/

/-- The end of an access: the state, the data of a read, whether it ended OK, and whether the lifecycle denied it. -/
structure DRes where
  s : State
  data : Option Word := none
  ok : Bool := true
  denied : Bool := false

/-- An access that ends ERR without effect. -/
def DRes.err (s : State) : DRes := { s := s, ok := false }
/-- An access that the lifecycle denies (R377). -/
def DRes.deny (s : State) : DRes := { s := s, ok := false, denied := true }

/-- The sealed region is open to debug (R377, 11 R307). -/
def State.sealedOpen (s : State) : Bool := s.lcs.st == .blank || s.lcs.st == .develop

/-- SPACE 0b00: host space, as a host access would reach it. -/
def State.dbgHost (s : State) (a : DAcc) : DRes :=
  let off := a.addr.toNat
  let sh := off % 16
  if off < 0x1000000 then
    if a.wr then let r := s.hostWrite off a.data false 0xFF; { s := r.2, ok := r.1 != 2 }
    else let r := s.hostRead off s.dbg.quiet; { s := r.2.2, data := some r.1, ok := r.2.1 != 2 }
  else if a.wr then
    let r := s.windowWrite off 4 (0xF#16 <<< sh) (a.data.setWidth 128 <<< (8 * sh))
    { s := r.2, ok := r.1 != 2 }
  else
    let r := s.windowRead off 4
    { s := r.2.2, data := some ((r.1 >>> (8 * sh)).setWidth 32), ok := r.2.1 != 2 }

/-- A read of the aligned 32-bit word at memory key `a`. -/
def State.dbgMemRead (s : State) (a : Nat) : DRes :=
  let r := s.windowWord (a / 8 * 8)
  { s := r.2.2, ok := !r.2.1, data := some ((r.1 >>> (8 * (a % 8))).setWidth 32) }

/-- A write of the aligned 32-bit word at memory key `a`. -/
def State.dbgMemWrite (s : State) (a : Nat) (v : Word) : DRes :=
  let r := s.windowPut (a / 8 * 8) (v.setWidth 64 <<< (8 * (a % 8))) (0xF#8 <<< (a % 8))
  { s := r.2, ok := !r.1 }

/-- Local store, train memory or sealed region through SPACE 0b01 (11 R307, R310, R377; log entry 37). -/
def State.dbgMem (s : State) (key : Nat) (a : DAcc) : DRes :=
  let sealedKey := decide (0x4000000 ≤ key)
  if s.power.retSt != .active then .err s
  else if sealedKey && (!s.sealedOpen || s.lcs.wiping) then { s := s, data := if a.wr then none else some 0 }
  else if a.wr then (if s.windowLocked key 4 then .err s else s.dbgMemWrite key a.data)
  else s.dbgMemRead key

/-- The rights of the debug master in the map of engine `k`: Machine level, and no context (R364; log entry 37). -/
def State.dbgWho (s : State) (k : Nat) : Who :=
  { k := k, id := none, gen := s.olderGen, lctx := 0x400, level := 3, world := false, db := true, sel := false }

/-- A sample window read; a quiet one sets and observes no mark (R365). -/
def State.dbgSample (s : State) (k o : Nat) (quiet : Bool) : DRes :=
  let v := (s.recAt (trainOf k) (o / 8)).word
  let w : Word := (v >>> (8 * (o % 8))).setWidth 32
  if quiet then { s := s, data := some w }
  else
    let x := s.readSample k (s.engAt k).mb (o / 8)
    { s := x.2.2.1.modEng k (fun e => { e with mb := x.2.2.2 }), data := some w }

/-- A read of a word behind a route or a sender's right. -/
def State.dbgPeek (s : State) (k : Nat) (r : Rgn) (o : Nat) : DRes :=
  match r with
  | .sample => s.dbgSample k o s.dbg.quiet
  | .staging => { s := s, data := some (s.outAt (o / 4)).staging }
  | .cvc => { s := s, data := some (s.cvcAt (o / 4)).status }
  | .mbox => { s := s, data := some ((s.mboxAt (trainOf k) (o / 64)).word (o % 64 / 4)) }
  | _ => { s := s, data := some 0 }

/-- A window of the engine address map that is not plain memory. A bus error ends ERR. Where a context would need a route or a
sender's right, which the debug master has none of, a write writes nothing (04 R101, 06 R427) and a read gives the word (log entry
37). -/
def State.dbgWindow (s : State) (k : Nat) (r : Rgn) (a : DAcc) : DRes :=
  let w := s.dbgWho k
  let x := a.addr.toNat
  let o := x % 0x10000
  let barred (f : Flt) : Bool := f.code == (Flt.berr 0).code || f.code == (Flt.misalign 0).code
  let chk := s.winCheck w r x 4 a.wr
  match (match chk with | .error f => some f | .ok _ => none) with
  | some f => if barred f then .err s else if a.wr then { s := s } else s.dbgPeek k r o
  | none =>
    match r, a.wr with
    | .sample, _ => s.dbgSample k o s.dbg.quiet
    | .pub, _ =>
      if s.power.retSt != .active then .err s
      else match s.pubPlace w.gen (x / 0x10000 - 0x230) o 4 with
        | some (some key) => s.dbgMemRead key
        | _ => { s := s, data := some 0 }
    | .ectl, false => let v := s.ectlLoad k o; { s := v.2, data := some v.1 }
    | .ectl, true =>
      if 0x800 ≤ o ∧ o < 0x900 then { s := s.stimWrite ((o - 0x800) / 4) a.data 0xFF } else { s := s.ectlStore k o a.data }
    | .tctl, false => let v := s.tctlLoad k o s.dbg.quiet; { s := v.2, data := some v.1 }
    | .tctl, true => { s := (s.trainCtlWrite (trainOf k) o true a.data).getD s }
    | r, false => s.dbgPeek k r o
    | _, true => { s := s }

/-- SPACE 0b01: the engine address map of engine DBG_MCTL.ENG. -/
def State.dbgEngine (s : State) (a : DAcc) : DRes :=
  let k := s.dbg.eng.toNat
  let x := a.addr.toNat
  if !s.hasEngine k then .err s
  else match rgnOf x with
    | none => .err s
    | some .ls => s.dbgMem (lsKey k x) a
    | some .tm => s.dbgMem (tmKey (trainOf k) (x % 0x200000)) a
    | some .sealed => s.dbgMem (seKey (trainOf k) (x % 0x8000)) a
    | some r => s.dbgWindow k r a

/-- STATE code of a context (03 R84). -/
def CS.code : CS → Nat
  | .unused => 0 | .idle => 1 | .running => 2 | .stopped => 3 | .halted => 4 | .restoring => 5

/-- Word `i` of a context's bank and record (R369). -/
def Ctx.dbgWord (c : Ctx) (i : Nat) : Word :=
  if i < 32 then c.dw.get (fun _ => 0) i
  else if i < 48 then c.rw.get (fun _ => 0) (i - 32)
  else if i < 56 then c.auxR (i - 48)
  else if i < 64 then c.shw (i - 56)
  else match i with
    | 64 => c.resumePc
    | 65 => c.q.extractLsb' 0 32
    | 66 => c.q.extractLsb' 32 32
    | 67 => (c.q.extractLsb' 64 8).signExtend 32
    | 68 => BitVec.ofNat 32 (c.docc * 65536 + c.dtop.toNat)
    | 69 => BitVec.ofNat 32 (c.rocc * 65536 + c.rtop.toNat)
    | 70 => BitVec.ofNat 32 (c.gen.toNat * 2 ^ 31 + c.db.toNat * 2 ^ 30 + c.st.code * 2 ^ 27 + c.dused % 8192)
    | 71 => c.evpend
    | 72 => BitVec.ofNat 32 (c.nest % 65536 * 65536 + c.world.toNat * 8 + c.level.toNat)
    | _ => 0

/-- A value written to a word of the shadow bank: reserved bits stay 0, and LEVEL keeps its value against 0b10 (07 R200). -/
def shadowField (i : Nat) (old v : Word) : Word :=
  match i with
  | 0 => v &&& 0xFFFFFFFE
  | 1 =>
    let v := v &&& 0xCF000F1F
    if v.extractLsb' 24 2 = 2 then (v &&& 0xFCFFFFFF) ||| (old &&& 0x03000000) else v
  | 2 => v &&& 0x3FFFF
  | 4 => v &&& 0x1FFFF
  | 6 => v &&& 0x1F3F
  | _ => v

/-- Writes word `i` of a context's bank and record (R369). A word of the bank gets valid check bits (log entry 44). -/
def Ctx.dbgSet (c : Ctx) (i : Nat) (v : Word) : Ctx :=
  if i < 32 then { c.valid i with dw := c.dw.set (fun _ => 0) i v }
  else if i < 48 then { c.valid i with rw := c.rw.set (fun _ => 0) (i - 32) v }
  else if i < 56 then c.setAux (i - 48) v
  else if i < 63 then c.setSh (i - 56) (shadowField (i - 56) (c.shw (i - 56)) v)
  else match i with
    | 64 => { c with pc := v &&& 0xFFFFFFFE, rep := false }
    | 65 => { c with q := c.q.extractLsb' 32 40 ++ v }
    | 66 => { c with q := (c.q.extractLsb' 64 8 ++ v) ++ c.q.extractLsb' 0 32 }
    | 67 => { c with q := v.extractLsb' 0 8 ++ c.q.extractLsb' 0 64 }
    | 71 => { c with evpend := v }
    | _ => c

/-- The HALTED context that an address names (R364, R369). -/
def State.haltedAt (s : State) (lctx : Nat) : Option Nat :=
  match s.selGen lctx with
  | some gen =>
    match s.locate gen lctx with
    | some id => if (s.ctxAt id).st == .halted then some id else none
    | none => none
  | none => none

/-- SPACE 0b10: the bank and record of a halted context. -/
def State.dbgContext (s : State) (a : DAcc) : DRes :=
  let i := a.addr.toNat % 256
  match s.haltedAt (a.addr.extractLsb' 16 10).toNat with
  | none => .err s
  | some id =>
    if !a.wr then { s := s, data := some ((s.ctxAt id).dbgWord i) }
    else if s.lcs.st == .secured && (s.ctxAt id).world then .deny s
    else { s := s.modCtx id (fun c => c.dbgSet i a.data) }

/-- The access reaches an array, so that it can wait for a free cycle (R364, 11 R310). -/
def DAcc.array (a : DAcc) : Bool :=
  match a.space.toNat with
  | 0 => decide (0x1000000 ≤ a.addr.toNat)
  | 1 => match rgnOf a.addr.toNat with
    | some .ls | some .tm | some .sealed | some .pub => true
    | _ => false
  | _ => false

/-- The access itself. -/
def State.dbgAccess (s : State) (a : DAcc) (timeout : Bool) : DRes :=
  if s.lcs.st == .scrapped then .deny s
  else if a.space = 3 ∨ (a.space ≠ 2 ∧ a.addr.extractLsb' 0 2 ≠ 0) ∨ (timeout ∧ a.array) then .err s
  else match a.space.toNat with
    | 0 => s.dbgHost a
    | 1 => s.dbgEngine a
    | _ => s.dbgContext a

/-- An access that was under way at a retention entry finds the arrays accessible until they lose their rails (15 R388). -/
def State.dbgServe (s : State) (a : DAcc) (timeout : Bool) : DRes :=
  if a.array && a.served && s.power.retSt == .entering then
    let r := { s with power := { s.power with retSt := .active } }.dbgAccess a timeout
    { r with s := { r.s with power := { r.s.power with retSt := .entering } } }
  else s.dbgAccess a timeout

/-- The access waits: until a reset's wipe has ended, no other agent reaches an array or a bore (11 R309, 15 R389). -/
def State.wipeDue (s : State) (a : DAcc) : Bool :=
  !s.power.ready && decide (s.power.phase.toNat < 4) && (a.space == 2 || (a.space == 1 && a.array))

/-- The end of the access in flight: STATUS, RDATA, the address step and the sources of window 87 (R363, R364, R377, R378). -/
def State.dbgDone (s : State) (a : DAcc) (timeout : Bool) : State :=
  let r := s.dbgServe a timeout
  let s := r.s.modTap (fun t => { t with
    acc := none, err := !r.ok, addr := if a.inc then t.addr + 4 else t.addr
    rdata := if a.wr then t.rdata else r.data.getD t.rdata })
  let s := if r.ok then s else s.raiseInfo { w := 87, src := 3 }
  if r.denied then s.raiseLow { w := 87, src := 4 } else s

/-- DEBUG_ACCESS_DONE (R364). -/
def execDebugAccessDone (timeout : Bool) (s : State) : Res :=
  .next (match s.tap.acc with
    | some a => if s.wipeDue a && !timeout then s else s.dbgDone a timeout
    | none => s)

end Sys2Proof.Machine
end

