-- ==== Sys2Proof/Machine/Dispatch.lean ====
section
/-! DEFINITION. The dispatch: one arm per command, each one call of its meaning. -/

namespace Sys2Proof.Machine

/-- The effect of a command on everything but the queue. -/
def exec (i : Instr) (s : State) : Host.Outcome State Fault Refusal :=
  match i with
  | .lit k s15 => Sys2Proof.Machine.execLit k s15 s
  | .litx k u8 => Sys2Proof.Machine.execLitx k u8 s
  | .ldk k u8 => Sys2Proof.Machine.execLdk k u8 s
  | .dup k => Sys2Proof.Machine.execDup k s
  | .drop k => Sys2Proof.Machine.execDrop k s
  | .swap k => Sys2Proof.Machine.execSwap k s
  | .overS k => Sys2Proof.Machine.execOver k s
  | .nip k => Sys2Proof.Machine.execNip k s
  | .tuck k => Sys2Proof.Machine.execTuck k s
  | .rot k => Sys2Proof.Machine.execRot k s
  | .minusRot k => Sys2Proof.Machine.execMinusRot k s
  | .twoDup k => Sys2Proof.Machine.execTwoDup k s
  | .twoDrop k => Sys2Proof.Machine.execTwoDrop k s
  | .twoSwap k => Sys2Proof.Machine.execTwoSwap k s
  | .twoOver k => Sys2Proof.Machine.execTwoOver k s
  | .toR k => Sys2Proof.Machine.execToR k s
  | .rFrom k => Sys2Proof.Machine.execRFrom k s
  | .rFetch k => Sys2Proof.Machine.execRFetch k s
  | .rdrop k => Sys2Proof.Machine.execRdrop k s
  | .pick k x => Sys2Proof.Machine.execPick k x s
  | .poke k x => Sys2Proof.Machine.execPoke k x s
  | .add k => Sys2Proof.Machine.execAdd k s
  | .adc k => Sys2Proof.Machine.execAdc k s
  | .sub k => Sys2Proof.Machine.execSub k s
  | .sbc k => Sys2Proof.Machine.execSbc k s
  | .rsub k => Sys2Proof.Machine.execRsub k s
  | .neg k => Sys2Proof.Machine.execNeg k s
  | .cmp k => Sys2Proof.Machine.execCmp k s
  | .tst k => Sys2Proof.Machine.execTst k s
  | .and k => Sys2Proof.Machine.execAnd k s
  | .or k => Sys2Proof.Machine.execOr k s
  | .xor k => Sys2Proof.Machine.execXor k s
  | .andn k => Sys2Proof.Machine.execAndn k s
  | .not k => Sys2Proof.Machine.execNot k s
  | .inc k => Sys2Proof.Machine.execInc k s
  | .dec k => Sys2Proof.Machine.execDec k s
  | .min k => Sys2Proof.Machine.execMin k s
  | .max k => Sys2Proof.Machine.execMax k s
  | .minu k => Sys2Proof.Machine.execMinu k s
  | .maxu k => Sys2Proof.Machine.execMaxu k s
  | .abs k => Sys2Proof.Machine.execAbs k s
  | .sel k => Sys2Proof.Machine.execSel k s
  | .adds k => Sys2Proof.Machine.execAdds k s
  | .subs k => Sys2Proof.Machine.execSubs k s
  | .negs k => Sys2Proof.Machine.execNegs k s
  | .abss k => Sys2Proof.Machine.execAbss k s
  | .clamp k => Sys2Proof.Machine.execClamp k s
  | .shls k => Sys2Proof.Machine.execShls k s
  | .shl k a => Sys2Proof.Machine.execShl k a s
  | .shr k a => Sys2Proof.Machine.execShr k a s
  | .sar k a => Sys2Proof.Machine.execSar k a s
  | .ror k a => Sys2Proof.Machine.execRor k a s
  | .sarr k a => Sys2Proof.Machine.execSarr k a s
  | .mul k => Sys2Proof.Machine.execMul k s
  | .mulh k => Sys2Proof.Machine.execMulh k s
  | .mulhu k => Sys2Proof.Machine.execMulhu k s
  | .muld k => Sys2Proof.Machine.execMuld k s
  | .muldu k => Sys2Proof.Machine.execMuldu k s
  | .mulfr k => Sys2Proof.Machine.execMulfr k s
  | .divs k n => Sys2Proof.Machine.execDivs k n s
  | .divu k n => Sys2Proof.Machine.execDivu k n s
  | .mac k => Sys2Proof.Machine.execMac k s
  | .msu k => Sys2Proof.Machine.execMsu k s
  | .mpy k => Sys2Proof.Machine.execMpy k s
  | .mack k => Sys2Proof.Machine.execMack k s
  | .qclr k => Sys2Proof.Machine.execQclr k s
  | .qrd k => Sys2Proof.Machine.execQrd k s
  | .qrdc k => Sys2Proof.Machine.execQrdc k s
  | .qsh k => Sys2Proof.Machine.execQsh k s
  | .qsat k => Sys2Proof.Machine.execQsat k s
  | .qldh k => Sys2Proof.Machine.execQldh k s
  | .qst k => Sys2Proof.Machine.execQst k s
  | .qld k => Sys2Proof.Machine.execQld k s
  | .xmac k n => Sys2Proof.Machine.execXmac k n s
  | .xmsu k n => Sys2Proof.Machine.execXmsu k n s
  | .xmacr k n => Sys2Proof.Machine.execXmacr k n s
  | .xsig k n => Sys2Proof.Machine.execXsig k n s
  | .bfx k => Sys2Proof.Machine.execBfx k s
  | .bfxs k => Sys2Proof.Machine.execBfxs k s
  | .bfi k => Sys2Proof.Machine.execBfi k s
  | .clz k => Sys2Proof.Machine.execClz k s
  | .cls k => Sys2Proof.Machine.execCls k s
  | .popc k => Sys2Proof.Machine.execPopc k s
  | .brev k => Sys2Proof.Machine.execBrev k s
  | .perm k => Sys2Proof.Machine.execPerm k s
  | .loadViaA k an width sx upd => Sys2Proof.Machine.execLoadViaA k an width sx upd s
  | .storeViaA k an width upd => Sys2Proof.Machine.execStoreViaA k an width upd s
  | .loadWithOffset k an u6 => Sys2Proof.Machine.execLoadWithOffset k an u6 s
  | .storeWithOffset k an u6 => Sys2Proof.Machine.execStoreWithOffset k an u6 s
  | .auxPush k r => Sys2Proof.Machine.execAuxPush k r s
  | .auxPop k r => Sys2Proof.Machine.execAuxPop k r s
  | .auxExchange k r => Sys2Proof.Machine.execAuxExchange k r s
  | .jmp k s13 => Sys2Proof.Machine.execJmp k s13 s
  | .bcc k ccc s10 => Sys2Proof.Machine.execBcc k ccc s10 s
  | .tz k s10 => Sys2Proof.Machine.execTz k s10 s
  | .call k m s10 => Sys2Proof.Machine.execCall k m s10 s
  | .callt k m => Sys2Proof.Machine.execCallt k m s
  | .jmpt k => Sys2Proof.Machine.execJmpt k s
  | .ret k => Sys2Proof.Machine.execRet k s
  | .nop k => Sys2Proof.Machine.execNop k s
  | .reti k => Sys2Proof.Machine.execReti k s
  | .yield k => Sys2Proof.Machine.execYield k s
  | .wait k => Sys2Proof.Machine.execWait k s
  | .sync k => Sys2Proof.Machine.execSync k s
  | .lock k n => Sys2Proof.Machine.execLock k n s
  | .lockTrunc k => Sys2Proof.Machine.execLockTrunc k s
  | .rep k => Sys2Proof.Machine.execRep k s
  | .bkpt k t => Sys2Proof.Machine.execBkpt k t s
  | .trap k n => Sys2Proof.Machine.execTrap k n s
  | .csrr k n => Sys2Proof.Machine.execCsrr k n s
  | .csrw k n => Sys2Proof.Machine.execCsrw k n s
  | .icinv k => Sys2Proof.Machine.execIcinv k s
  | .mactRestart k => Sys2Proof.Machine.execMactRestart k s
  | .mactAbandon k => Sys2Proof.Machine.execMactAbandon k s
  | .frec k => Sys2Proof.Machine.execFrec k s
  | .savem k m => Sys2Proof.Machine.execSavem k m s
  | .loadm k m => Sys2Proof.Machine.execLoadm k m s
  | .move k wid dir n => Sys2Proof.Machine.execMove k wid dir n s
  | .fill k wid dir n => Sys2Proof.Machine.execFill k wid dir n s
  | .inl k ch => Sys2Proof.Machine.execInl k ch s
  | .inls k ch => Sys2Proof.Machine.execInls k ch s
  | .evtAck k e => Sys2Proof.Machine.execEvtAck k e s
  | .evtPend k => Sys2Proof.Machine.execEvtPend k s
  | .mbPost k m => Sys2Proof.Machine.execMbPost k m s
  | .mbTake k m => Sys2Proof.Machine.execMbTake k m s
  | .evtHost k e => Sys2Proof.Machine.execEvtHost k e s
  | .storeRetire k => Sys2Proof.Machine.execStoreRetire k s
  | .fuseeBatch k op => Sys2Proof.Machine.execFuseeBatch k op s
  | .icacheFill k addr data err => Sys2Proof.Machine.execIcacheFill k addr data err s
  | .boundaryLoadResponse k data err => Sys2Proof.Machine.execBoundaryLoadResponse k data err s
  | .boundaryStoreError k => Sys2Proof.Machine.execBoundaryStoreError k s
  | .berrLate k => Sys2Proof.Machine.execBerrLate k s
  | .eventEntry k => Sys2Proof.Machine.execEventEntry k s
  | .budget k => Sys2Proof.Machine.execBudget k s
  | .wdog gen lctx => Sys2Proof.Machine.execWdog gen lctx s
  | .terminalEntry k => Sys2Proof.Machine.execTerminalEntry k s
  | .stopRequest k => Sys2Proof.Machine.execStopRequest k s
  | .contextStop k => Sys2Proof.Machine.execContextStop k s
  | .hang k => Sys2Proof.Machine.execHang k s
  | .periodEvent p => Sys2Proof.Machine.execPeriodEvent p s
  | .deadbeatRelease gen lctx => Sys2Proof.Machine.execDeadbeatRelease gen lctx s
  | .releaseLate k => Sys2Proof.Machine.execReleaseLate k s
  | .freeRelease gen lctx => Sys2Proof.Machine.execFreeRelease gen lctx s
  | .eventRelease t p => Sys2Proof.Machine.execEventRelease t p s
  | .commitTick g => Sys2Proof.Machine.execCommitTick g s
  | .sampleRecord lane rec => Sys2Proof.Machine.execSampleRecord lane rec s
  | .sampleMiss ch => Sys2Proof.Machine.execSampleMiss ch s
  | .select c gain filt sch input tag => Sys2Proof.Machine.execSelect c gain filt sch input tag s
  | .inject c sch input tag => Sys2Proof.Machine.execInject c sch input tag s
  | .calibrate c tag => Sys2Proof.Machine.execCalibrate c tag s
  | .cvcAccepted c => Sys2Proof.Machine.execCvcAccepted c s
  | .cvcDeferred c => Sys2Proof.Machine.execCvcDeferred c s
  | .cvcDone c => Sys2Proof.Machine.execCvcDone c s
  | .cvcError c => Sys2Proof.Machine.execCvcError c s
  | .tripInput n st => Sys2Proof.Machine.execTripInput n st s
  | .tripBlank n level => Sys2Proof.Machine.execTripBlank n level s
  | .trpClr hi v a => Sys2Proof.Machine.execTrpClr hi v a s
  | .hostEventInput kind line => Sys2Proof.Machine.execHostEventInput kind line s
  | .fwForce w v a => Sys2Proof.Machine.execFwForce w v a s
  | .chkf v a => Sys2Proof.Machine.execChkf v a s
  | .configIntegError w => Sys2Proof.Machine.execConfigIntegError w s
  | .parityError u => Sys2Proof.Machine.execParityError u s
  | .quenchClose q => Sys2Proof.Machine.execQuenchClose q s
  | .substitutionHandover t => Sys2Proof.Machine.execSubstitutionHandover t s
  | .rotationStep t => Sys2Proof.Machine.execRotationStep t s
  | .migration t gen lctx => Sys2Proof.Machine.execMigration t gen lctx s
  | .rotLate t => Sys2Proof.Machine.execRotLate t s
  | .testComplete k r => Sys2Proof.Machine.execTestComplete k r s
  | .retest t v a => Sys2Proof.Machine.execRetest t v a s
  | .standbyTest k => Sys2Proof.Machine.execStandbyTest k s
  | .paceWindow t n n2 => Sys2Proof.Machine.execPaceWindow t n n2 s
  | .vblkLow mv => Sys2Proof.Machine.execVblkLow mv s
  | .railOor t mv => Sys2Proof.Machine.execRailOor t mv s
  | .retOor => Sys2Proof.Machine.execRetOor s
  | .refclkLoss => Sys2Proof.Machine.execRefclkLoss s
  | .sweepLine t area line r => Sys2Proof.Machine.execSweepLine t area line r s
  | .eccChk t area bank ok => Sys2Proof.Machine.execEccChk t area bank ok s
  | .strCmd t v a => Sys2Proof.Machine.execStrCmd t v a s
  | .streamerChunk t q r => Sys2Proof.Machine.execStreamerChunk t q r s
  | .strQstop t v a => Sys2Proof.Machine.execStrQstop t v a s
  | .tamper => Sys2Proof.Machine.execTamper s
  | .sealWipe => Sys2Proof.Machine.execSealWipe s
  | .powerOn mv => Sys2Proof.Machine.execPowerOn mv s
  | .blockReset => Sys2Proof.Machine.execBlockReset s
  | .retentionEntry a => Sys2Proof.Machine.execRetentionEntry a s
  | .retained => Sys2Proof.Machine.execRetained s
  | .retentionWake a => Sys2Proof.Machine.execRetentionWake a s
  | .wakeComplete => Sys2Proof.Machine.execWakeComplete s
  | .progKey unlock a => Sys2Proof.Machine.execProgKey unlock a s
  | .toDevelop unlock a => Sys2Proof.Machine.execToDevelop unlock a s
  | .toSecured unlock a => Sys2Proof.Machine.execToSecured unlock a s
  | .toReturned unlock token a => Sys2Proof.Machine.execToReturned unlock token a s
  | .toScrapped unlock a => Sys2Proof.Machine.execToScrapped unlock a s
  | .fuseProgrammed time => Sys2Proof.Machine.execFuseProgrammed time s
  | .check a => Sys2Proof.Machine.execCheck a s
  | .load slot a => Sys2Proof.Machine.execLoad slot a s
  | .abort a => Sys2Proof.Machine.execAbort a s
  | .discard slot a => Sys2Proof.Machine.execDiscard slot a s
  | .start slot a => Sys2Proof.Machine.execStart slot a s
  | .admission img err => Sys2Proof.Machine.execAdmission img err s
  | .serviceTick => Sys2Proof.Machine.execServiceTick s
  | .switch set a => Sys2Proof.Machine.execSwitch set a s
  | .revert set a => Sys2Proof.Machine.execRevert set a s
  | .cancel a => Sys2Proof.Machine.execCancel a s
  | .complete a => Sys2Proof.Machine.execComplete a s
  | .setSwitch => Sys2Proof.Machine.execSetSwitch s
  | .rmtGstatEsc g a => Sys2Proof.Machine.execRmtGstatEsc g a s
  | .dialSel n v a => Sys2Proof.Machine.execDialSel n v a s
  | .dialSeq n => Sys2Proof.Machine.execDialSeq n s
  | .fwCap w => Sys2Proof.Machine.execFwCap w s
  | .fwCnt w => Sys2Proof.Machine.execFwCnt w s
  | .swpStat t => Sys2Proof.Machine.execSwpStat t s
  | .escLate => Sys2Proof.Machine.execEscLate s
  | .blwPace t => Sys2Proof.Machine.execBlwPace t s
  | .dbgSkiprel k => Sys2Proof.Machine.execDbgSkiprel k s
  | .trcRdata => Sys2Proof.Machine.execTrcRdata s
  | .lnkCtl v a => Sys2Proof.Machine.execLnkCtl v a s
  | .hostRegWrite off v a => Sys2Proof.Machine.execHostRegWrite off v a s
  | .hostWindowAccess off wr strb data a size => Sys2Proof.Machine.execHostWindowAccess off wr strb data a size s
  | .hostWindowTimeout => Sys2Proof.Machine.execHostWindowTimeout s
  | .idcode => Sys2Proof.Machine.execIdcode s
  | .bypass => Sys2Proof.Machine.execBypass s
  | .daddr v => Sys2Proof.Machine.execDaddr v s
  | .ddata v => Sys2Proof.Machine.execDdata v s
  | .debugAccessDone timeout => Sys2Proof.Machine.execDebugAccessDone timeout s
  | .tapReset => Sys2Proof.Machine.execTapReset s
  | .halt k a => Sys2Proof.Machine.execHalt k a s
  | .haltTake k => Sys2Proof.Machine.execHaltTake k s
  | .resume k a => Sys2Proof.Machine.execResume k a s
  | .step k a => Sys2Proof.Machine.execStep k a s
  | .stim p v a => Sys2Proof.Machine.execStim p v a s
  | .traceSync => Sys2Proof.Machine.execTraceSync s
  | .linkTxFrame => Sys2Proof.Machine.execLinkTxFrame s
  | .linkRxFrame words => Sys2Proof.Machine.execLinkRxFrame words s
  | .lnkLoss => Sys2Proof.Machine.execLnkLoss s
  | .boundaryStoreResponse k => Sys2Proof.Machine.execBoundaryStoreResponse k s
  | .undefinedEncoding k w => Sys2Proof.Machine.execUndefinedEncoding k w s
  | .resetRelease time => Sys2Proof.Machine.execResetRelease time s
  | .powerOnResetHold mv => Sys2Proof.Machine.execPowerOnResetHold mv s
  | .masterCopyLoad t => Sys2Proof.Machine.execMasterCopyLoad t s
  | .tracePortDrain => Sys2Proof.Machine.execTracePortDrain s

end Sys2Proof.Machine
end

