-- ==== Sys2Proof/Machine/Tick.lean ====
section
/-! DEFINITION. Time: what a step does when no command waits. The tick advances ESC_TIME, ends one-tick signals, and queues the
events of the table whose time has come, in the order of spec 01 R17 (log entries 3 and 9). -/

namespace Sys2Proof.Machine

/-! ### Events that are due -/

/-- The contexts of the resident images that sit on an engine, with their entries. -/
def State.seated (s : State) : List (Bool × CtxE × Nat) :=
  s.gens.flatMap (fun gen => (s.img gen).ctxs.filterMap (fun c => (s.locate gen c.lctx).map (fun id => (gen, c, id))))

/-- Commit ticks of this tick (08 R218, 09 R243). -/
def State.dueCommits (s : State) : List Instr :=
  if s.anyRunning then ((List.range 64).filter (fun g => (s.commitDue g).isSome)).map .commitTick else []

/-- The switch of a set (13 R351). -/
def State.dueSwitch (s : State) : List Instr := if s.upg.pop ≠ 0 ∧ s.upg.due ≤ s.now then [.setSwitch] else []

/-- Period events (08 R218). -/
def State.duePeriods (s : State) : List Instr :=
  if s.anyRunning then
    ((List.range 16).filter (fun p => match s.period p with | some e => e.offset s.now == 0 | none => false)).map .periodEvent
  else []

/-- Slot releases (08 R221-R224), after the releases that waited for a late stopping point. -/
def State.dueReleases (s : State) : List Instr :=
  let late := (s.eng.filter (fun p => p.2.lateWaits)).map (fun p => Instr.releaseLate p.1)
  if s.anyRunning then
    let l := s.seated
    let db := (l.filter (fun x => match s.entryNow x.1 x.2.1.lctx 0 with | some (_, _, 0) => true | _ => false)).map
      (fun x => Instr.deadbeatRelease x.1 x.2.1.lctx)
    let fr := (l.filter (fun x => (s.entryNow x.1 x.2.1.lctx 1).isSome)).map (fun x => Instr.freeRelease x.1 x.2.1.lctx)
    let ev := ((List.range (8 * s.variant.trains)).filter
      (fun i => (s.entries (i / 8) (i % 8)).any (fun x => x.ent.kind == 2))).map (fun i => Instr.eventRelease (i / 8) (i % 8))
    late ++ db ++ fr ++ ev
  else late

/-- The stop tick of the activation that engine `k` runs, or whose Machine entry it handles, has come (08 R222-R224). -/
def State.stopDue (s : State) (k : Nat) : Bool :=
  match s.ctxOn k with
  | some id => (s.ctxAt id).act.any (fun a => a.kind != 0 && decide (a.endAt ≤ s.now))
  | none => false

/-- Stop ticks and halts of parked engines (08 R222-R224, 14 R366). -/
def State.dueEngines (s : State) : List Instr :=
  let stops := (s.eng.filter (fun p => s.stopDue p.1)).map (fun p => Instr.stopRequest p.1)
  let halts := (s.eng.filter (fun p => p.2.dbg.pend && p.2.run == .parked)).map (fun p => Instr.haltTake p.1)
  stops ++ halts

/-- Sample deadlines, hangs and watchdogs, whose fences take effect before the tick's commits: those at SAFE first, then by engine
(10 R268, 12 R318, R319, R328). -/
def State.dueWatch (s : State) : List Instr :=
  let miss := if s.anyRunning then
      ((List.range 128).filter (fun ch => match s.schRoute ch with
        | some r => (match s.period r.pg with | some p => p.offset s.now == r.arrive | none => false)
        | none => false)).map Instr.sampleMiss
    else []
  let dog (x : Bool × CtxE × Nat) : Bool :=
    let c := s.ctxAt x.2.2
    c.wdW != 0 && c.wdAt.any (fun w => decide (w + c.wdW ≤ s.now))
  let dogs := s.seated.filter dog
  let hang (k : Nat) : List Instr := if (s.engAt k).stopReq.any (fun x => x + 256 == s.now) then [.hang k] else []
  let engs := (List.range (9 * s.variant.trains)).flatMap (fun k => (hang k).map (fun c => (k, 10, c)) ++
    (dogs.filter (fun x => engOfCtx x.2.2 == k)).map (fun x => (k, 6, Instr.wdog x.1 x.2.1.lctx)))
  let l := engs ++ miss.map (fun c => (82, 1, c))
  let safe (x : Nat × Nat × Instr) : Bool := (s.fwAt x.1).sevOf x.2.1 == 4
  (l.filter safe ++ l.filter (fun x => !safe x)).map (fun x => x.2.2)

/-- Contexts of engine `k`, in ascending LCTX. -/
def State.byLctx (s : State) (k : Nat) : List (Bool × Nat) :=
  let l := (List.range 16).map (fun i => s.ctxAt (ctxId k i))
  (List.range 1024).flatMap (fun n => (l.filter (fun c => c.st != .unused && c.lctx == n)).map (fun c => (c.gen, c.lctx)))

/-- Rotation, migration and quench windows (12 R324, R334, R335). -/
def State.dueTourbillon (s : State) : List Instr :=
  let rots := ((List.range s.variant.trains).filter s.rotTick).map Instr.rotationStep
  let moves := (s.train.filter (fun p => match p.2.rot with | some r => r.loaded | none => false)).flatMap (fun p =>
    match p.2.rot with
    | some r => (s.byLctx (9 * p.1 + r.src)).map (fun m => Instr.migration p.1 m.1 m.2)
    | none => [])
  let lates := (s.train.filter (fun p => match p.2.rot with | some r => !r.late && decide (r.stepAt + s.rt / 2 ≤ s.now) | none => false)).map
    (fun p => Instr.rotLate p.1)
  let quench := ((s.quench.zipIdx.filter (fun p => match p.1.closeAt with | some x => decide (x ≤ s.now) | none => false)).map
    (fun p => Instr.quenchClose p.2)).reverse
  rots ++ moves ++ lates ++ quench

/-- Trace and link (13 R358, R361, 14 R380). -/
def State.dueLinks (s : State) : List Instr :=
  let sync := if s.tracing && decide (s.dbg.lastSync + s.syncEvery ≤ s.now) then [.traceSync] else []
  let link := if s.variant.optional && s.frameTick then [.lnkLoss, .linkTxFrame] else []
  sync ++ link

/-- Every event of this tick. -/
def State.due (s : State) : List Instr :=
  s.dueWatch ++ s.dueCommits ++ s.dueSwitch ++ s.duePeriods ++ s.dueReleases ++ s.dueEngines ++ s.dueTourbillon ++ s.dueLinks

/-- The events of a tick; at the service tick of a START the image runs first (08 R237). -/
def State.dueNow (s : State) : List Instr :=
  if !s.power.ready then []
  else match s.rgl.op with
    | .start gen svc => if svc ≤ s.now then .serviceTick :: (s.service gen).due else s.due
    | _ => s.due

/-! ### One tick -/

/-- Signals that last one tick end: command codes 0b01 and 0b10, generator events, the trigger and a trace byte (16 R407, R411, R415). -/
def State.endPulses (s : State) : State :=
  let l := (s.outlet.filter (fun p => p.2.cmd == 0b01 || p.2.cmd == 0b10)).map (·.1)
  let s := l.foldl (fun s n => s.modOut n (fun o => { o with cmd := 0 })) s
  { s with pins := { s.pins with evtPg := 0, tapTrig := false }, dbg := { s.dbg with port := none } }

/-- The link port in the next tick (16 R415). -/
def Link.shift (l : Link) : Link :=
  match l.tx with
  | [] => { l with tv := false }
  | h :: r => { l with td := h, tv := true, tx := r }

/-- What the block remembers of a tick's hardware actions for the host's accesses of the same tick ends with it (17 R419, R424,
R425). -/
def State.endTick (s : State) : State :=
  let s := (s.fw.filter (fun p => p.2.now != 0)).foldl (fun s p => s.modFw p.1 (fun f => { f with now := 0 })) s
  s.train.foldl (fun s p =>
    let m := p.2.mb.filter (fun x => x.2.stored != [] || x.2.ovrNow)
    let s := m.foldl (fun s x => s.modMbox p.1 x.1 (fun b => { b with stored := [], ovrNow := false })) s
    if p.2.hevNow = 0 then s else s.modTrain p.1 (fun x => { x with hevNow := 0 })) s

/-- Commands that waited for their channel's port go to it (16 R410). -/
def State.presentCommands (s : State) : State :=
  (s.cvc.filter (fun p => p.2.st == 1 && !p.2.req)).foldl (fun s p => s.modCvc p.1 Cvc.present) s

/-- The edge that ends a tick (09 R256, 16 R404, R415). -/
def State.edge (s : State) : State :=
  (((List.range 32).foldl State.takeSnapshot s).endPulses.safeWrite.presentCommands.raiseSubst.modLink Link.shift).endTick

/-- One tick of ESC_TIME. -/
def State.tick (s : State) : State :=
  let s := ({ s.edge with time := s.time + 1 }).resetTick.completeTick
  { s with pending := s.dueNow }

end Sys2Proof.Machine
end

