-- ==== Sys2Proof/Safety.lean ====
section
/-! DEFINITION. The terms in which statements speak of runs: when an engine executes its next instruction, what a completed
instruction leaves as it was, and the relations that every command keeps. -/

namespace Sys2Proof.Machine

/-! ### Terms of the spec that results are stated in -/

/-- The data window holds the `pop` entries an instruction takes and has room for the `push` it leaves (spec 03 R63, R75). -/
abbrev Ctx.fits (c : Ctx) (pop push : Nat) : Prop := pop ≤ c.docc ∧ c.docc + push ≤ 32 + pop

/-- The integer `r` is the exact value `v / 2^k` rounded in mode RND (spec 04 R96). -/
def Rounded (rnd : Nat) (v : Int) (k : Nat) (r : Int) : Prop :=
  match rnd with
  | 0 => r * 2 ^ k ≤ v ∧ v < (r + 1) * 2 ^ k
  | 1 => (2 * r - 1) * 2 ^ k ≤ 2 * v ∧ 2 * v < (2 * r + 1) * 2 ^ k
  | 2 => (2 * r - 1) * 2 ^ k ≤ 2 * v ∧ 2 * v ≤ (2 * r + 1) * 2 ^ k ∧
      (2 * v = (2 * r - 1) * 2 ^ k ∨ 2 * v = (2 * r + 1) * 2 ^ k → r % 2 = 0)
  | _ => r * 2 ^ k = v ∨ (r % 2 = 1 ∧ (r - 1) * 2 ^ k < v ∧ v < (r + 1) * 2 ^ k)

/-- `x` moved into the signed range of `w` bits (spec 04 R97). -/
def satTo (w : Nat) (x : Int) : Int := Min.min (Max.max x (-(2 ^ (w - 1)))) (2 ^ (w - 1) - 1)

/-- The exact value `x` as Q takes it, and whether it clamped (spec 04 R97). -/
def accTo (sat : Bool) (x : Int) : Acc × Bool :=
  if sat then (BitVec.ofInt 72 (satTo 72 x), decide (satTo 72 x ≠ x)) else (BitVec.ofInt 72 x, false)

/-- The flags of an addition or subtraction whose exact signed value is `x` and whose carry is `cy` (spec 05 R117, R124). -/
def Fl.arith (f : Fl) (x : Int) (cy : Bool) : Fl :=
  { f with z := BitVec.ofInt 32 x == 0, n := (BitVec.ofInt 32 x).msb, c := cy, v := decide (x < -2 ^ 31 ∨ 2 ^ 31 ≤ x) }

/-- One single-bit left shift: the word and the bit that leaves it (spec 05 R129). -/
def shl1 (x : Word × Bool) : Word × Bool := (x.1 <<< 1, x.1.msb)
/-- One single-bit right shift, zero in. -/
def shr1 (x : Word × Bool) : Word × Bool := (x.1 >>> 1, x.1.getLsbD 0)
/-- One single-bit right shift, sign copied in. -/
def sar1 (x : Word × Bool) : Word × Bool := (x.1.sshiftRight 1, x.1.getLsbD 0)

/-- Number of bits of a magnitude (spec 05 R131). -/
def bitLength (m : Nat) : Nat := if m = 0 then 0 else m.log2 + 1

/-! ### An engine that executes -/

/-- No address comparator of the engine is enabled and no debugger step is under way (spec 14 R371, R375). -/
def Engine.undebugged (e : Engine) : Bool :=
  !e.dbg.stepping && (List.range 4).all (fun i => !(e.dbg.ac.get (fun _ => {}) i).ctl.getLsbD 0)

/-- Engine `k` executes the instruction it is given: it is present, may run, its fetch succeeds, its bank shows no upset (spec 03
R68) and no debugger watches it. -/
structure Ready (s : State) (k : Nat) : Prop where
  present : s.hasEngine k = true
  runs : s.canRun k = true
  issues : s.preIssue k = none
  plain : (s.engAt k).undebugged = true
  sound : (s.bank k).sound = true

/-- The state in which the instruction acts: the fetched line is the most recent one of the instruction cache, and the sequential fetch
has reached the instruction's word (spec 02 R35, R47). -/
def State.fetched (s : State) (k : Nat) : State :=
  (s.touchLine k (s.bank k)).modEng k (fun e => e.issue (s.bank k).pc.toNat)

/-- Nothing of the instruction at PC of engine `k` has been done yet: no set-up is paid, no value read, no wait begun. -/
abbrev State.starts (s : State) (k : Nat) : Prop := (s.engAt k).begun = .none

/-- Engine `k` is outside any LOCK bracket (spec 06 R164). -/
abbrev State.unlocked (s : State) (k : Nat) : Prop := (s.engAt k).lock = 0

/-- A store-buffer entry without the progress of its retirement (spec 02 R51). -/
def SBE.untimed (x : SBE) : SBE := { x with wait := 0, got := 0, done := false }

/-- The part of an engine that an instruction without an effect on the engine leaves as it was: what is cleared here are the
Machine bank, the LOCK count, what the instruction at PC has begun, the sequential fetch, the loop buffer's copies, the progress of
store-buffer entries and the mark of a resumed instruction. -/
def Engine.lasting (e : Engine) : Engine :=
  { e with
    mb := {}, lock := 0, lockBeats := 0, pair := none, fusee := none, fetch := none, begun := .none
    sbuf := e.sbuf.map SBE.untimed, lb := { e.lb with words := [], bad := [] }, dbg := { e.dbg with pass := false } }

/-- Everything that belongs to no engine and no context. -/
def State.shared (s : State) : State := { s with eng := [], ctx := [] }

/-- State `t` is `s1` with bank `c1` in place of the bank of the code that runs on engine `k`, after `n` beats: no other context,
engine, register, pin, sample, outlet or byte of memory differs from `s1`. -/
structure Settled (s1 : State) (k : Nat) (c1 : Ctx) (n : Nat) (t : State) : Prop where
  inContext : ∀ slot, (s1.engAt k).run = .ctx slot →
    t.ctxAt (ctxId k slot) = { c1 with beats := c1.beats + n } ∧ (t.engAt k).mb = (s1.engAt k).mb
  atMachine : ∀ x, (s1.engAt k).run = .mach x →
    (t.engAt k).mb = c1 ∧ ∀ slot, x = some slot →
      t.ctxAt (ctxId k slot) = { s1.ctxAt (ctxId k slot) with beats := (s1.ctxAt (ctxId k slot)).beats + n }
  contexts : ∀ id, s1.ctxOn k ≠ some id → t.ctxAt id = s1.ctxAt id
  engine : (t.engAt k).lasting = (s1.engAt k).lasting
  engines : ∀ j, j ≠ k → t.engAt j = s1.engAt j
  rest : t.shared = s1.shared

/-- Beats `n` of an instruction of cost `cost`: one less only for the second of a pair in free mode (spec 02 R45, 05 R118). -/
def Beats (db : Bool) (cost n : Nat) : Prop := n = cost ∨ (db = false ∧ n = cost - 1)

/-- Command `i` completes on engine `k`: the state is `s1` with bank `c1`, whose PC has moved to the next instruction (or stays
under REP, spec 06 R161), after the beats of its cost; store-buffer entries whose retire slots end in them are in memory (02 R51). -/
def Completes (i : Instr) (s : State) (k : Nat) (s1 : State) (c1 : Ctx) (cost : Nat) : Prop :=
  ∃ t n, exec i s = .next (t.settle k) ∧ Settled s1 k c1.advance n t ∧ Beats (s.bank k).db cost n ∧
    (t.engAt k).lock = ((s1.engAt k).tickLock n).lock ∧ (t.engAt k).lockBeats = ((s1.engAt k).tickLock n).lockBeats

/-- Command `i` changes flow on engine `k`: as `Completes`, with PC at `target` and the LOCK bracket at its end (spec 06 R165). -/
def Jumps (i : Instr) (s : State) (k : Nat) (s1 : State) (c1 : Ctx) (target : Word) (cost : Nat) : Prop :=
  ∃ t n, exec i s = .next (t.settle k) ∧ Settled s1 k { c1 with pc := target, divp := false, rep := false } n t ∧
    Beats (s.bank k).db cost n ∧
    (t.engAt k).lock = ((s1.engAt k).flowLock n).lock ∧ (t.engAt k).lockBeats = ((s1.engAt k).flowLock n).lockBeats

/-- Command `i` stands on its PC: a wait or an element boundary with bank `c1` (spec 02 R57). -/
def Waits (i : Instr) (s : State) (k : Nat) (s1 : State) (c1 : Ctx) (cost : Nat) : Prop :=
  ∃ t, exec i s = .next (t.settle k) ∧ Settled s1 k c1 cost t

/-- Command `i` raises fault `f` on engine `k` with bank `c1`: the entry of spec 07 R195 with the saved PC `pc`; bit 16 of the
saved instruction marks the second of a pair (R200). `self` is the instruction's own address where the entry saves another (R198).
That no beat of the faulting instruction counts before the entry's is the model's choice (log entry 65). -/
def Traps (i : Instr) (s : State) (k : Nat) (s1 : State) (c1 : Ctx) (f : Flt) (pc : Word) (w : BitVec 16)
    (self : Option Word := none) : Prop :=
  ∃ second : Bool, (second = true → (s.bank k).db = false) ∧
    exec i s = .next (((s1.setBank k c1).takeFault k f
      { pc := pc, self := self, instr := BitVec.ofNat 32 (second.toNat * 65536 + w.toNat) }).settle k)

/-- An engine's access of `n` bytes at `a` reads the arrays at memory key `key`: map and rights allow it (spec 04 R112), no store
of the engine waits to retire (02 R53), and the words are readable (11 R286, R301, R308). -/
structure Reads (s : State) (k a n key : Nat) : Prop where
  place : s.memPlace (s.who k) a n false true = .ok key
  retired : (s.engAt k).sbuf = []
  sound : s.firstUE key n = none
  kept : s.sealWiping key = false

/-- The youngest store-buffer entry that holds one of the `n` bytes at memory key `a` (spec 02 R53). -/
def Engine.youngest (e : Engine) (a n : Nat) : Option SBE :=
  e.sbuf.reverse.find? (fun x => (List.range n).any (fun i => x.holds (a + i)))

/-- The byte at memory key `a` as engine `k` has left it: that of the youngest store not yet retired, else memory's (spec 02 R53). -/
def State.seen (s : State) (k a : Nat) : Byte :=
  match (s.engAt k).youngest a 1 with
  | some x => BitVec.ofNat 8 (x.data.toNat / 256 ^ (a - x.line))
  | none => s.byteAt a

/-- `s1` differs from `s` at most in that the oldest entries of the store buffer of engine `k` have entered memory (spec 02 R50,
R51): no byte looks different to the engine. -/
structure Drained (s s1 : State) (k : Nat) : Prop where
  seen : ∀ a, s1.seen k a = s.seen k a
  order : ∃ gone, (s1.engAt k).sbuf.map SBE.untimed = ((s.engAt k).sbuf.drop gone).map SBE.untimed
  engine : { (s1.engAt k).lasting with sbuf := [] } = { (s.engAt k).lasting with sbuf := [] }
  engines : ∀ j, j ≠ k → s1.engAt j = s.engAt j
  contexts : ∀ id, s1.ctxAt id = s.ctxAt id
  rest : { s1 with mem := [], eng := [] } = { s with mem := [], eng := [] }

/-- `s1` differs from `s` at most in the loop buffer and the target buffer of engine `k` (spec 02 R38, R46). -/
structure Rerouted (s : State) (k : Nat) (s1 : State) : Prop where
  engine : { s1.engAt k with lb := {}, tbuf := [] } = { s.engAt k with lb := {}, tbuf := [] }
  engines : ∀ j, j ≠ k → s1.engAt j = s.engAt j
  contexts : ∀ id, s1.ctxAt id = s.ctxAt id
  rest : s1.shared = s.shared

/-- Store-buffer entries `es` hold the `n` bytes of `v` at memory key `key`, and no other byte (spec 02 R48, R52). -/
def Hold (es : List SBE) (key n v : Nat) : Prop :=
  (∀ e ∈ es, e.line % 8 = 0 ∧ ∀ a, e.holds a = true →
    key ≤ a ∧ a < key + n ∧ e.data.toNat / 256 ^ (a - e.line) % 256 = v / 256 ^ (a - key) % 256) ∧
  ∀ a, key ≤ a → a < key + n → ∃ e ∈ es, e.holds a = true

/-! ### Units and the host -/

/-- The target port takes a host register write: one aligned word after READY, not barred by AxPROT[1] in SECURED (spec 15 R390,
16 R412). -/
abbrev State.takesWrite (s : State) (a : HAcc) : Prop :=
  a.ok = true ∧ s.power.ready = true ∧ (s.lcs.st = .secured → a.prot1 = false)

/-- `s` with the answer OKAY to a write. -/
def State.okay (s : State) : State := { s with host := { s.host with resp := 0 } }

/-- The target port answers a register read with the register: after READY, outside SCRAPPED (spec 15 R390, R396). -/
abbrev State.readable (s : State) : Prop := s.power.ready = true ∧ s.lcs.st ≠ .scrapped

/-- `s` with the answer OKAY and `v` to a register read. -/
def State.shows (s : State) (v : Word) : State := { s with host := { rdata := v.setWidth 128, resp := 0 } }

/-- Between `s` and `t`, source `n` of window `w` has been reported once, with detail `arg` and address `addr`: status bit, count,
and the capture where nothing was captured; a masked source leaves its window, and every other window stays (spec 12 R314). -/
structure Reports (s t : State) (w n : Nat) (arg : Option Nat) (addr : Word) : Prop where
  status : s.hasWindow w = true → (w < 72 → (s.engAt w).st ≠ .off) → (s.fwAt w).en.getLsbD n = true → s.quench = [] →
    (t.fwAt w).stat = (s.fwAt w).stat ||| 1#32 <<< n ∧ (t.fwAt w).cnt = Min.min ((s.fwAt w).cnt + 1) 0xFFFF ∧
    ((s.fwAt w).capValid = true → { t.fwAt w with stat := 0, cnt := 0, now := 0 } = { s.fwAt w with stat := 0, cnt := 0, now := 0 }) ∧
    ((s.fwAt w).capValid = false → (t.fwAt w).capValid = true ∧ (t.fwAt w).capSrc.toNat = n ∧
      (∀ a, arg = some a → (t.fwAt w).capArg = BitVec.ofNat 24 a) ∧ (t.fwAt w).addr = addr)
  masked : (s.fwAt w).en.getLsbD n = false → t.fwAt w = s.fwAt w
  others : ∀ j, j ≠ w → t.fwAt j = s.fwAt j

/-- Between `s` and `t`, the load of master copy `m` of train `tr` has failed at its first uncorrectable word (12 R429): RESTORE_FAIL
with ARG 0x80_0000, after MEM_UE with the offset of the word when the test port has read it, not when its bank is fenced (11 R300,
R301). Single-bit errors on the way would report MEM_CE besides. -/
structure CopyFails (s t : State) (tr : Nat) (m : MachE) : Prop where
  fenced : ∀ a, (copyWords tr m).find? s.badWord = some a → (∀ b ∈ copyWords tr m, s.ce.contains (b / 8 * 8) = false) →
    s.bankFenced a = true → Reports s t (72 + tr) 13 (some 0x800000) 0
  uncorrectable : ∀ a, (copyWords tr m).find? s.badWord = some a → (∀ b ∈ copyWords tr m, s.ce.contains (b / 8 * 8) = false) →
    s.bankFenced a = false → ∃ f, Reports s { s with fw := f } (72 + tr) 1 (some 0) (BitVec.ofNat 32 ((a - tmKey tr 0) / 8 * 8)) ∧
      Reports { s with fw := f } t (72 + tr) 13 (some 0x800000) 0

/-- Between `s` and `t`, every EVENTS source of the kind and index has set its EVPEND bit, and nothing else of any context has
changed (spec 06 R180, 08 R227). -/
structure Pended (s t : State) (kind index : Nat) : Prop where
  pending : ∀ gen ∈ s.gens, ∀ x ∈ (s.img gen).sources, x.kind = kind → x.index = index → x.bit < 32 →
    (s.coexist = true → s.ctxLive gen x.lctx = true) → ∀ id, s.locate gen x.lctx = some id →
    (t.ctxAt id).evpend.getLsbD x.bit = true
  kept : ∀ id, { t.ctxAt id with evpend := 0 } = { s.ctxAt id with evpend := 0 } ∧
    ∀ i, (s.ctxAt id).evpend.getLsbD i = true → (t.ctxAt id).evpend.getLsbD i = true
  only : ∀ id i, (t.ctxAt id).evpend.getLsbD i = true → (s.ctxAt id).evpend.getLsbD i = true ∨
    ∃ gen ∈ s.gens, ∃ x ∈ (s.img gen).sources, x.kind = kind ∧ x.index = index ∧ x.bit = i ∧ s.locate gen x.lctx = some id

/-- Between `s` and `t`, the escapement has released the context of `slot` on engine `k`: its bank as spec 03 R86 says, its
activation opened, the staging of its outlets cleared (09 R240), and no other context or engine touched. -/
structure Released (s : State) (k slot budget kind endAt : Nat) (t : State) : Prop where
  runs : (t.engAt k).run = .ctx slot ∧ (t.engAt k).late = none ∧ (t.engAt k).stopReq = none
  engine : { (t.engAt k).lasting with
      run := .parked, late := none, stopReq := none, relAt := none, fill := none, lb := {}, dbg := {} } =
    { (s.engAt k).lasting with
      run := .parked, late := none, stopReq := none, relAt := none, fill := none, lb := {}, dbg := {} }
  debug : (t.engAt k).dbg = { (s.engAt k).dbg with skipped := (s.engAt k).dbg.skipped.filter (· ≠ slot), fbr := [] }
  bank : let c := s.ctxAt (ctxId k slot)
    { t.ctxAt (ctxId k slot) with dw := [], dtop := 0, docc := 0, wdAt := none } = { c with
      dw := [], dtop := 0, docc := 0, wdAt := none, pc := if c.db then c.entry else c.resumePc
      rtop := if c.db then 0 else c.rtop, rocc := if c.db then 0 else c.rocc, divp := if c.db then false else c.divp
      rep := false, st := .running, level := c.home, beats := 2, budget := budget, overrun := false, budgetPend := false
      act := some { relAt := s.now, kind := kind, endAt := endAt }, fresh := false }
  watchdog : let c := s.ctxAt (ctxId k slot)
    (t.ctxAt (ctxId k slot)).wdAt = if c.fresh = true ∧ c.wdW ≠ 0 then some s.now else c.wdAt
  free : let c := s.ctxAt (ctxId k slot)
    let d := t.ctxAt (ctxId k slot)
    c.db = false → d.dw = c.dw ∧ d.dtop = c.dtop ∧ d.docc = c.docc
  deadbeat : let c := s.ctxAt (ctxId k slot)
    let d := t.ctxAt (ctxId k slot)
    c.db = true → c.docc ≤ 32 → c.pdepth ≤ 32 →
      d.docc = c.pdepth ∧ ∀ m, m < c.pdepth → d.data (c.pdepth - 1 - m) = if m < c.docc then c.data (c.docc - 1 - m) else 0
  outlets : let c := s.ctxAt (ctxId k slot)
    ∀ n, t.outAt n = if (s.img c.gen).routes.any (fun r => r.kind == 1 && r.chan == n && r.owner == c.lctx) then
      { s.outAt n with staging := 0, staged := false, check := 0, checked := false } else s.outAt n
  contexts : ∀ id, id ≠ ctxId k slot → t.ctxAt id = s.ctxAt id
  engines : ∀ j, j ≠ k → t.engAt j = s.engAt j

/-- Between `s` and `t`, groups that became TRIPPED have driven their safe values, groups that left it code 0b00, and no outlet
changed where no group did (spec 09 R246, R247, 16 R407). -/
structure Overridden (s t : State) : Prop where
  still : (∀ g, g < 64 → t.grpTripped g = s.grpTripped g) → t.outlet = s.outlet
  driven : ∀ g n v, g < 64 → s.grpTripped g = false → t.grpTripped g = true → (n, v) ∈ s.grpSafe g →
    (∀ h, h < 64 → h ≠ g → ∀ p ∈ s.grpSafe h, p.1 ≠ n) → t.outAt n = { s.outAt n with cmd := 0b11, committed := v }
  freed : ∀ g n v, g < 64 → s.grpTripped g = true → t.grpTripped g = false → (n, v) ∈ s.grpSafe g →
    (∀ h, h < 64 → h ≠ g → ∀ p ∈ s.grpSafe h, p.1 ≠ n) →
    t.outAt n = if s.gf.safe then s.outAt n else { s.outAt n with cmd := 0b00 }

/-- Between `s` and `t`, the block has entered SAFE on source `n` of window `w` (spec 12 R321, R322): the global status names the
cause, `sx_safe_n` is low, every outlet of the image in force is driven to 0b11, every engine at work is asked to stop, and
rotations, substitutions and the pending upgrade step end. A substitution that began in this tick has not begun: SAFE acts first
(R318; log entry 69). -/
structure SafeReaction (s t : State) (w n : Nat) (integ : Bool) : Prop where
  global : t.gf = { s.gf with safe := true, safeWin := BitVec.ofNat 8 w, safeSrc := BitVec.ofNat 5 n, integ := integ }
  pin : t.pins = { s.pins with safeN := false }
  upgrade : t.upg = { s.upg with pop := 0 }
  outlets : ∀ o, t.outAt o = if o ∈ s.liveOutlets.map (·.1) then { s.outAt o with cmd := 0b11 } else s.outAt o
  engines : ∀ k, (∀ r u, u ∈ (s.trainAt r).subs → u.begunAt = s.now → 9 * r + u.dst ≠ k) → s.hasEngine k = true → t.engAt k =
    if (s.engAt k).run = .mach none then { s.engAt k with run := .parked }
    else if (s.engAt k).run = .parked then s.engAt k
    else { s.engAt k with stopReq := some ((s.engAt k).stopReq.getD s.now) }
  absent : ∀ k, (∀ r u, u ∈ (s.trainAt r).subs → u.begunAt = s.now → 9 * r + u.dst ≠ k) → s.hasEngine k = false →
    t.engAt k = s.engAt k
  trains : ∀ r, { t.trainAt r with spare := none } =
    if s.hasTrain r then { s.trainAt r with rot := none, sub := none, more := [], spare := none } else { s.trainAt r with spare := none }
  spares : ∀ r, (∀ u ∈ (s.trainAt r).subs, u.begunAt ≠ s.now) → (t.trainAt r).spare = (s.trainAt r).spare
  undone : ∀ r u, s.hasTrain r = true → (s.trainAt r).subs = [u] → u.begunAt = s.now →
    (∀ q v, v ∈ (s.trainAt q).subs → v.dst < 9) →
    (t.engAt (9 * r + u.dst)).st = (if (s.engAt (9 * r + u.dst)).st = .recover then u.was else (s.engAt (9 * r + u.dst)).st) ∧
    (u.role = none → (t.trainAt r).spare = none) ∧
    ∀ e, u.role = some e → e < 9 →
      (t.trainAt r).spare = if (t.engAt (9 * r + e)).st = .fenced then (s.trainAt r).spare else some e
  rest : { t with gf := {}, pins := {}, upg := {}, outlet := [], eng := [], train := [], fw := [], freeCtr := 0 } =
    { s with gf := {}, pins := {}, upg := {}, outlet := [], eng := [], train := [], fw := [], freeCtr := 0 }

/-! ### What every command keeps -/

/-- A transition that is being programmed goes forward (spec 15 R393). -/
def Lcs.forward (x : Lcs) : Prop := ∀ y, x.busy = some (.to y) → x.st.code < y.code

/-- What every command keeps, whatever else it does: the queue, the variant and ESC_TIME as they are, SAFE with `sx_safe_n` low
(spec 12 R323), the lock of an image started in SECURED, a lifecycle that only goes forward (spec 15 R393), and the canonical
form of memory. -/
structure Keeps (s t : State) : Prop where
  queue : t.pending = s.pending
  variant : t.variant = s.variant
  time : t.time = s.time
  safe : s.gf.safe = true → t.gf.safe = true
  safeLow : s.pins.safeN = false → t.pins.safeN = false
  locked : s.rmt.startedSecured = true → t.rmt.startedSecured = true
  life : s.lcs.forward → t.lcs.forward ∧ s.lcs.st.code ≤ t.lcs.st.code
  memory : Memory.wf s.mem = true → Memory.wf t.mem = true

end Sys2Proof.Machine
end

