-- ==== Sys2Proof/WellFormed.lean ====
section
/-! DEFINITION. Well-formed commands: unit numbers and fields within the numbering of the largest variant. -/

namespace Sys2Proof

/-- A number, where there is one, lies below a bound. -/
def below (n : Nat) : Option Nat → Bool
  | some x => decide (x < n)
  | none => true

/-- The physical engine that a command names (spec 00 R7). -/
def Instr.engine? : Instr → Option Nat
  | .lit k _ => some k
  | .litx k _ => some k
  | .ldk k _ => some k
  | .dup k => some k
  | .drop k => some k
  | .swap k => some k
  | .overS k => some k
  | .nip k => some k
  | .tuck k => some k
  | .rot k => some k
  | .minusRot k => some k
  | .twoDup k => some k
  | .twoDrop k => some k
  | .twoSwap k => some k
  | .twoOver k => some k
  | .toR k => some k
  | .rFrom k => some k
  | .rFetch k => some k
  | .rdrop k => some k
  | .pick k _ => some k
  | .poke k _ => some k
  | .add k => some k
  | .adc k => some k
  | .sub k => some k
  | .sbc k => some k
  | .rsub k => some k
  | .neg k => some k
  | .cmp k => some k
  | .tst k => some k
  | .and k => some k
  | .or k => some k
  | .xor k => some k
  | .andn k => some k
  | .not k => some k
  | .inc k => some k
  | .dec k => some k
  | .min k => some k
  | .max k => some k
  | .minu k => some k
  | .maxu k => some k
  | .abs k => some k
  | .sel k => some k
  | .adds k => some k
  | .subs k => some k
  | .negs k => some k
  | .abss k => some k
  | .clamp k => some k
  | .shls k => some k
  | .shl k _ => some k
  | .shr k _ => some k
  | .sar k _ => some k
  | .ror k _ => some k
  | .sarr k _ => some k
  | .mul k => some k
  | .mulh k => some k
  | .mulhu k => some k
  | .muld k => some k
  | .muldu k => some k
  | .mulfr k => some k
  | .divs k _ => some k
  | .divu k _ => some k
  | .mac k => some k
  | .msu k => some k
  | .mpy k => some k
  | .mack k => some k
  | .qclr k => some k
  | .qrd k => some k
  | .qrdc k => some k
  | .qsh k => some k
  | .qsat k => some k
  | .qldh k => some k
  | .qst k => some k
  | .qld k => some k
  | .xmac k _ => some k
  | .xmsu k _ => some k
  | .xmacr k _ => some k
  | .xsig k _ => some k
  | .bfx k => some k
  | .bfxs k => some k
  | .bfi k => some k
  | .clz k => some k
  | .cls k => some k
  | .popc k => some k
  | .brev k => some k
  | .perm k => some k
  | .loadViaA k _ _ _ _ => some k
  | .storeViaA k _ _ _ => some k
  | .loadWithOffset k _ _ => some k
  | .storeWithOffset k _ _ => some k
  | .auxPush k _ => some k
  | .auxPop k _ => some k
  | .auxExchange k _ => some k
  | .jmp k _ => some k
  | .bcc k _ _ => some k
  | .tz k _ => some k
  | .call k _ _ => some k
  | .callt k _ => some k
  | .jmpt k => some k
  | .ret k => some k
  | .nop k => some k
  | .reti k => some k
  | .yield k => some k
  | .wait k => some k
  | .sync k => some k
  | .lock k _ => some k
  | .lockTrunc k => some k
  | .rep k => some k
  | .bkpt k _ => some k
  | .trap k _ => some k
  | .csrr k _ => some k
  | .csrw k _ => some k
  | .icinv k => some k
  | .mactRestart k => some k
  | .mactAbandon k => some k
  | .frec k => some k
  | .savem k _ => some k
  | .loadm k _ => some k
  | .move k _ _ _ => some k
  | .fill k _ _ _ => some k
  | .inl k _ => some k
  | .inls k _ => some k
  | .evtAck k _ => some k
  | .evtPend k => some k
  | .mbPost k _ => some k
  | .mbTake k _ => some k
  | .evtHost k _ => some k
  | .storeRetire k => some k
  | .fuseeBatch k _ => some k
  | .icacheFill k _ _ _ => some k
  | .boundaryLoadResponse k _ _ => some k
  | .boundaryStoreError k => some k
  | .berrLate k => some k
  | .eventEntry k => some k
  | .budget k => some k
  | .wdog _ _ => none
  | .terminalEntry k => some k
  | .stopRequest k => some k
  | .contextStop k => some k
  | .hang k => some k
  | .periodEvent _ => none
  | .deadbeatRelease _ _ => none
  | .releaseLate k => some k
  | .freeRelease _ _ => none
  | .eventRelease _ _ => none
  | .commitTick _ => none
  | .sampleRecord _ _ => none
  | .sampleMiss _ => none
  | .select _ _ _ _ _ _ => none
  | .inject _ _ _ _ => none
  | .calibrate _ _ => none
  | .cvcAccepted _ => none
  | .cvcDeferred _ => none
  | .cvcDone _ => none
  | .cvcError _ => none
  | .tripInput _ _ => none
  | .tripBlank _ _ => none
  | .trpClr _ _ _ => none
  | .hostEventInput _ _ => none
  | .fwForce _ _ _ => none
  | .chkf _ _ => none
  | .configIntegError _ => none
  | .parityError _ => none
  | .quenchClose _ => none
  | .substitutionHandover _ => none
  | .rotationStep _ => none
  | .migration _ _ _ => none
  | .rotLate _ => none
  | .testComplete k _ => some k
  | .retest _ _ _ => none
  | .standbyTest k => some k
  | .paceWindow _ _ _ => none
  | .vblkLow _ => none
  | .railOor _ _ => none
  | .retOor => none
  | .refclkLoss => none
  | .sweepLine _ _ _ _ => none
  | .eccChk _ _ _ _ => none
  | .strCmd _ _ _ => none
  | .streamerChunk _ _ _ => none
  | .strQstop _ _ _ => none
  | .tamper => none
  | .sealWipe => none
  | .powerOn _ => none
  | .blockReset => none
  | .retentionEntry _ => none
  | .retained => none
  | .retentionWake _ => none
  | .wakeComplete => none
  | .progKey _ _ => none
  | .toDevelop _ _ => none
  | .toSecured _ _ => none
  | .toReturned _ _ _ => none
  | .toScrapped _ _ => none
  | .fuseProgrammed _ => none
  | .check _ => none
  | .load _ _ => none
  | .abort _ => none
  | .discard _ _ => none
  | .start _ _ => none
  | .admission _ _ => none
  | .serviceTick => none
  | .switch _ _ => none
  | .revert _ _ => none
  | .cancel _ => none
  | .complete _ => none
  | .setSwitch => none
  | .rmtGstatEsc _ _ => none
  | .dialSel _ _ _ => none
  | .dialSeq _ => none
  | .fwCap _ => none
  | .fwCnt _ => none
  | .swpStat _ => none
  | .escLate => none
  | .blwPace _ => none
  | .dbgSkiprel k => some k
  | .trcRdata => none
  | .lnkCtl _ _ => none
  | .hostRegWrite _ _ _ => none
  | .hostWindowAccess _ _ _ _ _ _ => none
  | .hostWindowTimeout => none
  | .idcode => none
  | .bypass => none
  | .daddr _ => none
  | .ddata _ => none
  | .debugAccessDone _ => none
  | .tapReset => none
  | .halt k _ => some k
  | .haltTake k => some k
  | .resume k _ => some k
  | .step k _ => some k
  | .stim _ _ _ => none
  | .traceSync => none
  | .linkTxFrame => none
  | .linkRxFrame _ => none
  | .lnkLoss => none
  | .boundaryStoreResponse k => some k
  | .undefinedEncoding k _ => some k
  | .resetRelease _ => none
  | .powerOnResetHold _ => none
  | .masterCopyLoad _ => none
  | .tracePortDrain => none

/-- The train that a command names (spec 00 R7). -/
def Instr.train? : Instr → Option Nat
  | .lit _ _ => none
  | .litx _ _ => none
  | .ldk _ _ => none
  | .dup _ => none
  | .drop _ => none
  | .swap _ => none
  | .overS _ => none
  | .nip _ => none
  | .tuck _ => none
  | .rot _ => none
  | .minusRot _ => none
  | .twoDup _ => none
  | .twoDrop _ => none
  | .twoSwap _ => none
  | .twoOver _ => none
  | .toR _ => none
  | .rFrom _ => none
  | .rFetch _ => none
  | .rdrop _ => none
  | .pick _ _ => none
  | .poke _ _ => none
  | .add _ => none
  | .adc _ => none
  | .sub _ => none
  | .sbc _ => none
  | .rsub _ => none
  | .neg _ => none
  | .cmp _ => none
  | .tst _ => none
  | .and _ => none
  | .or _ => none
  | .xor _ => none
  | .andn _ => none
  | .not _ => none
  | .inc _ => none
  | .dec _ => none
  | .min _ => none
  | .max _ => none
  | .minu _ => none
  | .maxu _ => none
  | .abs _ => none
  | .sel _ => none
  | .adds _ => none
  | .subs _ => none
  | .negs _ => none
  | .abss _ => none
  | .clamp _ => none
  | .shls _ => none
  | .shl _ _ => none
  | .shr _ _ => none
  | .sar _ _ => none
  | .ror _ _ => none
  | .sarr _ _ => none
  | .mul _ => none
  | .mulh _ => none
  | .mulhu _ => none
  | .muld _ => none
  | .muldu _ => none
  | .mulfr _ => none
  | .divs _ _ => none
  | .divu _ _ => none
  | .mac _ => none
  | .msu _ => none
  | .mpy _ => none
  | .mack _ => none
  | .qclr _ => none
  | .qrd _ => none
  | .qrdc _ => none
  | .qsh _ => none
  | .qsat _ => none
  | .qldh _ => none
  | .qst _ => none
  | .qld _ => none
  | .xmac _ _ => none
  | .xmsu _ _ => none
  | .xmacr _ _ => none
  | .xsig _ _ => none
  | .bfx _ => none
  | .bfxs _ => none
  | .bfi _ => none
  | .clz _ => none
  | .cls _ => none
  | .popc _ => none
  | .brev _ => none
  | .perm _ => none
  | .loadViaA _ _ _ _ _ => none
  | .storeViaA _ _ _ _ => none
  | .loadWithOffset _ _ _ => none
  | .storeWithOffset _ _ _ => none
  | .auxPush _ _ => none
  | .auxPop _ _ => none
  | .auxExchange _ _ => none
  | .jmp _ _ => none
  | .bcc _ _ _ => none
  | .tz _ _ => none
  | .call _ _ _ => none
  | .callt _ _ => none
  | .jmpt _ => none
  | .ret _ => none
  | .nop _ => none
  | .reti _ => none
  | .yield _ => none
  | .wait _ => none
  | .sync _ => none
  | .lock _ _ => none
  | .lockTrunc _ => none
  | .rep _ => none
  | .bkpt _ _ => none
  | .trap _ _ => none
  | .csrr _ _ => none
  | .csrw _ _ => none
  | .icinv _ => none
  | .mactRestart _ => none
  | .mactAbandon _ => none
  | .frec _ => none
  | .savem _ _ => none
  | .loadm _ _ => none
  | .move _ _ _ _ => none
  | .fill _ _ _ _ => none
  | .inl _ _ => none
  | .inls _ _ => none
  | .evtAck _ _ => none
  | .evtPend _ => none
  | .mbPost _ _ => none
  | .mbTake _ _ => none
  | .evtHost _ _ => none
  | .storeRetire _ => none
  | .fuseeBatch _ _ => none
  | .icacheFill _ _ _ _ => none
  | .boundaryLoadResponse _ _ _ => none
  | .boundaryStoreError _ => none
  | .berrLate _ => none
  | .eventEntry _ => none
  | .budget _ => none
  | .wdog _ _ => none
  | .terminalEntry _ => none
  | .stopRequest _ => none
  | .contextStop _ => none
  | .hang _ => none
  | .periodEvent _ => none
  | .deadbeatRelease _ _ => none
  | .releaseLate _ => none
  | .freeRelease _ _ => none
  | .eventRelease t _ => some t
  | .commitTick _ => none
  | .sampleRecord _ _ => none
  | .sampleMiss _ => none
  | .select _ _ _ _ _ _ => none
  | .inject _ _ _ _ => none
  | .calibrate _ _ => none
  | .cvcAccepted _ => none
  | .cvcDeferred _ => none
  | .cvcDone _ => none
  | .cvcError _ => none
  | .tripInput _ _ => none
  | .tripBlank _ _ => none
  | .trpClr _ _ _ => none
  | .hostEventInput _ _ => none
  | .fwForce _ _ _ => none
  | .chkf _ _ => none
  | .configIntegError _ => none
  | .parityError _ => none
  | .quenchClose _ => none
  | .substitutionHandover t => some t
  | .rotationStep t => some t
  | .migration t _ _ => some t
  | .rotLate t => some t
  | .testComplete _ _ => none
  | .retest t _ _ => some t
  | .standbyTest _ => none
  | .paceWindow t _ _ => some t
  | .vblkLow _ => none
  | .railOor t _ => some t
  | .retOor => none
  | .refclkLoss => none
  | .sweepLine t _ _ _ => some t
  | .eccChk t _ _ _ => some t
  | .strCmd t _ _ => some t
  | .streamerChunk t _ _ => some t
  | .strQstop t _ _ => some t
  | .tamper => none
  | .sealWipe => none
  | .powerOn _ => none
  | .blockReset => none
  | .retentionEntry _ => none
  | .retained => none
  | .retentionWake _ => none
  | .wakeComplete => none
  | .progKey _ _ => none
  | .toDevelop _ _ => none
  | .toSecured _ _ => none
  | .toReturned _ _ _ => none
  | .toScrapped _ _ => none
  | .fuseProgrammed _ => none
  | .check _ => none
  | .load _ _ => none
  | .abort _ => none
  | .discard _ _ => none
  | .start _ _ => none
  | .admission _ _ => none
  | .serviceTick => none
  | .switch _ _ => none
  | .revert _ _ => none
  | .cancel _ => none
  | .complete _ => none
  | .setSwitch => none
  | .rmtGstatEsc _ _ => none
  | .dialSel _ _ _ => none
  | .dialSeq _ => none
  | .fwCap _ => none
  | .fwCnt _ => none
  | .swpStat t => some t
  | .escLate => none
  | .blwPace t => some t
  | .dbgSkiprel _ => none
  | .trcRdata => none
  | .lnkCtl _ _ => none
  | .hostRegWrite _ _ _ => none
  | .hostWindowAccess _ _ _ _ _ _ => none
  | .hostWindowTimeout => none
  | .idcode => none
  | .bypass => none
  | .daddr _ => none
  | .ddata _ => none
  | .debugAccessDone _ => none
  | .tapReset => none
  | .halt _ _ => none
  | .haltTake _ => none
  | .resume _ _ => none
  | .step _ _ => none
  | .stim _ _ _ => none
  | .traceSync => none
  | .linkTxFrame => none
  | .linkRxFrame _ => none
  | .lnkLoss => none
  | .boundaryStoreResponse _ => none
  | .undefinedEncoding _ _ => none
  | .resetRelease _ => none
  | .powerOnResetHold _ => none
  | .masterCopyLoad t => some t
  | .tracePortDrain => none

/-- The fault window that a command names (spec 12 R313). -/
def Instr.window? : Instr → Option Nat
  | .lit _ _ => none
  | .litx _ _ => none
  | .ldk _ _ => none
  | .dup _ => none
  | .drop _ => none
  | .swap _ => none
  | .overS _ => none
  | .nip _ => none
  | .tuck _ => none
  | .rot _ => none
  | .minusRot _ => none
  | .twoDup _ => none
  | .twoDrop _ => none
  | .twoSwap _ => none
  | .twoOver _ => none
  | .toR _ => none
  | .rFrom _ => none
  | .rFetch _ => none
  | .rdrop _ => none
  | .pick _ _ => none
  | .poke _ _ => none
  | .add _ => none
  | .adc _ => none
  | .sub _ => none
  | .sbc _ => none
  | .rsub _ => none
  | .neg _ => none
  | .cmp _ => none
  | .tst _ => none
  | .and _ => none
  | .or _ => none
  | .xor _ => none
  | .andn _ => none
  | .not _ => none
  | .inc _ => none
  | .dec _ => none
  | .min _ => none
  | .max _ => none
  | .minu _ => none
  | .maxu _ => none
  | .abs _ => none
  | .sel _ => none
  | .adds _ => none
  | .subs _ => none
  | .negs _ => none
  | .abss _ => none
  | .clamp _ => none
  | .shls _ => none
  | .shl _ _ => none
  | .shr _ _ => none
  | .sar _ _ => none
  | .ror _ _ => none
  | .sarr _ _ => none
  | .mul _ => none
  | .mulh _ => none
  | .mulhu _ => none
  | .muld _ => none
  | .muldu _ => none
  | .mulfr _ => none
  | .divs _ _ => none
  | .divu _ _ => none
  | .mac _ => none
  | .msu _ => none
  | .mpy _ => none
  | .mack _ => none
  | .qclr _ => none
  | .qrd _ => none
  | .qrdc _ => none
  | .qsh _ => none
  | .qsat _ => none
  | .qldh _ => none
  | .qst _ => none
  | .qld _ => none
  | .xmac _ _ => none
  | .xmsu _ _ => none
  | .xmacr _ _ => none
  | .xsig _ _ => none
  | .bfx _ => none
  | .bfxs _ => none
  | .bfi _ => none
  | .clz _ => none
  | .cls _ => none
  | .popc _ => none
  | .brev _ => none
  | .perm _ => none
  | .loadViaA _ _ _ _ _ => none
  | .storeViaA _ _ _ _ => none
  | .loadWithOffset _ _ _ => none
  | .storeWithOffset _ _ _ => none
  | .auxPush _ _ => none
  | .auxPop _ _ => none
  | .auxExchange _ _ => none
  | .jmp _ _ => none
  | .bcc _ _ _ => none
  | .tz _ _ => none
  | .call _ _ _ => none
  | .callt _ _ => none
  | .jmpt _ => none
  | .ret _ => none
  | .nop _ => none
  | .reti _ => none
  | .yield _ => none
  | .wait _ => none
  | .sync _ => none
  | .lock _ _ => none
  | .lockTrunc _ => none
  | .rep _ => none
  | .bkpt _ _ => none
  | .trap _ _ => none
  | .csrr _ _ => none
  | .csrw _ _ => none
  | .icinv _ => none
  | .mactRestart _ => none
  | .mactAbandon _ => none
  | .frec _ => none
  | .savem _ _ => none
  | .loadm _ _ => none
  | .move _ _ _ _ => none
  | .fill _ _ _ _ => none
  | .inl _ _ => none
  | .inls _ _ => none
  | .evtAck _ _ => none
  | .evtPend _ => none
  | .mbPost _ _ => none
  | .mbTake _ _ => none
  | .evtHost _ _ => none
  | .storeRetire _ => none
  | .fuseeBatch _ _ => none
  | .icacheFill _ _ _ _ => none
  | .boundaryLoadResponse _ _ _ => none
  | .boundaryStoreError _ => none
  | .berrLate _ => none
  | .eventEntry _ => none
  | .budget _ => none
  | .wdog _ _ => none
  | .terminalEntry _ => none
  | .stopRequest _ => none
  | .contextStop _ => none
  | .hang _ => none
  | .periodEvent _ => none
  | .deadbeatRelease _ _ => none
  | .releaseLate _ => none
  | .freeRelease _ _ => none
  | .eventRelease _ _ => none
  | .commitTick _ => none
  | .sampleRecord _ _ => none
  | .sampleMiss _ => none
  | .select _ _ _ _ _ _ => none
  | .inject _ _ _ _ => none
  | .calibrate _ _ => none
  | .cvcAccepted _ => none
  | .cvcDeferred _ => none
  | .cvcDone _ => none
  | .cvcError _ => none
  | .tripInput _ _ => none
  | .tripBlank _ _ => none
  | .trpClr _ _ _ => none
  | .hostEventInput _ _ => none
  | .fwForce w _ _ => some w
  | .chkf _ _ => none
  | .configIntegError w => some w
  | .parityError _ => none
  | .quenchClose _ => none
  | .substitutionHandover _ => none
  | .rotationStep _ => none
  | .migration _ _ _ => none
  | .rotLate _ => none
  | .testComplete _ _ => none
  | .retest _ _ _ => none
  | .standbyTest _ => none
  | .paceWindow _ _ _ => none
  | .vblkLow _ => none
  | .railOor _ _ => none
  | .retOor => none
  | .refclkLoss => none
  | .sweepLine _ _ _ _ => none
  | .eccChk _ _ _ _ => none
  | .strCmd _ _ _ => none
  | .streamerChunk _ _ _ => none
  | .strQstop _ _ _ => none
  | .tamper => none
  | .sealWipe => none
  | .powerOn _ => none
  | .blockReset => none
  | .retentionEntry _ => none
  | .retained => none
  | .retentionWake _ => none
  | .wakeComplete => none
  | .progKey _ _ => none
  | .toDevelop _ _ => none
  | .toSecured _ _ => none
  | .toReturned _ _ _ => none
  | .toScrapped _ _ => none
  | .fuseProgrammed _ => none
  | .check _ => none
  | .load _ _ => none
  | .abort _ => none
  | .discard _ _ => none
  | .start _ _ => none
  | .admission _ _ => none
  | .serviceTick => none
  | .switch _ _ => none
  | .revert _ _ => none
  | .cancel _ => none
  | .complete _ => none
  | .setSwitch => none
  | .rmtGstatEsc _ _ => none
  | .dialSel _ _ _ => none
  | .dialSeq _ => none
  | .fwCap w => some w
  | .fwCnt w => some w
  | .swpStat _ => none
  | .escLate => none
  | .blwPace _ => none
  | .dbgSkiprel _ => none
  | .trcRdata => none
  | .lnkCtl _ _ => none
  | .hostRegWrite _ _ _ => none
  | .hostWindowAccess _ _ _ _ _ _ => none
  | .hostWindowTimeout => none
  | .idcode => none
  | .bypass => none
  | .daddr _ => none
  | .ddata _ => none
  | .debugAccessDone _ => none
  | .tapReset => none
  | .halt _ _ => none
  | .haltTake _ => none
  | .resume _ _ => none
  | .step _ _ => none
  | .stim _ _ _ => none
  | .traceSync => none
  | .linkTxFrame => none
  | .linkRxFrame _ => none
  | .lnkLoss => none
  | .boundaryStoreResponse _ => none
  | .undefinedEncoding _ _ => none
  | .resetRelease _ => none
  | .powerOnResetHold _ => none
  | .masterCopyLoad _ => none
  | .tracePortDrain => none

/-- Lines of a sweep area: train memory, the sealed region, a local store; 0 for a code of no area (spec 11 R285, R299). -/
def sweptLines (area : Nat) : Nat :=
  if area = 0 then 65536 else if area = 1 then 1024 else if 0x10 ≤ area ∧ area ≤ 0x18 then 2048 else 0

/-- The ranges of a command's other operands: generators and positions (spec 08 R218, 00 R7), logical contexts (03 R83),
groups, channels and lines (00 R3, 16 R411), host offsets (11 R310), the token's length (15 R395). -/
def Instr.fieldsOk : Instr → Bool
  | .lit _ _ => true
  | .litx _ _ => true
  | .ldk _ _ => true
  | .dup _ => true
  | .drop _ => true
  | .swap _ => true
  | .overS _ => true
  | .nip _ => true
  | .tuck _ => true
  | .rot _ => true
  | .minusRot _ => true
  | .twoDup _ => true
  | .twoDrop _ => true
  | .twoSwap _ => true
  | .twoOver _ => true
  | .toR _ => true
  | .rFrom _ => true
  | .rFetch _ => true
  | .rdrop _ => true
  | .pick _ _ => true
  | .poke _ _ => true
  | .add _ => true
  | .adc _ => true
  | .sub _ => true
  | .sbc _ => true
  | .rsub _ => true
  | .neg _ => true
  | .cmp _ => true
  | .tst _ => true
  | .and _ => true
  | .or _ => true
  | .xor _ => true
  | .andn _ => true
  | .not _ => true
  | .inc _ => true
  | .dec _ => true
  | .min _ => true
  | .max _ => true
  | .minu _ => true
  | .maxu _ => true
  | .abs _ => true
  | .sel _ => true
  | .adds _ => true
  | .subs _ => true
  | .negs _ => true
  | .abss _ => true
  | .clamp _ => true
  | .shls _ => true
  | .shl _ _ => true
  | .shr _ _ => true
  | .sar _ _ => true
  | .ror _ _ => true
  | .sarr _ _ => true
  | .mul _ => true
  | .mulh _ => true
  | .mulhu _ => true
  | .muld _ => true
  | .muldu _ => true
  | .mulfr _ => true
  | .divs _ _ => true
  | .divu _ _ => true
  | .mac _ => true
  | .msu _ => true
  | .mpy _ => true
  | .mack _ => true
  | .qclr _ => true
  | .qrd _ => true
  | .qrdc _ => true
  | .qsh _ => true
  | .qsat _ => true
  | .qldh _ => true
  | .qst _ => true
  | .qld _ => true
  | .xmac _ _ => true
  | .xmsu _ _ => true
  | .xmacr _ _ => true
  | .xsig _ _ => true
  | .bfx _ => true
  | .bfxs _ => true
  | .bfi _ => true
  | .clz _ => true
  | .cls _ => true
  | .popc _ => true
  | .brev _ => true
  | .perm _ => true
  | .loadViaA _ _ _ _ _ => true
  | .storeViaA _ _ _ _ => true
  | .loadWithOffset _ _ _ => true
  | .storeWithOffset _ _ _ => true
  | .auxPush _ _ => true
  | .auxPop _ _ => true
  | .auxExchange _ _ => true
  | .jmp _ _ => true
  | .bcc _ _ _ => true
  | .tz _ _ => true
  | .call _ _ _ => true
  | .callt _ _ => true
  | .jmpt _ => true
  | .ret _ => true
  | .nop _ => true
  | .reti _ => true
  | .yield _ => true
  | .wait _ => true
  | .sync _ => true
  | .lock _ _ => true
  | .lockTrunc _ => true
  | .rep _ => true
  | .bkpt _ _ => true
  | .trap _ _ => true
  | .csrr _ _ => true
  | .csrw _ _ => true
  | .icinv _ => true
  | .mactRestart _ => true
  | .mactAbandon _ => true
  | .frec _ => true
  | .savem _ _ => true
  | .loadm _ _ => true
  | .move _ _ _ _ => true
  | .fill _ _ _ _ => true
  | .inl _ _ => true
  | .inls _ _ => true
  | .evtAck _ _ => true
  | .evtPend _ => true
  | .mbPost _ _ => true
  | .mbTake _ _ => true
  | .evtHost _ _ => true
  | .storeRetire _ => true
  | .fuseeBatch _ _ => true
  | .icacheFill _ _ _ _ => true
  | .boundaryLoadResponse _ _ _ => true
  | .boundaryStoreError _ => true
  | .berrLate _ => true
  | .eventEntry _ => true
  | .budget _ => true
  | .wdog _ lctx => decide (lctx < 1024)
  | .terminalEntry _ => true
  | .stopRequest _ => true
  | .contextStop _ => true
  | .hang _ => true
  | .periodEvent p => decide (p < 16)
  | .deadbeatRelease _ lctx => decide (lctx < 1024)
  | .releaseLate _ => true
  | .freeRelease _ lctx => decide (lctx < 1024)
  | .eventRelease _ p => decide (p < 8)
  | .commitTick g => decide (g < 64)
  | .sampleRecord lane _ => decide (lane < 4)
  | .sampleMiss ch => decide (ch < 128)
  | .select c _ _ _ _ _ => decide (c < 64)
  | .inject c _ _ _ => decide (c < 64)
  | .calibrate c _ => decide (c < 64)
  | .cvcAccepted c => decide (c < 64)
  | .cvcDeferred c => decide (c < 64)
  | .cvcDone c => decide (c < 64)
  | .cvcError c => decide (c < 64)
  | .tripInput n _ => decide (n < 64)
  | .tripBlank n _ => decide (n < 64)
  | .trpClr _ _ _ => true
  | .hostEventInput _ line => decide (line < 32)
  | .fwForce _ _ _ => true
  | .chkf _ _ => true
  | .configIntegError _ => true
  | .parityError _ => true
  | .quenchClose _ => true
  | .substitutionHandover _ => true
  | .rotationStep _ => true
  | .migration _ _ lctx => decide (lctx < 1024)
  | .rotLate _ => true
  | .testComplete _ _ => true
  | .retest _ _ _ => true
  | .standbyTest _ => true
  | .paceWindow _ _ _ => true
  | .vblkLow _ => true
  | .railOor _ _ => true
  | .retOor => true
  | .refclkLoss => true
  | .sweepLine _ area line _ => decide (line < sweptLines area.toNat)
  | .eccChk _ area bank _ => decide (0 < sweptLines area.toNat ∧ (area = 0 → bank < 16))
  | .strCmd _ _ _ => true
  | .streamerChunk _ q _ => decide (q < 16)
  | .strQstop _ _ _ => true
  | .tamper => true
  | .sealWipe => true
  | .powerOn _ => true
  | .blockReset => true
  | .retentionEntry _ => true
  | .retained => true
  | .retentionWake _ => true
  | .wakeComplete => true
  | .progKey _ _ => true
  | .toDevelop _ _ => true
  | .toSecured _ _ => true
  | .toReturned _ token _ => decide (token.length = 136)
  | .toScrapped _ _ => true
  | .fuseProgrammed _ => true
  | .check _ => true
  | .load _ _ => true
  | .abort _ => true
  | .discard _ _ => true
  | .start _ _ => true
  | .admission _ _ => true
  | .serviceTick => true
  | .switch _ _ => true
  | .revert _ _ => true
  | .cancel _ => true
  | .complete _ => true
  | .setSwitch => true
  | .rmtGstatEsc g _ => decide (g < 64)
  | .dialSel n _ _ => decide (n < 32)
  | .dialSeq n => decide (n < 32)
  | .fwCap _ => true
  | .fwCnt _ => true
  | .swpStat _ => true
  | .escLate => true
  | .blwPace _ => true
  | .dbgSkiprel _ => true
  | .trcRdata => true
  | .lnkCtl _ _ => true
  | .hostRegWrite off _ _ => decide (off < 0x4000000) && decide (off % 4 = 0)
  | .hostWindowAccess off _ _ _ _ size => decide (off < 0x4000000) && decide (size ≤ 16)
  | .hostWindowTimeout => true
  | .idcode => true
  | .bypass => true
  | .daddr _ => true
  | .ddata _ => true
  | .debugAccessDone _ => true
  | .tapReset => true
  | .halt _ _ => true
  | .haltTake _ => true
  | .resume _ _ => true
  | .step _ _ => true
  | .stim p _ _ => decide (p < 64)
  | .traceSync => true
  | .linkTxFrame => true
  | .linkRxFrame _ => true
  | .lnkLoss => true
  | .boundaryStoreResponse _ => true
  | .undefinedEncoding _ _ => true
  | .resetRelease _ => true
  | .powerOnResetHold _ => true
  | .masterCopyLoad _ => true
  | .tracePortDrain => true

/-- A well-formed command. -/
def Instr.wf (i : Instr) : Bool :=
  below 72 i.engine? && below 8 i.train? && below 88 i.window? && i.fieldsOk

end Sys2Proof
end

