-- ==== Sys2Proof/Certificates/Slice0/Obligations.lean ====
section
/-! DEFINITION. The statements for the provers. An engine's instructions are stated over engines that execute (`Ready`), with the
bank that remains, the beats charged and everything else unchanged (`Completes` and its kin, Sys2Proof/Safety.lean). -/

open Sys2Proof Sys2Proof.Machine

/-! ### Data instructions of the engines (spec 03, 05) -/

/-- The stack windows: a push is a new T above the entries that were there, a drop uncovers the entries below, and a POKE
changes one entry (spec 03 R62-R65). Group 0 rearranges the youngest entries as the stack effects of R121 say, flags unchanged;
results are listed bottom first and x0 is T. >R, R>, R@ and RDROP move one return entry (R121, R123); a SHADOW entry at RT
raises PRIV with ARG 7 instead (R79). PICK x copies entry x, the one it has read where it then waited for room (log entry 52);
POKE x pops v and writes it in place of entry x below it (R122). -/
def Obligations.StackOperations : Prop :=
  (∀ (c : Ctx) (v : Word) (n x i : Nat),
    (c.push v).data 0 = v ∧ (i < 31 → (c.push v).data (i + 1) = c.data i) ∧ (c.push v).docc = c.docc + 1 ∧
    (i + n < 32 → (c.drop n).data i = c.data (i + n)) ∧ (c.drop n).docc = c.docc - n ∧
    (i < 32 → x < 32 → (c.setData x v).data i = if i = x then v else c.data i) ∧ (c.setData x v).docc = c.docc ∧
    (∀ tag : BitVec 5, (c.rpush v tag).ret 0 = v ∧ (c.rpush v tag).rtag 0 = tag ∧ (c.rpush v tag).rocc = c.rocc + 1 ∧
      (i < 15 → (c.rpush v tag).ret (i + 1) = c.ret i ∧ (c.rpush v tag).rtag (i + 1) = c.rtag i)) ∧
    (i + n < 16 → (c.rdrop n).ret i = c.ret (i + n) ∧ (c.rdrop n).rtag i = c.rtag (i + n)) ∧ (c.rdrop n).rocc = c.rocc - n) ∧
  (∀ (k : Nat) (s : State), Ready s k →
    let c := s.bank k
    let x0 := c.data 0
    let x1 := c.data 1
    let x2 := c.data 2
    let x3 := c.data 3
    let run (i : Instr) (pop : Nat) (res : List Word) : Prop :=
      c.fits pop res.length → Completes i s k (s.fetched k) (c.replace pop res) 1
    run (.dup k) 1 [x0, x0] ∧ run (.drop k) 1 [] ∧ run (.swap k) 2 [x0, x1] ∧ run (.overS k) 2 [x1, x0, x1] ∧
    run (.nip k) 2 [x0] ∧ run (.tuck k) 2 [x0, x1, x0] ∧ run (.rot k) 3 [x1, x0, x2] ∧ run (.minusRot k) 3 [x0, x2, x1] ∧
    run (.twoDup k) 2 [x1, x0, x1, x0] ∧ run (.twoDrop k) 2 [] ∧ run (.twoSwap k) 4 [x1, x0, x3, x2] ∧
    run (.twoOver k) 4 [x3, x2, x1, x0, x3, x2]) ∧
  (∀ (k : Nat) (s : State), Ready s k →
    let c := s.bank k
    (c.fits 1 0 → c.rocc + 1 ≤ 16 → Completes (.toR k) s k (s.fetched k) ((c.drop 1).rpush (c.data 0) 0) 1) ∧
    (1 ≤ c.rocc → tagKind (c.rtag 0) ≠ 3 →
      (c.fits 0 1 → Completes (.rFrom k) s k (s.fetched k) ((c.push (c.ret 0)).rdrop 1) 1) ∧
      (c.fits 0 1 → Completes (.rFetch k) s k (s.fetched k) (c.push (c.ret 0)) 1) ∧
      (c.fits 0 0 → Completes (.rdrop k) s k (s.fetched k) (c.rdrop 1) 1)) ∧
    (1 ≤ c.rocc → tagKind (c.rtag 0) = 3 →
      Traps (.rFrom k) s k (s.fetched k) c (.priv 7) c.resumePc 0x6011 ∧
      Traps (.rFetch k) s k (s.fetched k) c (.priv 7) c.resumePc 0x6012 ∧
      Traps (.rdrop k) s k (s.fetched k) c (.priv 7) c.resumePc 0x6013)) ∧
  (∀ (k : Nat) (s : State) (x : BitVec 5), Ready s k →
    let c := s.bank k
    (s.starts k → x.toNat + 1 ≤ c.docc → c.docc < 32 → Completes (.pick k x) s k (s.fetched k) (c.push (c.data x.toNat)) 1) ∧
    (∀ v, (s.engAt k).begun = .value v → c.docc < 32 → Completes (.pick k x) s k (s.fetched k) (c.push v) 1) ∧
    (x.toNat + 2 ≤ c.docc → Completes (.poke k x) s k (s.fetched k) ((c.drop 1).setData x.toNat (c.data 0)) 1))

/-- LIT, LITX and LDK push what the table of R119 gives: the sign-extended literal, T << 8 with the literal below, and the
little-endian word of local store at KBASE + 4 × u8 (R109, R120). Group 15 (R144, R145): push, pop and exchange with each
auxiliary register; FL and MODE ignore their reserved bits (R92, R93). -/
def Obligations.LiteralsAndAuxiliaries : Prop :=
  (∀ (k : Nat) (s : State), Ready s k →
    let c := s.bank k
    (∀ v : BitVec 15, c.fits 0 1 →
      ∃ x : Word, x.toInt = v.toInt ∧ Completes (.lit k v) s k (s.fetched k) (c.push x) 1) ∧
    (∀ u : BitVec 8, c.fits 1 1 →
      ∃ x : Word, x.toNat = (c.data 0).toNat * 256 % 2 ^ 32 + u.toNat ∧
        Completes (.litx k u) s k (s.fetched k) (c.replace 1 [x]) 1) ∧
    (∀ u : BitVec 8, c.fits 0 1 →
      let a := c.kbase.toNat + 4 * u.toNat
      let key := lsKey k a
      a + 3 ≤ 0xFFFF → ((s.who k).level = 3 ∨ (s.engAt k).inSpill a 4 = false) → s.isUE key = false →
      ∃ x : Word, x.toNat = (s.byteAt key).toNat + 256 * (s.byteAt (key + 1)).toNat + 256 ^ 2 * (s.byteAt (key + 2)).toNat +
          256 ^ 3 * (s.byteAt (key + 3)).toNat ∧
        Completes (.ldk k u) s k ((s.fetched k).noteCE key 4) (c.push x) 1)) ∧
  (∀ (k : Nat) (s : State) (r : BitVec 3), Ready s k →
    let c := s.bank k
    let t := c.data 0
    let v := if r = 6 then t &&& 0x1F else if r = 7 then t &&& 0xF else t
    let holds (c1 : Ctx) : Prop := c1.auxR r.toNat = v ∧ ∀ j < 8, j ≠ r.toNat → c1.auxR j = c.auxR j
    (c.fits 0 1 → Completes (.auxPush k r) s k (s.fetched k) (c.push (c.auxR r.toNat)) 1) ∧
    (c.fits 1 0 → ∃ c1, holds c1 ∧ { c1 with aux := [] } = { c.drop 1 with aux := [] } ∧
      Completes (.auxPop k r) s k (s.fetched k) c1 1) ∧
    (c.fits 1 1 → ∃ c1, holds c1 ∧ { c1 with aux := [] } = { c.setData 0 (c.auxR r.toNat) with aux := [] } ∧
      Completes (.auxExchange k r) s k (s.fetched k) c1 1))

/-- Group 1 arithmetic and logic (R124, with R125's results): a + b, a + b + FL.C, a - b, a - b - (1 - FL.C) and their kin,
taken exactly and wrapped; C is the carry out of bit 31 on addition and "no borrow" on subtraction, V signed overflow; logic
sets Z and N and leaves C and V. -/
def Obligations.ArithmeticFlags : Prop :=
  ∀ (k : Nat) (s : State), Ready s k →
    let c := s.bank k
    let b := c.data 0
    let a := c.data 1
    let cin := c.fl.c.toNat
    let sum (i : Instr) (pop : Nat) (exact : Int) (carry : Bool) : Prop := c.fits pop 1 →
      Completes i s k (s.fetched k) ((c.replace pop [BitVec.ofInt 32 exact]).setFl (c.fl.arith exact carry)) 1
    let logic (i : Instr) (pop : Nat) (r : Word) : Prop := c.fits pop 1 →
      Completes i s k (s.fetched k) ((c.replace pop [r]).setFl { c.fl with z := r == 0, n := r.msb }) 1
    sum (.add k) 2 (a.toInt + b.toInt) (decide (2 ^ 32 ≤ a.toNat + b.toNat)) ∧
    sum (.adc k) 2 (a.toInt + b.toInt + cin) (decide (2 ^ 32 ≤ a.toNat + b.toNat + cin)) ∧
    sum (.inc k) 1 (b.toInt + 1) (decide (2 ^ 32 ≤ b.toNat + 1)) ∧
    sum (.sub k) 2 (a.toInt - b.toInt) (decide (b.toNat ≤ a.toNat)) ∧
    sum (.sbc k) 2 (a.toInt - b.toInt - (1 - cin)) (decide (b.toNat + 1 ≤ a.toNat + cin)) ∧
    sum (.rsub k) 2 (b.toInt - a.toInt) (decide (a.toNat ≤ b.toNat)) ∧
    sum (.neg k) 1 (-b.toInt) (decide (b = 0)) ∧
    sum (.dec k) 1 (b.toInt - 1) (decide (1 ≤ b.toNat)) ∧
    (c.fits 2 0 → Completes (.cmp k) s k (s.fetched k)
      ((c.replace 2 []).setFl (c.fl.arith (a.toInt - b.toInt) (decide (b.toNat ≤ a.toNat)))) 1) ∧
    logic (.and k) 2 (a &&& b) ∧ logic (.or k) 2 (a ||| b) ∧ logic (.xor k) 2 (a ^^^ b) ∧ logic (.andn k) 2 (a &&& ~~~b) ∧
    logic (.not k) 1 (~~~b)

/-- The rest of group 1 (R125): TST keeps T; minima and maxima, signed and unsigned; ABS with V for the most negative value;
SEL leaves FL. -/
def Obligations.SelectionsAndTests : Prop :=
  ∀ (k : Nat) (s : State), Ready s k →
    let c := s.bank k
    let b := c.data 0
    let a := c.data 1
    let zn (i : Instr) (pop : Nat) (p : Word → Prop) : Prop := c.fits pop 1 →
      ∃ r, p r ∧ Completes i s k (s.fetched k) ((c.replace pop [r]).setFl { c.fl with z := r == 0, n := r.msb }) 1
    (c.fits 1 1 → Completes (.tst k) s k (s.fetched k)
      ((c.replace 1 [b]).setFl { c.fl with z := b == 0, n := b.msb, c := false, v := false }) 1) ∧
    zn (.min k) 2 (fun r => r.toInt = Min.min a.toInt b.toInt) ∧ zn (.max k) 2 (fun r => r.toInt = Max.max a.toInt b.toInt) ∧
    zn (.minu k) 2 (fun r => r.toNat = Min.min a.toNat b.toNat) ∧ zn (.maxu k) 2 (fun r => r.toNat = Max.max a.toNat b.toNat) ∧
    (c.fits 1 1 → ∃ r : Word, r.toNat = b.toInt.natAbs ∧ Completes (.abs k) s k (s.fetched k)
      ((c.replace 1 [r]).setFl { c.fl with z := r == 0, n := r.msb, v := b == 0x80000000 }) 1) ∧
    (c.fits 3 1 → Completes (.sel k) s k (s.fetched k)
      ((c.replace 3 [if b = 0 then c.data 2 else a]).setFl c.fl) 1)

/-- Group 2 (R126, R127) in both formats: each value or lane is the exact result moved into the signed range; Z and N of the
result, C and V clear, S set when any value or lane moved. CLAMP sets S when y ≠ x, gives hi when lo > hi; SHLS by 0 gives a.
-/
def Obligations.SaturatingResults : Prop :=
  ∀ (k : Nat) (s : State), Ready s k →
    let c := s.bank k
    let x0 := c.data 0
    let x1 := c.data 1
    let x2 := c.data 2
    let out (i : Instr) (pop : Nat) (exact res : Nat → Int → Int → Int → Int) : Prop := c.fits pop 1 →
      ∃ r : Word,
        let moved : Bool :=
          if c.md.fmt then decide (res 16 (laneHi x2) (laneHi x1) (laneHi x0) ≠ exact 16 (laneHi x2) (laneHi x1) (laneHi x0)) ||
            decide (res 16 (laneLo x2) (laneLo x1) (laneLo x0) ≠ exact 16 (laneLo x2) (laneLo x1) (laneLo x0))
          else decide (res 32 x2.toInt x1.toInt x0.toInt ≠ exact 32 x2.toInt x1.toInt x0.toInt)
        (if c.md.fmt then laneHi r = res 16 (laneHi x2) (laneHi x1) (laneHi x0) ∧ laneLo r = res 16 (laneLo x2) (laneLo x1) (laneLo x0)
          else r.toInt = res 32 x2.toInt x1.toInt x0.toInt) ∧
        Completes i s k (s.fetched k)
          ((c.replace pop [r]).setFl { s := c.fl.s || moved, n := r.msb, z := r == 0, c := false, v := false }) 1
    let sat (i : Instr) (pop : Nat) (exact : Nat → Int → Int → Int → Int) : Prop :=
      out i pop exact (fun w c b a => satTo w (exact w c b a))
    let shift : Nat → Int → Int → Int → Int := fun w _ b _ => b * 2 ^ (x0.toNat % w)
    sat (.adds k) 2 (fun _ _ b a => b + a) ∧ sat (.subs k) 2 (fun _ _ b a => b - a) ∧ sat (.negs k) 1 (fun _ _ _ a => -a) ∧
    sat (.abss k) 1 (fun _ _ _ a => a.natAbs) ∧
    out (.clamp k) 3 (fun _ x _ _ => x) (fun _ x lo hi => if hi < lo then hi else Min.min (Max.max x lo) hi) ∧
    sat (.shls k) 2 shift ∧ (∀ w b, x0.toNat % w = 0 → shift w 0 b 0 = b)

/-- Groups 3 and 4 (R128, R129): SHL, SHR and SAR by s are s single-bit shifts, for any s, with C the last bit out; ROR
rotates by s mod 32; SARR rounds the exact value a × 2^-s by MODE.RND. All set Z and N and leave V. -/
def Obligations.ShiftsAreSingleBitShifts : Prop :=
  ∀ (k : Nat) (s : State) (amt : ShAmt), Ready s k →
    let c := s.bank k
    let pop := match amt with | .imm _ => 1 | .byT => 2
    let a := match amt with | .imm _ => c.data 0 | .byT => c.data 1
    let n := match amt with | .imm x => x.toNat | .byT => (c.data 0).toNat
    let out (i : Instr) (r : Word) (cy : Bool) : Prop :=
      Completes i s k (s.fetched k) ((c.replace pop [r]).setFl { c.fl with z := r == 0, n := r.msb, c := cy }) 1
    c.fits pop 1 →
      let l := Nat.repeat shl1 n (a, false)
      let r := Nat.repeat shr1 n (a, false)
      let x := Nat.repeat sar1 n (a, false)
      let o := a.rotateRight (n % 32)
      out (.shl k amt) l.1 l.2 ∧ out (.shr k amt) r.1 r.2 ∧ out (.sar k amt) x.1 x.2 ∧
      out (.ror k amt) o (if n % 32 = 0 then false else o.msb) ∧
      ∃ y : Word, Rounded c.md.rnd a.toInt n y.toInt ∧ (n = 0 → y = a) ∧ (c.md.rnd = 3 → 0 < a.toInt → 32 ≤ n → y = 1) ∧
        out (.sarr k amt) y x.2

/-- The multiplies of group 5 (R130): low and high words of the exact product, the 64-bit products low word first, and MULFR
rounded by MODE.RND and clamped. -/
def Obligations.Multiplies : Prop :=
  ∀ (k : Nat) (s : State), Ready s k →
    let c := s.bank k
    let b := c.data 0
    let a := c.data 1
    let p := a.toInt * b.toInt
    let u := a.toNat * b.toNat
    let out (i : Instr) (res : List Word) (f : Fl) : Prop := Completes i s k (s.fetched k) ((c.replace 2 res).setFl f) 2
    c.fits 2 2 →
      (∃ r : Word, r = BitVec.ofInt 32 p ∧
        out (.mul k) [r] { c.fl with z := r == 0, n := r.msb, c := false, v := decide (p < -2 ^ 31 ∨ 2 ^ 31 ≤ p) }) ∧
      (∃ r : Word, r.toInt = p / 2 ^ 32 ∧ out (.mulh k) [r] { c.fl with z := r == 0, n := r.msb }) ∧
      (∃ r : Word, r.toNat = u / 2 ^ 32 ∧ out (.mulhu k) [r] { c.fl with z := r == 0, n := r.msb }) ∧
      (∃ lo hi : Word, lo.toNat + 2 ^ 32 * hi.toInt = p ∧
        out (.muld k) [lo, hi] { c.fl with z := decide (p = 0), n := decide (p < 0) }) ∧
      (∃ lo hi : Word, lo.toNat + 2 ^ 32 * hi.toNat = u ∧
        out (.muldu k) [lo, hi] { c.fl with z := decide (u = 0), n := decide (2 ^ 63 ≤ u) }) ∧
      (∃ (x : Int) (r : Word), Rounded c.md.rnd p 31 x ∧ r.toInt = satTo 32 x ∧
        out (.mulfr k) [r] { c.fl with s := c.fl.s || decide (satTo 32 x ≠ x), z := r == 0, n := r.msb })

/-- DIVS and DIVU (R130-R134): a division with a non-zero divisor ends with the truncated quotient and the remainder on the
stack, with their magnitudes in A1 and A0 and C at 0, whether it is new, resumes behind a stop or goes on from its own boundary,
with progress that is true of its operands; DIVS of the most negative number by -1 writes itself and 0 and sets V. The beats are
those of R133; what a resumed division costs, an element of 8 bits at 4 beats, is the reading of log entry 53, the model's
inference. Fewer elements than it needs leave it at a boundary, where C counts the bits still to come and A1 and A0 are quotient
and remainder of the bits above it. Division by zero raises DIVZ. -/
def Obligations.DivisionsAreExact : Prop :=
  ∀ (k n : Nat) (s : State) (signed : Bool), Ready s k → s.unlocked k →
    let c := s.bank k
    let d := c.data 0
    let m := c.data 1
    let i : Instr := if signed then .divs k n else .divu k n
    let x := if signed then m.toInt.natAbs else m.toNat
    let y := if signed then d.toInt.natAbs else d.toNat
    let wraps := signed && m == 0x80000000 && d == 0xFFFFFFFF
    let holds (b : Ctx) : Prop :=
      b.cnt ≤ 32 ∧ (b.auxR 1).toNat = x / 2 ^ b.cnt / y ∧ (b.auxR 0).toNat = x / 2 ^ b.cnt % y
    let ends (cost : Nat) : Prop := ∃ q r : Word,
      (if signed then q.toInt = (if wraps then -2 ^ 31 else m.toInt.tdiv d.toInt) ∧ r.toInt = m.toInt.tmod d.toInt
        else q.toNat = m.toNat / d.toNat ∧ r.toNat = m.toNat % d.toNat) ∧
      Completes i s k (s.fetched k)
        (((((c.setAux 0 (BitVec.ofNat 32 (x % y))).setAux 1 (BitVec.ofNat 32 (x / y))).setAux 5 0).replace 2 [r, q]).setFl
          { c.fl with z := q == 0, n := q.msb, c := false, v := wraps }) cost
    let stands (start cost : Nat) : Prop := (s.engAt k).sbuf = [] → ∃ c1 : Ctx, Waits i s k (s.fetched k) c1 cost ∧
      c1.divp = true ∧ c1.cnt = start - 8 * n ∧ holds c1 ∧ { c1 with aux := [], divp := c.divp } = { c with aux := [] } ∧
      ∀ j < 8, j ≠ 0 → j ≠ 1 → j ≠ 5 → c1.auxR j = c.auxR j
    let c0 := if c.db then 32 else bitLength x + 1 - bitLength y
    2 ≤ c.docc →
      (d ≠ 0 → s.starts k → c.divp = false →
        (0 < n → c0 ≤ 8 * n → ends (if c.db then 18 else Max.max 4 (2 + 2 * ((c0 + 3) / 4)))) ∧
        ((n = 0 ∨ 8 * n < c0) → stands c0 (2 + 4 * n))) ∧
      (d ≠ 0 → s.starts k → c.divp = true → holds c →
        (0 < n → c.cnt ≤ 8 * n → ends (2 + 2 * ((c.cnt + 3) / 4))) ∧
        ((n = 0 ∨ 8 * n < c.cnt) → stands c.cnt (2 + 4 * n))) ∧
      (d ≠ 0 → (s.engAt k).begun = .setup 2 → c.divp = true → holds c →
        (c.cnt ≤ 8 * n → ends (Max.max 2 (2 * ((c.cnt + 3) / 4)))) ∧
        (8 * n < c.cnt → stands c.cnt (4 * n))) ∧
      (d = 0 → Traps i s k (s.fetched k) c { code := 0xE } c.resumePc (if signed then 0x6508 else 0x6509))

/-- Group 8 (R135, R136): every result bit by bit, with the field cut at bit 31. -/
def Obligations.BitFields : Prop :=
  ∀ (k : Nat) (s : State), Ready s k →
    let c := s.bank k
    let t := c.data 0
    let a := c.data 1
    let pos := t.toNat % 32
    let width := Min.min (Min.min (t.toNat / 256 % 64) 32) (32 - pos)
    let out (i : Instr) (pop : Nat) (p : Word → Prop) : Prop := c.fits pop 1 →
      ∃ r, p r ∧ Completes i s k (s.fetched k) ((c.replace pop [r]).setFl { c.fl with z := r == 0, n := r.msb }) 1
    out (.bfx k) 2 (fun r => ∀ i < 32, r.getLsbD i = (decide (i < width) && a.getLsbD (pos + i))) ∧
    out (.bfxs k) 2 (fun r => ∀ i < 32,
      r.getLsbD i = (decide (0 < width) && a.getLsbD (pos + Min.min i (width - 1)))) ∧
    out (.bfi k) 3 (fun r => ∀ i < 32,
      r.getLsbD i = if pos ≤ i ∧ i < pos + width then a.getLsbD (i - pos) else (c.data 2).getLsbD i) ∧
    out (.clz k) 1 (fun r => r.toNat ≤ 32 ∧ (∀ i < 32, 32 - r.toNat ≤ i → t.getLsbD i = false) ∧
      (r.toNat < 32 → t.getLsbD (31 - r.toNat) = true)) ∧
    out (.cls k) 1 (fun r => r.toNat ≤ 31 ∧ (∀ i < 31, 31 - r.toNat ≤ i → t.getLsbD i = t.msb) ∧
      (r.toNat < 31 → t.getLsbD (30 - r.toNat) = !t.msb)) ∧
    out (.popc k) 1 (fun r => r.toNat = (List.range 32).countP (fun i => t.getLsbD i)) ∧
    out (.brev k) 1 (fun r => ∀ i < 32, r.getLsbD i = t.getLsbD (31 - i)) ∧
    out (.perm k) 2 (fun r => ∀ i < 4, ∀ j < 8,
      r.getLsbD (8 * i + j) = a.getLsbD (8 * (t.toNat / 4 ^ i % 4) + j))

/-! ### The accumulator (spec 06 R147-R153) -/

/-- The multiply-accumulates of group 6: MAC and MACK add the product term of MODE.FMT to Q, MSU subtracts it, MPY stores it;
a clamp under MODE.SAT sets FL.S; MACK keeps the entry below T (R147, with R95 and R97). The rest of group 6 (R147, R148):
QCLR; QRD and QRDC push Q rounded to the format, clamped under MODE.SAT; QSH shifts by a signed amount; QSAT clamps to 64
bits; QLDH, QST and QLD move it. -/
def Obligations.AccumulatorOperations : Prop :=
  (∀ (k : Nat) (s : State), Ready s k →
    let c := s.bank k
    let a := c.data 1
    let b := c.data 0
    let p : Int := if c.md.fmt then (laneHi a * laneHi b + laneLo a * laneLo b) * 2 ^ 33 else a.toInt * b.toInt * 2
    let out (i : Instr) (pop : Nat) (x : Int) : Prop :=
      Completes i s k (s.fetched k) { (c.drop pop).stick (accTo c.md.sat x).2 with q := (accTo c.md.sat x).1 } 1
    2 ≤ c.docc →
      out (.mac k) 2 (c.q.toInt + p) ∧ out (.msu k) 2 (c.q.toInt - p) ∧ out (.mpy k) 2 p ∧ out (.mack k) 1 (c.q.toInt + p) ∧
      (accTo c.md.sat p).1.toInt = p ∧ (accTo c.md.sat p).2 = false) ∧
  (∀ (k : Nat) (s : State), Ready s k →
    let c := s.bank k
    let w := if c.md.fmt then 16 else 32
    let out (i : Instr) (c1 : Ctx) (q : Acc) (cost : Nat) : Prop := Completes i s k (s.fetched k) { c1 with q := q } cost
    out (.qclr k) c 0 1 ∧
    (c.fits 0 1 → ∃ (x y : Int) (r : Word), Rounded c.md.rnd c.q.toInt (if c.md.fmt then 48 else 32) x ∧
      y = (if c.md.sat then satTo w x else x) ∧ r.toInt = (BitVec.ofInt w y).toInt ∧
      let c1 := (c.push r).setFl { c.fl with z := r == 0, n := r.msb, s := c.fl.s || decide (y ≠ x) }
      out (.qrd k) c1 c.q 2 ∧ out (.qrdc k) c1 0 2) ∧
    (c.fits 1 0 → 0 ≤ (c.data 0).toInt →
      let o := accTo c.md.sat (c.q.toInt * 2 ^ Min.min (c.data 0).toInt.toNat 72)
      out (.qsh k) ((c.drop 1).stick o.2) o.1 2) ∧
    (c.fits 1 0 → (c.data 0).toInt < 0 → ∃ q : Acc,
      Rounded c.md.rnd c.q.toInt (Min.min (-(c.data 0).toInt).toNat 72) q.toInt ∧ out (.qsh k) (c.drop 1) q 2) ∧
    (∃ q : Acc, q.toInt = satTo 64 c.q.toInt ∧ out (.qsat k) (c.stick (decide (q ≠ c.q))) q 2) ∧
    (c.fits 1 0 → ∃ q : Acc, q.toInt = (c.data 0).toInt * 2 ^ 32 ∧ out (.qldh k) (c.drop 1) q 2) ∧
    (c.fits 0 3 → ∃ lo hi g : Word, lo.toNat + 2 ^ 32 * hi.toNat + 2 ^ 64 * g.toInt = c.q.toInt ∧
      out (.qst k) (((c.push lo).push hi).push g) c.q 2) ∧
    (c.fits 3 0 → ∃ q : Acc,
      q.toNat = (c.data 2).toNat + 2 ^ 32 * (c.data 1).toNat + 2 ^ 64 * ((c.data 0).toNat % 256) ∧ out (.qld k) (c.drop 3) q 2))

/-- Group 7 in START, TEST or RECOVER (R151-R153): over the C elements at A0 upwards and at A1 upwards (XMACR downwards),
read from memory as it stands, Q takes one element after the other; A0 and A1 end behind the last element and C at 0, in 2 +
C beats. Fewer elements leave the instruction at an element boundary. Out of START, TEST and RECOVER a group 7 instruction
raises ILLEGAL, in either mode and at every level, before any other check (R150). -/
def Obligations.DotProducts : Prop :=
  (∀ (k n : Nat) (s : State), Ready s k → s.unlocked k → s.starts k → (s.engAt k).sbuf = [] →
    ((s.engAt k).st = .start ∨ (s.engAt k).st = .test ∨ (s.engAt k).st = .recover) →
    let c := s.bank k
    let a0 := (c.auxR 0).toNat
    let a1 := (c.auxR 1).toNat
    let at1 (down : Bool) (j : Nat) : Nat := if down then a1 - 4 * j else a1 + 4 * j
    let ls (j : Nat) : Word := s.rd32 (lsKey k (a0 + 4 * j))
    let tm (down : Bool) (j : Nat) : Word := s.rd32 (tmKey (trainOf k) (at1 down j % 0x200000))
    let term (down : Bool) (j : Nat) : Int :=
      if c.md.fmt then (laneHi (ls j) * laneHi (tm down j) + laneLo (ls j) * laneLo (tm down j)) * 2 ^ 33
      else (ls j).toInt * (tm down j).toInt * 2
    let sound (down : Bool) : Prop := a0 % 4 = 0 ∧ a1 % 4 = 0 ∧ ∀ j < c.cnt,
      a0 + 4 * j + 3 ≤ 0xFFFF ∧ ((s.who k).level = 3 ∨ (s.engAt k).inSpill (a0 + 4 * j) 4 = false) ∧
      (s.firstUE (lsKey k (a0 + 4 * j)) 4) = none ∧ s.ce.contains (lsKey k (a0 + 4 * j) / 8 * 8) = false ∧ (down = true → 4 * j ≤ a1) ∧
      0x01000000 ≤ at1 down j ∧ at1 down j + 3 ≤ 0x011FFFFF ∧
      (s.tmPlace (s.who k) (at1 down j % 0x200000) 4 false false).isSome = true ∧
      (s.firstUE (tmKey (trainOf k) (at1 down j % 0x200000)) 4) = none ∧
      s.ce.contains (tmKey (trainOf k) (at1 down j % 0x200000) / 8 * 8) = false
    let after (down : Bool) (elem : Nat → Acc → Acc × Bool) (m : Nat) (c1 : Ctx) : Prop :=
      let r := (List.range m).foldl (fun (p : Acc × Bool) j => ((elem j p.1).1, p.2 || (elem j p.1).2)) (c.q, false)
      { c1 with aux := [] } = { c with aux := [], q := r.1 } ∧
      c1.auxR 0 = c.auxR 0 + BitVec.ofNat 32 (4 * m) ∧
      c1.auxR 1 = (if down then c.auxR 1 - BitVec.ofNat 32 (4 * m) else c.auxR 1 + BitVec.ofNat 32 (4 * m)) ∧
      c1.cnt = c.cnt - m ∧ c1.fl = { c.fl with s := c.fl.s || r.2 } ∧
      c1.auxR 2 = c.auxR 2 ∧ c1.auxR 3 = c.auxR 3 ∧ c1.auxR 4 = c.auxR 4 ∧ c1.md = c.md
    let runs (i : Instr) (down : Bool) (elem : Nat → Acc → Acc × Bool) : Prop :=
      (c.cnt = 0 → Completes i s k (s.fetched k) c 2) ∧
      (0 < c.cnt → sound down →
        (c.cnt ≤ n → ∃ c1, after down elem c.cnt c1 ∧ Completes i s k (s.fetched k) c1 (2 + c.cnt)) ∧
        (n < c.cnt → ∃ c1, after down elem n c1 ∧ Waits i s k (s.fetched k) c1 (2 + n)))
    runs (.xmac k n) false (fun j q => accTo c.md.sat (q.toInt + term false j)) ∧
    runs (.xmsu k n) false (fun j q => accTo c.md.sat (q.toInt - term false j)) ∧
    runs (.xmacr k n) true (fun j q => accTo c.md.sat (q.toInt + term true j)) ∧
    runs (.xsig k n) false (fun j q =>
      (q.extractLsb' 64 8 ++ (q.extractLsb' 32 32 + ls j + tm false j) ++
        ((q.extractLsb' 0 32).rotateLeft 1 ^^^ ls j ^^^ tm false j), false))) ∧
  (∀ (k n : Nat) (s : State), Ready s k → s.unlocked k →
    (s.engAt k).st ≠ .start → (s.engAt k).st ≠ .test → (s.engAt k).st ≠ .recover →
    let c := s.bank k
    let ill (i : Instr) (w : BitVec 16) : Prop := Traps i s k (s.fetched k) c .illegal c.resumePc w
    ill (.xmac k n) 0x6700 ∧ ill (.xmsu k n) 0x6701 ∧ ill (.xmacr k n) 0x6702 ∧ ill (.xsig k n) 0x6703)

/-! ### Loads and stores (spec 02 R48-R56, 04 R106-R108, 05 R137-R145) -/

/-- Loads of groups 9 and 11 from the arrays (R107, R137, R138): address and update as the code says, the little-endian value
extended to the width's entries, and 10 or 12 beats in deadbeat mode, 1 or 3 in free mode with one more across a 64-bit line.
Over stores that have not retired (02 R43, R53) the value is the one these leave: in deadbeat mode the whole buffer has retired
in the same beats, in free mode a load whose bytes all stand in the youngest entry that holds any takes them from there, and any
other overlap waits, a beat at a time, until the buffer is empty. -/
def Obligations.LoadsReadMemory : Prop :=
  ∀ (k key : Nat) (s : State) (an wd : BitVec 2) (sx : Bool) (upd : BitVec 3) (u6 : BitVec 6), Ready s k →
    let c := s.bank k
    let e := s.engAt k
    let a := c.auxR an.toNat
    let db := (s.who k).db
    let cost (x : Word) (m : Nat) : Nat :=
      if db then (if x.toNat ≤ 0xFFFF then 10 else 12)
      else (if x.toNat ≤ 0xFFFF then 1 else 3) + (if 8 < x.toNat % 8 + m then 1 else 0)
    let value (sx : Bool) (wd : BitVec 2) (v : Nat) (ws : List Word) : Prop :=
      match ws with
      | [x] => wd.toNat ≤ 2 ∧ (sx = false → x.toNat = v) ∧
          (sx = true → x.toInt = if v < 2 ^ (8 * 2 ^ wd.toNat - 1) then (v : Int) else (v : Int) - 2 ^ (8 * 2 ^ wd.toNat))
      | [lo, hi] => wd = 3 ∧ lo.toNat + 2 ^ 32 * hi.toNat = v
      | _ => False
    let reads (i : Instr) (sx : Bool) (wd : BitVec 2) (x new : Word) : Prop :=
      let n := 2 ^ wd.toNat
      let room := c.fits 0 (if wd = 3 then 2 else 1)
      let after (ws : List Word) : Ctx := (c.setAux an.toNat new).pushAll ws
      let whole := ∀ y, e.youngest key n = some y → ∀ j < n, y.holds (key + j) = true
      let gives (p : State → Prop) : Prop := ∃ s1 v ws, Drained (s.fetched k) s1 k ∧ p s1 ∧ v < 256 ^ n ∧
        (∀ j < n, v / 256 ^ j % 256 = (s.seen k (key + j)).toNat) ∧ value sx wd v ws ∧
        Completes i s k s1 (after ws) (cost x n)
      (Reads s k x.toNat n key → room → ∃ ws, value sx wd (s.rdBytes key n) ws ∧
        Completes i s k ((s.fetched k).noteCE key n) (after ws) (cost x n)) ∧
      (s.memPlace (s.who k) x.toNat n false true = .ok key → s.ue = [] → s.ce = [] → s.fences = [] → s.lcs.wiping = false →
        (db = true → e.sbuf.length ≤ 4 → (∀ y ∈ e.sbuf, y.wait = 0 ∧ y.got ≤ 1) → room →
          gives (fun s1 => (s1.engAt k).sbuf = [])) ∧
        (db = false → whole → (e.begun ≠ .inner ∨ e.sbuf = []) → room → gives (fun _ => True)) ∧
        (db = false → (¬ whole ∨ e.begun = .inner ∧ e.sbuf ≠ []) → Waits i s k (s.fetched k) c 1))
    let via (x new : Word) : Prop := reads (.loadViaA k an wd sx upd) sx wd x new
    let n : Word := BitVec.ofNat 32 (2 ^ wd.toNat)
    (sx = true → wd.toNat < 2) →
      (upd = 0 → via a a) ∧ (upd = 1 → via a (a + n)) ∧ (upd = 2 → via (a - n) (a - n)) ∧
      (upd = 3 → via (a + c.auxR 4) a) ∧ (upd = 4 → via a (a + c.auxR 4)) ∧
      reads (.loadWithOffset k an u6) false 2 (a + BitVec.ofNat 32 (4 * u6.toNat)) a

/-- Stores of groups 10 and 12 to the arrays (R48, R52, R107, R137, R138): the bytes of the value enter the store buffer, at the
youngest end, in 1 beat, and memory stays until they retire; with the buffer full the instruction waits. STORE_RETIRE, in a beat
that no deadbeat code counts (R50): the oldest entry leaves the store buffer and its masked bytes enter memory, unless a fenced
bank or a tamper's wipe discards them; every other byte reads as before, and so do the registers. While deadbeat code runs the
row does nothing: an entry retires in its slot (R51), two adjacent beats in which the instruction makes no restart fetch and no
access to local store; a beat between them that does starts the count again. -/
def Obligations.StoresRetire : Prop :=
  (∀ (k key : Nat) (s : State) (an wd : BitVec 2) (upd : BitVec 3) (u6 : BitVec 6), Ready s k →
    let c := s.bank k
    let e := s.engAt k
    let a := c.auxR an.toNat
    let n := 2 ^ wd.toNat
    let v := if wd = 3 then (c.data 1).toNat + 2 ^ 32 * (c.data 0).toNat else (c.data 0).toNat % 2 ^ (8 * n)
    let pop := if wd = 3 then 2 else 1
    let put (i : Instr) (x : Word) (n v pop : Nat) (new : Word) : Prop :=
      s.memPlace (s.who k) x.toNat n true true = .ok key → pop ≤ c.docc →
        (e.sbuf.length ≤ 2 → ((s.who k).db = true ∨ e.sbuf = []) → ∃ es, Hold es key n v ∧
          Completes i s k ((s.fetched k).modEng k (fun e => { e with sbuf := e.sbuf ++ es })) ((c.drop pop).setAux an.toNat new) 1) ∧
        (4 ≤ e.sbuf.length → (s.who k).db = true → Waits i s k (s.fetched k) c 1)
    let via (x new : Word) : Prop := put (.storeViaA k an wd upd) x n v pop new
    (upd = 0 → via a a) ∧ (upd = 1 → via a (a + BitVec.ofNat 32 n)) ∧
    (upd = 2 → via (a - BitVec.ofNat 32 n) (a - BitVec.ofNat 32 n)) ∧
    (upd = 3 → via (a + c.auxR 4) a) ∧ (upd = 4 → via a (a + c.auxR 4)) ∧
    put (.storeWithOffset k an u6) (a + BitVec.ofNat 32 (4 * u6.toNat)) 4 (c.data 0).toNat 1 a) ∧
  (∀ (k a : Nat) (s : State) (e : SBE) (r : List SBE), s.hasEngine k = true → (s.engAt k).sbuf = e :: r → e.line % 8 = 0 →
    (s.slotted k = true → exec (.storeRetire k) s = .next s) ∧
    (s.slotted k = false → (e.mask = 0xFF ∨ s.isUE e.line = false) →
    ∃ t, exec (.storeRetire k) s = .next t ∧ (t.engAt k).sbuf = r ∧ { t.engAt k with sbuf := [] } = { s.engAt k with sbuf := [] } ∧
      (∀ id, t.ctxAt id = s.ctxAt id) ∧ (∀ j, j ≠ k → t.engAt j = s.engAt j) ∧
      t.byteAt a = if e.holds a = true ∧ s.bankFenced e.line = false ∧ s.sealWiping e.line = false then
          BitVec.ofNat 8 (e.data.toNat / 256 ^ (a - e.line)) else s.byteAt a)) ∧
  (∀ (e : SBE) (r : List SBE) (b : Beat), e.done = false → e.wait = 0 → ∃ e1 : SBE, (sbBeat true b (e :: r)).head? = some e1 ∧
    { e1 with got := 0, done := false } = { e with got := 0, done := false } ∧ (e1.done = true ↔ b.free = true ∧ e.got = 1) ∧
    (b.free = false → e1.got = 0) ∧ (b.free = true → e1.got = e.got + 1))

/-- Aligned 32-bit accesses to the windows in 4 beats (free mode 3) for a load and 1 for a store (R59, R98-R101): outlet staging
and the published-state window, a mailbox of the code's own, converter status words (R274), SPILL_RGN and the train control
space at Machine level; an unrouted, foreign or control access raises PRIV (R201), and on a variant without stimulus ports an
access to them BERR (00 R5). Aligned 32-bit stores to the windows (R240, R273, R330, R404, R427): the owner's store reaches the
staging register at once and toggles the staging event on the pins, a checker's store the check register; mailbox words 0 to 13
take the value; the published-state and sample windows take no store. -/
def Obligations.Windows : Prop :=
  (∀ (k : Nat) (s : State) (an : BitVec 2), Ready s k →
    let c := s.bank k
    let w := s.who k
    let a := (c.auxR an.toNat).toNat
    let s0 := s.fetched k
    let answers (v : Nat) (s1 : State) : Prop := (s.engAt k).sbuf = [] → c.fits 0 1 →
      ∃ x : Word, x.toNat = v ∧ Completes (.loadWithOffset k an 0) s k s1 (c.push x) (if w.db then 4 else 3)
    let traps (f : Flt) : Prop :=
      Traps (.loadWithOffset k an 0) s k s0 c f c.resumePc (BitVec.ofNat 16 (0x6B00 + 64 * an.toNat))
    (∀ n < 320, a = 0x02100000 + 4 * n →
      ((∃ r, s.outRoute n = some (w.gen, r) ∧ r.owner = w.lctx) → answers (s.outAt n).staging.toNat s0) ∧
      (s.outRoute n = none → traps (.priv 4 (BitVec.ofNat 32 a)))) ∧
    (∀ n < 64, a = 0x02200000 + 4 * n → let x := s.cvcAt n
      ((∃ r, s.cvcRoute n = some (w.gen, r) ∧ r.owner = w.lctx) → answers (x.op.toNat * 2 ^ 28 + x.st.toNat * 2 ^ 24 +
        x.reason.toNat * 2 ^ 20 + x.pst.toNat * 2 ^ 16 + x.ptag.toNat * 256 + x.tag.toNat) s0) ∧
      (s.cvcRoute n = none → traps (.priv 4 (BitVec.ofNat 32 a)))) ∧
    (∀ t o key, t < 8 → o < 0x10000 → a = 0x02300000 + 0x10000 * t + o → o % 4 = 0 →
      (s.pubPlace w.gen t o 4 = some (some key) → s.firstUE key 4 = none → answers (s.rdBytes key 4) (s0.noteCE key 4)) ∧
      (s.pubPlace w.gen t o 4 = some none → answers 0 s0) ∧
      (s.pubPlace w.gen t o 4 = none → traps (.berr (BitVec.ofNat 32 a)))) ∧
    (∀ m j, m < 32 → j < 16 → a = 0x02400000 + 64 * m + 4 * j →
      let x := s.mboxAt (trainOf k) m
      (s.mboxLoad w (trainOf k) m = true → answers (if j < 14 then (x.data.get (fun _ => 0) j).toNat
        else if j = 14 then x.seq.toNat else x.ovr.toNat * 2 + x.full.toNat) s0) ∧
      (s.mboxLoad w (trainOf k) m = false → traps (.priv 6 (BitVec.ofNat 32 a)))) ∧
    (∀ o, o < 0x1000 → a = 0x03000000 + o → o % 4 = 0 →
      (w.level = 3 → o = 0x40 → answers (s.engAt k).spillRgn.toNat s0) ∧
      let stim := 0x800 ≤ o ∧ o < 0x900
      (w.level ≠ 3 → ¬ (s.variant.optional = false ∧ stim) → traps (.priv 5 (BitVec.ofNat 32 a))) ∧
      (s.variant.optional = false → stim → traps (.berr (BitVec.ofNat 32 a)))) ∧
    (∀ o, o < 0x1000 → a = 0x03010000 + o → o % 4 = 0 →
      (w.level ≠ 3 → traps (.priv 5 (BitVec.ofNat 32 a))) ∧
      (w.level = 3 → ∀ v s1, s0.trainCtlRead (trainOf k) o true false = some (v, s1) → answers v.toNat s1))) ∧
  (∀ (k : Nat) (s : State) (an : BitVec 2), Ready s k →
    let c := s.bank k
    let w := s.who k
    let a := (c.auxR an.toNat).toNat
    let v := c.data 0
    let s0 := s.fetched k
    let stores (s1 : State) : Prop := Completes (.storeWithOffset k an 0) s k s1 (c.drop 1) 1
    let traps (f : Flt) : Prop :=
      Traps (.storeWithOffset k an 0) s k s0 c f c.resumePc (BitVec.ofNat 16 (0x6C00 + 64 * an.toNat))
    1 ≤ c.docc →
      (∀ n < 320, a = 0x02100000 + 4 * n →
        ((∃ r, s.outRoute n = some (w.gen, r) ∧ r.owner = w.lctx) →
          stores ((s0.modOut n (fun o => { o with staging := v, staged := true })).modEng k (fun e =>
            { e with otlReq := !e.otlReq, otlCh := BitVec.ofNat 9 n, otlD := v }))) ∧
        (s.stagingRight w n = some true → stores (s0.modOut n (fun o => { o with check := v, checked := true }))) ∧
        (s.outRoute n = none → traps (.priv 4 (BitVec.ofNat 32 a)))) ∧
      (∀ m j, m < 32 → j < 14 → a = 0x02400000 + 64 * m + 4 * j →
        (s.mboxParty w (trainOf k) m = true → (s.engAt k).sbuf = [] →
          stores (s0.modMbox (trainOf k) m (fun x => { x with
            data := x.data.set (fun _ => 0) j v, stored := if x.stored.contains j then x.stored else j :: x.stored }))) ∧
        (s.mboxParty w (trainOf k) m = true → (s.engAt k).sbuf ≠ [] → Waits (.storeWithOffset k an 0) s k s0 c 1) ∧
        (s.mboxParty w (trainOf k) m = false → traps (.priv 6 (BitVec.ofNat 32 a)))) ∧
      (∀ n < 64, a = 0x02200000 + 4 * n → (s.engAt k).sbuf = [] →
        ((∃ r, s.cvcRoute n = some (w.gen, r) ∧ r.owner = w.lctx) → s.fences.contains (.command n) = false →
          (s.cvcAt n).st = 0 → (s.cvcAt n).stale = false → v.extractLsb' 28 4 = 3 → v.extractLsb' 8 20 = 0 →
          stores (s0.modCvc n (fun x => { x with
            op := 3, st := 1, tag := v.extractLsb' 0 8, word := v, reason := 0, req := true, cmd := v })))) ∧
      ((0x02000000 ≤ a ∧ a ≤ 0x020003FF ∨ 0x02300000 ≤ a ∧ a ≤ 0x0237FFFF) → traps (.berr (BitVec.ofNat 32 a))))

/-- The address checks of loads and stores (R98, R99, R112, 02 R44, 03 R70): outside the map BERR; a window access that is
not aligned MISALIGN; the spill region PRIV 2 and the sealed region PRIV 3 below their levels; boundary space in deadbeat
mode BERR. -/
def Obligations.AddressChecksFault : Prop :=
  ∀ (k : Nat) (s : State) (an : BitVec 2), Ready s k →
    let c := s.bank k
    let w := s.who k
    let x := c.auxR an.toNat
    let a := x.toNat
    let faults (f : Flt) : Prop :=
      Traps (.loadWithOffset k an 0) s k (s.fetched k) c f c.resumePc (BitVec.ofNat 16 (0x6B00 + 64 * an.toNat)) ∧
      (1 ≤ c.docc →
        Traps (.storeWithOffset k an 0) s k (s.fetched k) c f c.resumePc (BitVec.ofNat 16 (0x6C00 + 64 * an.toNat)))
    ((0x10000 ≤ a ∧ a < 0x01000000 ∨ 0x01208000 ≤ a ∧ a < 0x02000000 ∨ 0x03011000 ≤ a ∧ a < 0x40000000 ∨ 0x80000000 ≤ a) →
      faults (.berr x)) ∧
    (0xFFFC < a → a ≤ 0xFFFF → faults (.berr x)) ∧
    (0x02100000 ≤ a → a ≤ 0x021004FC → a % 4 ≠ 0 → faults (.misalign x)) ∧
    (a ≤ 0xFFFC → w.level ≠ 3 → (s.engAt k).inSpill a 4 = true → faults (.priv 2 x)) ∧
    (0x01200000 ≤ a → a ≤ 0x01207FFC → w.level ≠ 3 → (w.level ≠ 1 ∨ w.world = false ∨ s.dual w.gen = false) →
      faults (.priv 3 x)) ∧
    (0x40000000 ≤ a → a ≤ 0x7FFFFFFC → w.db = true → faults (.berr x))

/-- SAVEM and LOADM (R80-R82, R171): the mask's registers in ascending order, two to a 64-bit word with the lower-numbered one
in bits [31:0]; SAVEM fills one store-buffer entry a word in 1 + P beats, some of which may have retired in them (R51), LOADM
reads the words and drops the address. With an empty mask no alignment is checked, and LOADM takes 1 beat, the model's choice of
log entry 55. -/
def Obligations.SaveAndLoadRegisters : Prop :=
  ∀ (k key : Nat) (s : State) (m : BitVec 8), Ready s k →
    let c := s.bank k
    let regs := (List.range 8).filter (fun r => m.getLsbD r)
    let p := (regs.length + 1) / 2
    let a := (c.data 0).toNat
    let reg (i : Nat) : Nat := match regs[i]? with | some r => (c.auxR r).toNat | none => 0
    let places (store : Bool) : Prop :=
      (p ≠ 0 → a % 8 = 0) ∧ ∀ i < p, s.memPlace (s.who k) (a + 8 * i) 8 store true = .ok (key + 8 * i)
    1 ≤ c.docc → (s.engAt k).sbuf = [] → key % 8 = 0 →
      (places true → ∃ es : List SBE, es.length = p ∧
        (∀ i e, es[i]? = some e → e.line = key + 8 * i ∧ e.mask = 0xFF ∧ e.data.toNat = reg (2 * i) + 2 ^ 32 * reg (2 * i + 1)) ∧
        ∃ gone ≤ p, let s1 := (s.fetched k).modEng k (fun e => { e with sbuf := es })
          Completes (.savem k m) s k ((List.range gone).foldl (fun s _ => s.retireOne k) s1) (c.drop 1) (1 + p)) ∧
      (places false → (∀ i < p, s.isUE (key + 8 * i) = false ∧ s.bankFenced (key + 8 * i) = false ∧
          s.ce.contains (key + 8 * i) = false ∧ s.sealWiping (key + 8 * i) = false) →
        ∃ c1 : Ctx, { c1 with aux := [] } = { c.drop 1 with aux := [] } ∧
          (∀ r < 8, c1.auxR r =
            if m.getLsbD r then
              let x : Word := BitVec.ofNat 32 (s.rdBytes (key + 4 * (List.range r).countP (fun i => m.getLsbD i)) 4)
              if r = 6 then x &&& 0x1F else if r = 7 then x &&& 0xF else x
            else c.auxR r) ∧
          Completes (.loadm k m) s k (s.fetched k) c1
            (if p = 0 then 1 else p + (if a ≤ 0xFFFF then (if (s.who k).db then 10 else 1) else (if (s.who k).db then 12 else 3))))

/-- MOVE and FILL (R172-R175) where every element is readable and writable and no correction or fence is in play: after m =
min(n, C) elements the destination holds the source's old bytes (FILL: the value), every other byte is as before, A0, A1 and C
have moved on, and the instruction ends when C is 0, else it stands at an element boundary; a deadbeat MOVE may also stand after
the first 4 of its 8 set-up beats (R175). -/
def Obligations.MoveAndFillElements : Prop :=
  ∀ (k n ks kd : Nat) (s : State) (wd : BitVec 2) (dir : Bool), Ready s k → s.unlocked k → s.starts k →
    (s.engAt k).sbuf = [] → (s.engAt k).st ≠ .fenced → s.ce = [] → s.ue = [] → s.fences = [] → s.lcs.wiping = false →
    let c := s.bank k
    let size := 2 ^ wd.toNat
    let m := Min.min n c.cnt
    let a0 := (c.auxR 0).toNat
    let a1 := (c.auxR 1).toNat
    let at' (base i : Nat) : Nat := if dir then base - size * (i + 1) else base + size * i
    let placed (a key : Nat) (store : Bool) : Prop := a % size = 0 ∧ ∀ i < c.cnt,
      (dir = true → size * (i + 1) ≤ a ∧ size * (i + 1) ≤ key) ∧ at' a i < 2 ^ 32 ∧
      s.memPlace (s.who k) (at' a i) size store false = .ok (at' key i)
    let first := if dir then kd - size * m else kd
    let moved (x : Word) : Word := if dir then x - BitVec.ofNat 32 (size * m) else x + BitVec.ofNat 32 (size * m)
    let after (fill : Bool) (pop : Nat) (c1 : Ctx) : Prop :=
      { c1 with aux := [] } = { c.drop pop with aux := [] } ∧ c1.cnt = c.cnt - m ∧ c1.auxR 1 = moved (c.auxR 1) ∧
      c1.auxR 0 = (if fill then c.auxR 0 else moved (c.auxR 0)) ∧ c1.fl = c.fl ∧ c1.md = c.md ∧
      c1.auxR 2 = c.auxR 2 ∧ c1.auxR 3 = c.auxR 3 ∧ c1.auxR 4 = c.auxR 4
    let written (s1 : State) (byte : Nat → Byte) : Prop :=
      { s1 with mem := [] } = { s.fetched k with mem := [] } ∧
      ∀ b, s1.byteAt b = if first ≤ b ∧ b < first + size * m then byte (b - first) else s.byteAt b
    let ends (i : Instr) (fill : Bool) (pop cost : Nat) (byte : Nat → Byte) : Prop :=
      ∃ s1 c1, written s1 byte ∧
        (c.cnt ≤ n → after fill pop c1 ∧ Completes i s k s1 c1 cost) ∧ (n < c.cnt → after fill 0 c1 ∧ Waits i s k s1 c1 cost)
    let local' := rgnOf (at' a0 0) = some .ls ∧ rgnOf (at' a1 0) = some .ls
    ((s.who k).db = true → Waits (.move k wd dir 0) s k (s.fetched k) c 4) ∧
    (placed a0 ks false → placed a1 kd true → ((s.who k).db = true → 0 < n) →
      (if dir then ks ≤ kd ∨ kd + size * m ≤ ks else kd ≤ ks ∨ ks + size * m ≤ kd) →
      (local' ∨ (s.who k).db = true) →
      ends (.move k wd dir n) false 0 (if (s.who k).db then 8 + 3 * m else 1 + 2 * m)
        (fun i => s.byteAt ((if dir then ks - size * m else ks) + i))) ∧
    (placed a1 kd true → (if wd = 3 then 2 else 1) ≤ c.docc →
      ends (.fill k wd dir n) true (if wd = 3 then 2 else 1) (if (s.who k).db then 1 + 2 * m else 1 + m) (fun i =>
        BitVec.ofNat 8 ((if wd = 3 then (c.data 1).toNat + 2 ^ 32 * (c.data 0).toNat else (c.data 0).toNat) / 256 ^ (i % size))))

/-! ### Changes of flow (spec 02 R37-R46, 03 R77, R78, 06 R154-R168) -/

/-- JMP, the conditional branches and TZ (R104, R105, R154): the target is the next instruction plus the offset in
instructions; TZ pops T whether or not it branches; an untaken branch goes on. Deadbeat costs are 3 taken (1 as the closing
branch of the loop buffer) and 1 untaken (3 as that branch); a target that cannot be fetched raises BERR with PC on the
branch. -/
def Obligations.BranchesFollowConditions : Prop :=
  ∀ (k : Nat) (s : State) (s13 : BitVec 13) (ccc : BitVec 3) (s10 : BitVec 10), Ready s k → s.tracing = false →
    let c := s.bank k
    let w := s.who k
    let lb := (s.engAt k).lb
    let dest (off : Int) : Word := BitVec.ofInt 32 (c.pc.toInt + 2 + 2 * off)
    let closes (x : Word) : Bool := (lb.taken c.pc x).2
    let hit (x : Word) : Nat := if (s.engAt k).tbHit c.pc x ((w.id.getD 0) % 16) then 1 else 2
    let goes (i : Instr) (c1 : Ctx) (x : Word) (cost : Nat) : Prop :=
      ∃ s1, Rerouted (s.fetched k) k s1 ∧ Jumps i s k s1 c1 x cost
    let cond : Bool := match ccc.toNat with
      | 0 => c.fl.z | 1 => !c.fl.z | 2 => c.fl.n != c.fl.v | 3 => c.fl.n == c.fl.v | 4 => !c.fl.c | 5 => c.fl.c | _ => c.fl.v
    let branch (i : Instr) (word : BitVec 16) (c1 : Ctx) (taken : Bool) : Prop :=
      let x := dest s10.toInt
      (taken = false → ∃ s1, Rerouted (s.fetched k) k s1 ∧ Completes i s k s1 c1
        (if lb.active = some (x, c.pc) then 3 else if w.db = false ∧ s10.msb = true then 4 else 1)) ∧
      (taken = true → fetchable w.db x.toNat = true →
        goes i c1 x (if closes x then 1 else if w.db then 3 else if s10.msb then hit x else 4)) ∧
      (taken = true → fetchable w.db x.toNat = false → Traps i s k (s.fetched k) c (.berr x) c.resumePc word)
    (s.unlocked k → let x := dest s13.toInt
      (fetchable w.db x.toNat = true → goes (.jmp k s13) c x (if closes x then 1 else if w.db then 3 else hit x)) ∧
      (fetchable w.db x.toNat = false →
        Traps (.jmp k s13) s k (s.fetched k) c (.berr x) c.resumePc (BitVec.ofNat 16 s13.toNat))) ∧
    (ccc ≠ 7 → branch (.bcc k ccc s10) (BitVec.ofNat 16 (0x2000 + 0x400 * ccc.toNat + s10.toNat)) c cond) ∧
    (1 ≤ c.docc → branch (.tz k s10) (BitVec.ofNat 16 (0x3C00 + s10.toNat)) (c.drop 1) (c.data 0 == 0))

/-- CALL, CALLT and JMPT (R77, R154, R155): a frame of the mask's register pairs as SAVED entries under a LINK that holds the
mask and the address after the call, then the jump; CALLT and JMPT take the address from T, which must be even. -/
def Obligations.CallsPushFrames : Prop :=
  ∀ (k : Nat) (s : State) (m : BitVec 3) (s10 : BitVec 10), Ready s k → s.unlocked k → s.tracing = false →
    let c := s.bank k
    let w := s.who k
    let regs := (List.range 6).filter (fun r => m.getLsbD (r / 2))
    let g := regs.length / 2
    let frame (b c1 : Ctx) : Prop :=
      { c1 with rw := [], rt := [], rtop := 0, rocc := 0 } = { b with rw := [], rt := [], rtop := 0, rocc := 0 } ∧
      c1.rocc = b.rocc + 1 + 2 * g ∧ c1.ret 0 = c.pc + 2 ∧ (c1.rtag 0).toNat = 8 + m.toNat ∧
      (∀ i r, regs[i]? = some r → c1.ret (2 * g - i) = c.auxR r ∧ (c1.rtag (2 * g - i)).toNat = 16) ∧
      ∀ i, i + 1 + 2 * g < 16 → c1.ret (i + 1 + 2 * g) = b.ret i ∧ c1.rtag (i + 1 + 2 * g) = b.rtag i
    let goes (i : Instr) (b : Ctx) (link : Bool) (x : Word) (cost : Nat) : Prop :=
      ∃ s1 c1, Rerouted (s.fetched k) k s1 ∧ (s1.engAt k).lb.active = none ∧
        (if link then frame b c1 else c1 = b) ∧ Jumps i s k s1 c1 x cost
    let x := c.pc + 2 + 2 * s10.signExtend 32
    let t := c.data 0
    (c.rocc + 1 + 2 * g ≤ 16 → fetchable w.db x.toNat = true →
      goes (.call k m s10) c true x
        (g + if w.db then 3 else if (s.engAt k).tbHit c.pc x ((w.id.getD 0) % 16) then 1 else 2)) ∧
    (fetchable w.db x.toNat = false → Traps (.call k m s10) s k (s.fetched k) c (.berr x) c.resumePc
      (BitVec.ofNat 16 (0x4000 + 0x400 * m.toNat + s10.toNat))) ∧
    (1 ≤ c.docc → fetchable w.db t.toNat = true → t.getLsbD 0 = false →
      (c.rocc + 1 + 2 * g ≤ 16 → goes (.callt k m) (c.drop 1) true t (g + if w.db then 4 else 3)) ∧
      goes (.jmpt k) (c.drop 1) false t (if w.db then 4 else 3)) ∧
    (1 ≤ c.docc → fetchable w.db t.toNat = true → t.getLsbD 0 = true →
      Traps (.callt k m) s k (s.fetched k) c (.misalign t) c.resumePc (BitVec.ofNat 16 (0x7600 + m.toNat)) ∧
      Traps (.jmpt k) s k (s.fetched k) c (.misalign t) c.resumePc 0x7680)

/-- RET undoes CALL (R77, R78): when a CALL has run, and later code has changed data stack, registers and memory as it liked and
has left the return stack as the CALL made it, RET goes on after the CALL with the return stack and the mask's registers as they
were before it; in deadbeat mode both cost 3 beats and one more for each saved pair. From every bank whose RT is a LINK with the
SAVED entries of its mask under it, RET completes (R78): PC at the LINK, the registers as saved, the frame popped. RET without
its frame (R78, R112): an empty return stack raises UNDERFLOW, an RT that is no LINK raises ILLEGAL. -/
def Obligations.ReturnUndoesCall : Prop :=
  (∀ (k : Nat) (s t u : State) (m : BitVec 3) (s10 : BitVec 10), Ready s k → s.unlocked k → s.tracing = false →
    let c := s.bank k
    let regs := (List.range 6).filter (fun r => m.getLsbD (r / 2))
    c.rocc + 1 + regs.length ≤ 16 → fetchable (s.who k).db (c.relTarget (s10.signExtend 32)).toNat = true →
    exec (.call k m s10) s = .next t →
    (t.engAt k).run = (s.engAt k).run →
    Ready u k → u.unlocked k → u.tracing = false → fetchable (u.who k).db (c.pc + 2).toNat = true →
    let d := u.bank k
    d.rw = (t.bank k).rw → d.rt = (t.bank k).rt → d.rtop = (t.bank k).rtop → d.rocc = (t.bank k).rocc →
    ∃ s1 c1, Rerouted (u.fetched k) k s1 ∧
      Jumps (.ret k) u k s1 c1 (c.pc + 2) (regs.length / 2 + if (u.who k).db then 3 else 2) ∧
      c1.rocc = c.rocc ∧ c1.rtop = c.rtop ∧ (∀ i, i + 1 + regs.length < 16 → c1.ret i = c.ret i ∧ c1.rtag i = c.rtag i) ∧
      (∀ r < 8, c1.auxR r = if r ∈ regs then c.auxR r else d.auxR r) ∧
      { c1 with rtop := 0, rocc := 0, aux := [] } = { d with rtop := 0, rocc := 0, aux := [] }) ∧
  (∀ (k : Nat) (s : State) (m : BitVec 3), Ready s k → s.unlocked k → s.tracing = false →
    let c := s.bank k
    let regs := (List.range 6).filter (fun r => m.getLsbD (r / 2))
    let n := regs.length
    (c.rtag 0).toNat = 8 + m.toNat → 1 + n ≤ c.rocc → (∀ i < n, (c.rtag (1 + i)).toNat / 8 = 2) →
    fetchable (s.who k).db (c.ret 0).toNat = true →
    ∃ s1 c1, Rerouted (s.fetched k) k s1 ∧ Jumps (.ret k) s k s1 c1 (c.ret 0) (n / 2 + if (s.who k).db then 3 else 2) ∧
      (∀ i r, regs[i]? = some r → c1.auxR r = c.ret (n - i)) ∧ (∀ r < 8, r ∉ regs → c1.auxR r = c.auxR r) ∧
      c1.rocc = c.rocc - 1 - n ∧ (∀ i, i + 1 + n < 16 → c1.ret i = c.ret (i + 1 + n) ∧ c1.rtag i = c.rtag (i + 1 + n)) ∧
      { c1 with rtop := 0, rocc := 0, aux := [] } = { c with rtop := 0, rocc := 0, aux := [] }) ∧
  (∀ (k : Nat) (s : State), Ready s k → s.unlocked k →
    let c := s.bank k
    let traps (f : Flt) : Prop := Traps (.ret k) s k (s.fetched k) c f c.resumePc 0x7010
    (c.rocc = 0 → c.rused = 0 → traps { code := 8 }) ∧
    (1 ≤ c.rocc → tagKind (c.rtag 0) ≠ 1 → traps .illegal) ∧
    (1 ≤ c.rocc → ∀ m : BitVec 3, m ≠ 0 → (c.rtag 0).toNat = 8 + m.toNat → c.rocc + c.rused < 3 → traps .illegal))

/-- NOP, SYNC and WAIT (R55, R157, R159, R160): SYNC ends once the store buffer, and in free mode the boundary write queue, is
empty; WAIT ends once an enabled event is pending and is ILLEGAL in deadbeat mode; waiting costs a beat at a time, and a store
whose retire slot ends in that beat is in memory. YIELD (R55, R158, 02 R30): below Machine level, within the budget, with the
store buffer empty, the context becomes IDLE behind the YIELD with its activation complete, and the engine parks; it waits while
a store has not retired and is ILLEGAL at M. -/
def Obligations.WaitsAndYields : Prop :=
  (∀ (k : Nat) (s : State), Ready s k →
    let c := s.bank k
    let s0 := ((s.fetched k).pass k [.idle]).settle k
    let e := s0.engAt k
    let db := (s.who k).db
    Completes (.nop k) s k (s.fetched k) c 1 ∧
    (s.unlocked k →
      (e.st ≠ .fenced →
        (e.sbuf = [] → (db = true ∨ e.bq = []) → Completes (.sync k) s k s0 c 1) ∧
        ((e.sbuf ≠ [] ∨ (db = false ∧ e.bq ≠ [])) → Waits (.sync k) s k s0 c 1)) ∧
      (db = false → c.evpend &&& c.evmask ≠ 0 → Completes (.wait k) s k (s.fetched k) c 1) ∧
      (db = false → c.evpend &&& c.evmask = 0 → Waits (.wait k) s k (s.fetched k) c 1) ∧
      (db = true → Traps (.wait k) s k (s.fetched k) c .illegal c.resumePc 0x7040))) ∧
  (∀ (k slot : Nat) (s : State), Ready s k → s.unlocked k → (s.engAt k).run = .ctx slot →
    let id := ctxId k slot
    let c := s.ctxAt id
    let s0 := ((s.fetched k).pass k [.idle]).settle k
    let e := s0.engAt k
    e.st ≠ .fenced → s0.tracing = false →
    (c.level ≠ 3 → e.sbuf = [] → c.beats + 1 ≤ c.budget → s0.retired c = false →
      ∃ t, exec (.yield k) s = .next t ∧
        t.ctxAt id = { c with
          beats := c.beats + 1, pc := c.pc + 2, divp := false, st := .idle
          act := c.act.map (fun a => { a with yieldAt := some s.now }), wdAt := if c.wdW ≠ 0 then some s.now else none } ∧
        t.engAt k = { e with
          run := .parked, stopReq := none, lock := 0, lockBeats := 0, lb := { disabled := e.lb.disabled }
          pair := none, fusee := none, fill := none, fetch := none, begun := .none, dbg := { e.dbg with pass := false } } ∧
        (∀ j, j ≠ id → t.ctxAt j = s0.ctxAt j) ∧ (∀ j, j ≠ k → t.engAt j = s0.engAt j) ∧ t.shared = s0.shared) ∧
    (c.level ≠ 3 → e.sbuf ≠ [] → Waits (.yield k) s k s0 c 1) ∧
    (c.level = 3 → Traps (.yield k) s k (s.fetched k) c .illegal c.resumePc 0x7030))

/-- LOCK brackets (R164, R165): LOCK n opens a bracket of n instructions with its own beat as the first; n instructions close
it; the 16th beat cuts it and LOCK_TRUNC is reported; LOCK 0 and LOCK above 8 are ILLEGAL. Inside a bracket these raise
ILLEGAL: LOCK, REP, YIELD, WAIT, SYNC, RETI, TRAP, BKPT, JMP, CALL, CALLT, JMPT, RET, MOVE, FILL, XMAC and its kin, DIVS and
DIVU (R166). -/
def Obligations.LockBrackets : Prop :=
  (∀ (k : Nat) (s : State) (n : BitVec 4),
    (Ready s k → s.unlocked k →
      (1 ≤ n.toNat → n.toNat ≤ 8 →
        Completes (.lock k n) s k ((s.fetched k).modEng k (fun e => { e with lock := n.toNat + 1, lockBeats := 0 })) (s.bank k) 1 ∧
        ∃ t : State, exec (.lock k n) s = .next (t.settle k) ∧ (t.engAt k).lock = n.toNat ∧ (t.engAt k).lockBeats = 1) ∧
      ((n = 0 ∨ 8 < n.toNat) → Traps (.lock k n) s k (s.fetched k) (s.bank k) .illegal (s.bank k).resumePc
        (BitVec.ofNat 16 (0x7060 + n.toNat)))) ∧
    (Ready s k → 0 < (s.engAt k).lock → (s.engAt k).lockBeats + 1 ≤ 16 → ∃ t : State, exec (.nop k) s = .next (t.settle k) ∧
      (t.engAt k).lock = (s.engAt k).lock - 1 ∧
      (t.engAt k).lockBeats = if (s.engAt k).lock = 1 then 0 else (s.engAt k).lockBeats + 1) ∧
    (s.hasEngine k = true → 0 < (s.engAt k).lock → 16 ≤ (s.engAt k).lockBeats → (s.engAt k).dbg.stepping = false →
      ∃ t, exec (.lockTrunc k) s = .next t ∧
      t.engAt k = { s.engAt k with lock := 0, lockBeats := 0 } ∧ (∀ j, j ≠ k → t.engAt j = s.engAt j) ∧
      { t with eng := [], fw := [], freeCtr := 0 } = { s with eng := [], fw := [], freeCtr := 0 } ∧
      ((s.fwAt k).en.getLsbD 8 = true → (s.engAt k).st ≠ .off → s.quench = [] → (t.fwAt k).stat = (s.fwAt k).stat ||| 0x100))) ∧
  (∀ (k n : Nat) (s : State) (x4 : BitVec 4) (x8 : BitVec 8) (s13 : BitVec 13) (s10 : BitVec 10) (m : BitVec 3) (wd : BitVec 2)
    (dir : Bool), Ready s k → (s.engAt k).lock ≠ 0 →
    let c := s.bank k
    let ill (i : Instr) (w : Nat) : Prop := Traps i s k (s.fetched k) c .illegal c.resumePc (BitVec.ofNat 16 w)
    ill (.lock k x4) (0x7060 + x4.toNat) ∧ ill (.rep k) 0x7070 ∧ ill (.yield k) 0x7030 ∧ ill (.wait k) 0x7040 ∧
    ill (.sync k) 0x7050 ∧ ill (.reti k) 0x7020 ∧ ill (.trap k x8) (0x7100 + x8.toNat) ∧ ill (.bkpt k x4) (0x7080 + x4.toNat) ∧
    ill (.jmp k s13) s13.toNat ∧ ill (.call k m s10) (0x4000 + 0x400 * m.toNat + s10.toNat) ∧
    ill (.callt k m) (0x7600 + m.toNat) ∧ ill (.jmpt k) 0x7680 ∧ ill (.ret k) 0x7010 ∧
    ill (.move k wd dir n) (0x7700 + 32 * wd.toNat + 16 * dir.toNat) ∧
    ill (.fill k wd dir n) (0x7780 + 32 * wd.toNat + 16 * dir.toNat) ∧
    ill (.xmac k n) 0x6700 ∧ ill (.xmsu k n) 0x6701 ∧ ill (.xmacr k n) 0x6702 ∧ ill (.xsig k n) 0x6703 ∧
    ill (.divs k n) 0x6508 ∧ ill (.divu k n) 0x6509)

/-- REP (R161, R162): with C = 0 the next instruction is skipped; else PC moves onto it, each completed repetition takes one
from C, and PC leaves it with the last; before an instruction it may not precede, REP is ILLEGAL. -/
def Obligations.RepetitionsCountDown : Prop :=
  ∀ (k : Nat) (s : State),
    (Ready s k → s.unlocked k → s.tracing = false →
      let c := s.bank k
      rgnOf (c.pc.toNat + 2) = some .ls →
      let next := s.fetch k (c.pc.toNat + 2)
      (repLegal next = true → c.cnt = 0 → Completes (.rep k) s k (s.fetched k) { c with pc := c.pc + 2 } 1) ∧
      (repLegal next = true → 0 < c.cnt → Waits (.rep k) s k (s.fetched k) { c with rep := true, pc := c.pc + 2 } 1) ∧
      (repLegal next = false → Traps (.rep k) s k (s.fetched k) c .illegal c.resumePc 0x7070)) ∧
    (∀ c : Ctx, c.rep = true → 0 < c.cnt → c.advance.cnt = c.cnt - 1 ∧
      (c.cnt = 1 → c.advance.rep = false ∧ c.advance.pc = c.pc + 2) ∧ (1 < c.cnt → c.advance.rep = true ∧ c.advance.pc = c.pc)) ∧
    (∀ w : BitVec 16, repLegal w = true → w.toNat / 8192 ≠ 0 ∧ w.toNat / 8192 ≠ 1 ∧ w.toNat / 8192 ≠ 2 ∧
      (w.toNat < 0x8000 → (w.toNat / 256 ≤ 0x66 ∨ 0x68 ≤ w.toNat / 256 ∧ w.toNat / 256 ≤ 0x6F ∨ w.toNat / 256 = 0x78)))

/-! ### Faults, entries and returns (spec 07) -/

/-- TRAP n faults with n and the address behind it, BKPT t with t and its own address, or halts where the debugger has armed
it, and a word that no opcode table lists with ILLEGAL (R110, R168, R169, R186). -/
def Obligations.SoftwareFaults : Prop :=
  ∀ (k : Nat) (s : State) (n : BitVec 8) (t : BitVec 4) (w : BitVec 16), Ready s k →
    let c := s.bank k
    let armed := (s.engAt k).dbg.bkhalt = true ∧ (s.who k).level ≠ 3 ∧ (s.who k).sel = true ∧
      (s.engAt k).dbg.ctxm.toNat = (s.who k).lctx % 1024 ∧ s.lcs.st ≠ .scrapped
    (s.unlocked k → Traps (.trap k n) s k (s.fetched k) c { code := 0xC, arg := n.toNat } (c.pc + 2)
      (BitVec.ofNat 16 (0x7100 + n.toNat)) (some c.resumePc)) ∧
    (s.unlocked k → ¬ armed → Traps (.bkpt k t) s k (s.fetched k) c { code := 0xD, arg := t.toNat } c.resumePc
      (BitVec.ofNat 16 (0x7080 + t.toNat))) ∧
    (s.unlocked k → armed → Waits (.bkpt k t) s k ((s.fetched k).requestHalt k 2) c 6) ∧
    (undefinedWord w = true → Traps (.undefinedEncoding k w) s k (s.fetched k) c .illegal c.resumePc w) ∧
    (0x7A00 ≤ w.toNat → w.toNat < 0x8000 → undefinedWord w = true)

/-- The eight shadow words of R200, as `d` holds them after an entry from bank `c` for fault `f` with what `x` records. A first
entry at S (R195-R197, R202): the handler starts at VBASE.BASE + 8 × code, index 0 for an event, at level S with events off,
NEST 1, the entry's 6 beats counted and no upset left in the shadow words it writes (03 R68); nothing else of the bank changes,
and of the rest only what a change of flow ends. A nested entry at S pushes the enclosing shadow bank as 8 SHADOW entries, SEAL
at RT, and its own shadow bank replaces it; with no room for them RSOVF is taken at M in its place, with the faulting
instruction's own address and the code of the fault that wanted the entry (log entry 51), and the context's stacks and shadow
bank stay (R197, R198). -/
def Obligations.SupervisorEntries : Prop :=
  (∀ (s : State) (k slot : Nat) (f : Flt) (x : EntryInfo), (s.engAt k).run = .ctx slot → f.code < 256 → f.arg < 256 →
    (s.engAt k).sbuf = [] → (s.engAt k).dbg.stepping = false →
    let id := ctxId k slot
    let c := s.ctxAt id
    let t := s.takeFault k f x
    let holds (d : Ctx) (level nest : Nat) (world : Bool) : Prop :=
      d.shw 0 = x.pc &&& 0xFFFFFFFE ∧
      (d.shw 1).toNat = c.divp.toNat * 2 ^ 31 + x.term.toNat * 2 ^ 30 + c.ie.toNat * 2 ^ 27 + c.world.toNat * 2 ^ 26 +
        c.level.toNat * 2 ^ 24 + (c.auxR 7).toNat % 16 * 256 + (c.auxR 6).toNat % 32 ∧
      (d.shw 2).toNat = x.event.toNat * 2 ^ 17 + x.lateOvf.toNat * 2 ^ 16 + f.arg * 256 + f.code ∧
      d.shw 3 = f.addr ∧ d.shw 4 = x.instr ∧ (d.shw 5).toNat = c.beats % 2 ^ 32 ∧
      (d.shw 6).toNat = (c.rocc * 256 + c.docc) % 2 ^ 32 ∧
      (d.shw 7).toNat = nest % 2 ^ 16 * 2 ^ 16 + world.toNat * 64 + level * 16 + c.world.toNat * 4 + c.level.toNat
    (c.toMachine f = false → c.nest = 0 → holds (t.ctxAt id) 1 1 c.world) ∧
    (c.toMachine f = true → s.tracing = false → f.code ≠ 0xB → holds (t.engAt k).mb 3 1 false)) ∧
  (∀ (s : State) (k slot : Nat) (f : Flt) (x : EntryInfo), (s.engAt k).run = .ctx slot →
    let id := ctxId k slot
    let c := s.ctxAt id
    let e := s.engAt k
    c.toMachine f = false → c.nest = 0 → e.sbuf = [] → e.dbg.stepping = false →
    let t := s.takeFault k f x
    let d := t.ctxAt id
    d = { c with
      sh := d.sh, pc := (c.vbase &&& 0xFF80) + BitVec.ofNat 32 (8 * (if x.event then 0 else f.code)), level := 1, ie := false
      nest := 1, beats := c.beats + 6, rep := false, divp := false
      bad := c.bad.filter (fun w => w / 8 ≠ 7), cor := c.cor.filter (fun w => w / 8 ≠ 7) } ∧
    t.engAt k = { e with
      lock := 0, lockBeats := 0, lb := { disabled := e.lb.disabled }, pair := none, fusee := none, fill := none, fetch := none
      begun := .none, dbg := { e.dbg with pass := false } } ∧
    (∀ j, j ≠ id → t.ctxAt j = s.ctxAt j) ∧ (∀ j, j ≠ k → t.engAt j = s.engAt j) ∧ t.shared = s.shared) ∧
  (∀ (s : State) (k slot : Nat) (f : Flt) (x : EntryInfo), (s.engAt k).run = .ctx slot →
    let id := ctxId k slot
    let c := s.ctxAt id
    c.toMachine f = false → 0 < c.nest → (s.engAt k).sbuf = [] → (s.engAt k).dbg.stepping = false →
    let t := s.takeFault k f x
    let d := t.ctxAt id
    (c.rocc + 8 ≤ 16 → d.nest = c.nest + 1 ∧ d.rocc = c.rocc + 8 ∧
      (∀ i < 8, d.ret i = c.shw (7 - i) ∧ tagKind (d.rtag i) = 3) ∧ (∀ i, i + 8 < 16 → d.ret (i + 8) = c.ret i) ∧
      d.shw 0 = x.pc &&& 0xFFFFFFFE ∧ d.level = 1 ∧ d.dw = c.dw ∧ d.docc = c.docc ∧ d.aux = c.aux) ∧
    (16 < c.rocc + 8 → c.rsize ≤ c.rused → s.tracing = false →
      (t.engAt k).run = .mach (some slot) ∧ ((t.engAt k).mb.shw 2).toNat = f.code % 256 * 256 + 7 ∧
      (t.engAt k).mb.shw 0 = x.self.getD x.pc &&& 0xFFFFFFFE ∧
      d.sh = c.sh ∧ d.nest = c.nest ∧ d.rw = c.rw ∧ d.rocc = c.rocc ∧ d.docc = c.docc ∧ d.dw = c.dw))

/-- An entry at M (R66, R195-R197, R203): the handler runs on the emptied Machine bank at MVBASE.BASE + 8 × code in deadbeat
mode; the interrupted context keeps its bank, shadow bank and NEST, with the saved PC, 6 beats and its activation marked (09
R242); the entry of ECC_UE is recorded in the engine's window with its address (12 R319). A fault of Machine-level code is not
taken: the engine stops at it, with MBANK_STK for the stack codes 6 to 8 (R66) and MFAULT with the code and the CSR for any
other, both at the Machine PC (R204); at severity FENCE the engine is fenced. -/
def Obligations.MachineEntries : Prop :=
  (∀ (s : State) (k slot : Nat) (f : Flt) (x : EntryInfo), (s.engAt k).run = .ctx slot →
    let id := ctxId k slot
    let c := s.ctxAt id
    let e := s.engAt k
    c.toMachine f = true → s.tracing = false → (f.code = 0xB → (s.fwAt k).sevOf 1 ≤ 1) → e.sbuf = [] → e.dbg.stepping = false →
    let t := s.takeFault k f x
    let m := (t.engAt k).mb
    t.ctxAt id = { c with
      pc := x.pc, rep := false, divp := false, beats := c.beats + 6, act := c.act.map (fun a => { a with mEntry := true }) } ∧
    m = { e.mb with
      sh := m.sh, dtop := 0, docc := 0, rtop := 0, rocc := 0, nest := 1, level := 3, db := true, rep := false, divp := false
      ie := false, pc := (e.mvbase &&& 0xFF80) + BitVec.ofNat 32 (8 * f.code)
      bad := e.mb.bad.filter (fun w => w / 8 ≠ 7), cor := e.mb.cor.filter (fun w => w / 8 ≠ 7) } ∧
    t.engAt k = { e with
      mb := m, run := .mach (some slot), lock := 0, lockBeats := 0, lb := { disabled := e.lb.disabled }
      pair := none, fusee := none, fill := none, fetch := none, begun := .none, dbg := { e.dbg with pass := false } } ∧
    (∀ j, j ≠ id → t.ctxAt j = s.ctxAt j) ∧ (∀ j, j ≠ k → t.engAt j = s.engAt j) ∧
    (f.code ≠ 0xB → t.shared = s.shared) ∧
    (f.code = 0xB → Reports s t k 1 (some (c.lctx % 1024 + 1024 * c.gen.toNat)) f.addr ∧
      { t.shared with fw := [] } = { s.shared with fw := [] })) ∧
  (∀ (s : State) (k : Nat) (y : Option Nat) (f : Flt) (x : EntryInfo), (s.engAt k).run = .mach y → f.code < 256 → f.csr < 256 →
    s.hasEngine k = true → (s.engAt k).st ≠ .off → s.quench = [] → (s.engAt k).sbuf = [] → (s.engAt k).dbg.stepping = false →
    let t := s.takeFault k f x
    let n := if f.code = 6 ∨ f.code = 7 ∨ f.code = 8 then 3 else 2
    ((s.fwAt k).en.getLsbD n = true → (t.fwAt k).stat = (s.fwAt k).stat ||| 1#32 <<< n ∧
      ((s.fwAt k).capValid = false → (t.fwAt k).capSrc.toNat = n ∧ (t.fwAt k).addr = (s.engAt k).mb.pc ∧
        (n = 2 → (t.fwAt k).capArg.toNat = f.csr * 256 + f.code)) ∧
      ((s.fwAt k).sevOf n = 3 → (s.trainAt (k / 9)).rot = none → (s.engAt k).st ≠ .fenced → (t.engAt k).st = .fenced)) ∧
    ((s.fwAt k).en.getLsbD n = false → (t.engAt k).mstop = true ∧ (t.engAt k).run = .mach y ∧ t.canRun k = false ∧
      (∀ id, t.ctxAt id = s.ctxAt id) ∧ (∀ j, j ≠ k → t.engAt j = s.engAt j) ∧ t.shared = s.shared))

/-- RETI undoes an entry (R170, R200, R208): when a fault or event entry has been taken at S or at M, and the handler has
left the shadow bank, NEST, level and world as the entry made them, RETI resumes the interrupted code: saved PC, FL, MODE,
level, event enable and division mark come back; the stacks stay as the handler left them. RETI's checks in their order
(R208, R201): without an entry ILLEGAL, then the handler, the NEST, the world and the level of the seal, each taken at M with
its own subcause. -/
def Obligations.ReturnUndoesEntry : Prop :=
  (∀ (s u : State) (k slot : Nat) (f : Flt) (x : EntryInfo), (s.engAt k).run = .ctx slot → x.term = false → s.tracing = false →
    u.tracing = false → f.code ≠ 0xB → (s.engAt k).sbuf = [] → (s.engAt k).dbg.stepping = false → (u.engAt k).sbuf = [] →
    let id := ctxId k slot
    let c := s.ctxAt id
    let t := s.takeFault k f x
    Ready u k → u.unlocked k → (u.engAt k).run = (t.engAt k).run →
    let back (v : State) (d : Ctx) : Prop :=
      let r := v.ctxAt id
      r.pc = x.pc &&& 0xFFFFFFFE ∧ r.fl = c.fl ∧ r.md = c.md ∧ r.level = c.level ∧ r.ie = c.ie ∧ r.divp = c.divp ∧ r.rep = false ∧
      (∀ i < 6, r.auxR i = d.auxR i) ∧ r.beats = (u.ctxAt id).beats + 6 ∧
      { r with pc := 0, aux := [], level := 0, ie := false, divp := false, rep := false, beats := 0, nest := 0, bad := [], cor := [] } =
        { d with pc := 0, aux := [], level := 0, ie := false, divp := false, rep := false, beats := 0, nest := 0, bad := [], cor := [] } ∧
      (v.engAt k).run = .ctx slot ∧ (∀ j, j ≠ id → v.ctxAt j = u.ctxAt j) ∧ (∀ j, j ≠ k → v.engAt j = u.engAt j) ∧
      v.shared = (u.fetched k).shared
    (c.toMachine f = false → c.nest = 0 → c.level.toNat ≤ 1 →
      let d := u.ctxAt id
      d.sh = (t.ctxAt id).sh → d.nest = 1 → d.level = 1 → d.world = c.world → fetchable d.db (x.pc &&& 0xFFFFFFFE).toNat = true →
      ∃ v, exec (.reti k) u = .next v ∧ (v.ctxAt id).nest = 0 ∧ back v d) ∧
    (c.toMachine f = true →
      let d := u.ctxAt id
      (u.engAt k).mb.sh = (t.engAt k).mb.sh → (u.engAt k).mb.nest = 1 → fetchable d.db (x.pc &&& 0xFFFFFFFE).toNat = true →
      ∃ v, exec (.reti k) u = .next v ∧ (v.engAt k).mb.nest = 0 ∧ (v.ctxAt id).nest = d.nest ∧ back v d)) ∧
  (∀ (k slot : Nat) (s : State), Ready s k → s.unlocked k → (s.engAt k).run = .ctx slot →
    let c := s.ctxAt (ctxId k slot)
    let seal' := c.shw 7
    let st := c.shw 1
    let traps (f : Flt) : Prop := Traps (.reti k) s k (s.fetched k) c f c.resumePc 0x7020
    let refused (n : Nat) : Prop := traps { Flt.priv n with reti := true }
    let handler := (seal'.extractLsb' 4 2) = c.level ∧ (c.level = 3 ∨ seal'.getLsbD 6 = c.world)
    (c.nest = 0 → traps .illegal) ∧
    (0 < c.nest →
      (¬ handler → refused 0x12) ∧
      (handler → (seal'.extractLsb' 16 16).toNat ≠ c.nest % 65536 → refused 0x13) ∧
      (handler → (seal'.extractLsb' 16 16).toNat = c.nest % 65536 →
        (st.getLsbD 26 ≠ seal'.getLsbD 2 → refused 0x11) ∧
        (st.getLsbD 26 = seal'.getLsbD 2 → (seal'.extractLsb' 0 2).toNat < (st.extractLsb' 24 2).toNat → refused 0x10))))

/-- CSRR (R113, R114, R83, R200, R209, R210): time, beats, budget, features, identity, window occupancy, areas, events, and
at S the eight shadow words, which read 0 while NEST is 0; an undefined number is ILLEGAL and too low a level PRIV. CSRW
(R113, R114, R200, R209, 12 R341) in 2 beats: EVMASK and EVCTL take the value, SPC and SSTAT their writable fields while NEST
is not 0, read-only CSRs ignore it, ICINV with bit 0 set empties the engine's instruction cache; FREC below FENCE records its
source with the argument. -/
def Obligations.CsrAccess : Prop :=
  (∀ (k : Nat) (s : State) (n : BitVec 8), Ready s k →
    let c := s.bank k
    let w := s.who k
    let reads (num : BitVec 8) (v : Nat) : Prop := n = num → s.starts k → c.fits 0 1 →
      ∃ x : Word, x.toNat = v % 2 ^ 32 ∧ Completes (.csrr k n) s k (s.fetched k) (c.push x) 1
    let traps (f : Flt) : Prop := Traps (.csrr k n) s k (s.fetched k) c f c.resumePc (BitVec.ofNat 16 (0x7200 + n.toNat))
    reads 0x00 s.now ∧ reads 0x01 (s.now / 2 ^ 32) ∧
    (∀ slot, (s.engAt k).run = .ctx slot →
      reads 0x02 c.beats ∧ reads 0x03 c.budget ∧
      reads 0x10 (c.gen.toNat * 2 ^ 31 + c.db.toNat * 2 ^ 30 + c.lctx % 1024 * 2 ^ 16 + ctxId k slot % 2048)) ∧
    reads 0x08 (s.variant.feat 0).toNat ∧ reads 0x09 (s.variant.feat 1).toNat ∧ reads 0x0A (s.variant.feat 2).toNat ∧
    reads 0x0B (s.variant.feat 3).toNat ∧
    reads 0x11 (c.dused % 8192 * 65536 + c.docc) ∧ reads 0x12 (c.rused % 8192 * 65536 + c.rocc) ∧
    reads 0x13 c.dspill.toNat ∧ reads 0x14 c.rspill.toNat ∧ reads 0x15 c.kbase.toNat ∧ reads 0x18 0 ∧
    (1 ≤ w.level → reads 0x49 c.vbase.toNat ∧ reads 0x4A c.evmask.toNat ∧ reads 0x4B c.ie.toNat ∧
      ∀ i < 8, reads (BitVec.ofNat 8 (0x40 + i)) (if c.nest = 0 then 0 else (c.shw i).toNat)) ∧
    (3 ≤ w.level → reads 0xC1 (s.engAt k).st.code ∧ reads 0xC2 0 ∧ reads 0xC3 (s.engAt k).mhb ∧
      reads 0xC4 (s.engAt k).mvbase.toNat ∧ reads 0xD0 0 ∧ reads 0xD1 ((s.fetched k).fwAt k).stat.toNat) ∧
    ((0x80 ≤ n.toNat ∧ n.toNat ≤ 0xBF ∨ n = 0x04 ∨ n = 0x16 ∨ n = 0x4C ∨ n = 0xC5 ∨ n = 0xFF) → traps .illegal) ∧
    ((w.level < 1 ∧ 0x40 ≤ n.toNat ∧ n.toNat ≤ 0x4B ∨ w.level < 3 ∧ 0xC0 ≤ n.toNat ∧ n.toNat ≤ 0xC4) →
      traps (.priv 1 (BitVec.ofNat 32 n.toNat)))) ∧
  (∀ (k : Nat) (s : State) (n : BitVec 8), Ready s k →
    let c := s.bank k
    let w := s.who k
    let v := c.data 0
    let d := c.drop 1
    let s0 := s.fetched k
    let writes (num : BitVec 8) (s1 : State) (c1 : Ctx) : Prop := n = num → Completes (.csrw k n) s k s1 c1 2
    1 ≤ c.docc →
      (1 ≤ w.level → writes 0x4A s0 { d with evmask := v } ∧ writes 0x4B s0 { d with ie := v.getLsbD 0 }) ∧
      (1 ≤ w.level → 0 < c.nest → (n = 0x40 ∨ n = 0x41) → ∃ c1 : Ctx, Completes (.csrw k n) s k s0 c1 2 ∧
        { c1 with sh := [] } = { d with sh := [] } ∧ (∀ i, 2 ≤ i → i < 8 → c1.shw i = c.shw i) ∧
        (n = 0x40 → c1.shw 0 = v &&& 0xFFFFFFFE ∧
          ∀ i < 31, (c1.shw 1).getLsbD i = (c.shw 1).getLsbD i) ∧
        (n = 0x41 → c1.shw 0 = c.shw 0 ∧ ∀ i < 32, (c1.shw 1).getLsbD i =
          if i < 5 ∨ 8 ≤ i ∧ i < 12 ∨ i = 26 ∨ i = 27 ∨ (24 ≤ i ∧ i < 26 ∧ v.extractLsb' 24 2 ≠ 0b10) then v.getLsbD i
          else (c.shw 1).getLsbD i)) ∧
      (1 ≤ w.level → c.nest = 0 → writes 0x40 s0 d ∧ writes 0x41 s0 d) ∧
      writes 0x00 s0 d ∧ writes 0x03 s0 d ∧ writes 0x10 s0 d ∧ writes 0x15 s0 d ∧
      (v.getLsbD 0 = true → let s1 := s0.modEng k (fun e => { e with icache := [] })
        writes 0x18 s1 d ∧ Completes (.icinv k) s k s1 d 2) ∧
      (w.level < 1 → n = 0x4A → Traps (.csrw k n) s k s0 c { Flt.priv 1 0x4A with csr := 0x4A } c.resumePc 0x734A) ∧
      (w.level = 3 → Max.max ((s.fwAt k).sevOf 12) (v.extractLsb' 24 3).toNat ≤ 1 → (v.extractLsb' 24 3).toNat ≤ 4 →
        ∃ s1, Completes (.frec k) s k s1 d 2 ∧ writes 0xD0 s1 d ∧ { s1 with fw := [] } = { s0 with fw := [] } ∧
          ((s.fwAt k).en.getLsbD 12 = true → s.quench = [] → (s1.fwAt k).stat = (s0.fwAt k).stat ||| 0x1000 ∧
            ((s0.fwAt k).capValid = false → (s1.fwAt k).capArg = v.setWidth 24))))

/-- MACT ends a Machine handler (R203, R206): ABANDON ends the activation, a deadbeat context becoming IDLE and a free-mode
context STOPPED at SPC with its bank and the division that was in progress there (05 R134); RESTART rebuilds the context from
its published carried state and leaves it IDLE with NEST and LATEPEND clear; either way the Machine bank's NEST is 0 and the
engine parks; a write of 0 is ILLEGAL. -/
def Obligations.MachineHandlersEnd : Prop :=
  ∀ (k slot : Nat) (s : State), Ready s k → (s.engAt k).run = .mach (some slot) → s.unlocked k → (s.engAt k).sbuf = [] →
    let id := ctxId k slot
    let c := s.ctxAt id
    let m := (s.engAt k).mb
    let v := m.data 0
    let ends (i : Instr) (s1 : State) (p : Ctx → Prop) : Prop :=
      ∃ t, exec i s = .next t ∧ p (t.ctxAt id) ∧ (t.engAt k).run = .parked ∧ (t.engAt k).mb.nest = 0 ∧
        (∀ j, j ≠ id → t.ctxAt j = s.ctxAt j) ∧ (∀ j, j ≠ k → t.engAt j = s.engAt j) ∧ t.shared = s1.shared
    1 ≤ m.docc → s.retired c = false → { c with beats := c.beats + 2 }.overdue = false →
      (v.getLsbD 1 = false → v.getLsbD 0 = true →
        ends (.mactAbandon k) (s.fetched k) (fun d => (c.db = true → d.st = .idle) ∧
          (c.db = false → d.st = .stopped ∧ d.pc = m.shw 0 ∧ d.divp = (m.shw 1).getLsbD 31 ∧ d.dw = c.dw ∧ d.docc = c.docc ∧ d.rw = c.rw ∧ d.aux = c.aux ∧
            d.q = c.q ∧ d.sh = c.sh ∧ d.nest = c.nest))) ∧
      (v.getLsbD 1 = true → ∀ e l, s.ctxEntry c.gen c.lctx = some e → s.restoreWords c.gen c.lctx = some l →
        ends (.mactRestart k) ((s.fetched k).noteWords (s.blockWords c.gen c.lctx)) (fun d => d.st = .idle ∧ d.nest = 0 ∧ d.latePend = false ∧ d.docc = e.pdepth ∧ d.rocc = 0 ∧
          d.level = e.home ∧ d.pc = if e.db then e.entry else e.restart)) ∧
      (v &&& 3 = 0 → Traps (.csrw k 0xC2) s k (s.fetched k) m { Flt.illegal with csr := 0xC2 } m.resumePc 0x73C2)

/-! ### Samples, events, and the events of an engine -/

/-- INL and INLS (R177-R179, R259-R268): INL pushes the record's 24-bit value left-justified, INLS a status word under it, with
STALE, CONSUMED, VALID, SETTLE, TSAMP and SEQ; a read marks the channel consumed, and a stale one reports SAMPLE_LATE (10 R265);
a channel that is not routed to the train raises PRIV. SAMPLE_RECORD on a routed channel at least 40 ticks after its last one
(R263, R264, R266): the record enters the window of every routed train with its tick, every context's CONSUMED mark of the
channel goes, and with it an ACCEPTED INJECT of the channel is DONE, and an ACCEPTED SELECT whose codes the record carries
(R275); a channel without a route reports it; of records of one channel in one tick the lowest lane's is taken (16 R402).
SAMPLE_MISS at offset ARRIVE with nothing received in the cycle reports 1 (R268). -/
def Obligations.SamplesReachPrograms : Prop :=
  (∀ (k : Nat) (s : State) (ch : BitVec 7), Ready s k →
    let c := s.bank k
    let n := ch.toNat
    let r := (s.recAt (trainOf k) n).word
    let v : Word := (r.extractLsb' 0 24).setWidth 32 <<< 8
    let cons := c.marks.contains n
    let c1 : Ctx := if cons then c else { c with marks := c.marks ++ [n] }
    let a : Word := BitVec.ofNat 32 (0x02000000 + 8 * n)
    let stale := s.stale (trainOf k) n
    (s.schRouted k n = true → (stale = true → (s.fwAt 82).sevOf 0 ≤ 1 ∨ (s.fwAt 82).en.getLsbD 0 = false) →
      ∃ f, let s1 := { s.fetched k with fw := f }
        (stale = false → s1 = s.fetched k) ∧ (stale = true → Reports (s.fetched k) s1 82 0 (some n) 0) ∧
        (c.fits 0 1 → Completes (.inl k ch) s k s1 (c1.push v) 1) ∧
        (c.fits 0 2 → ∃ x : Word,
          x.toNat = stale.toNat * 2 ^ 31 + cons.toNat * 2 ^ 30 + (r.getLsbD 32).toNat * 2 ^ 29 +
            (r.extractLsb' 33 3).toNat * 2 ^ 26 + (r.extractLsb' 49 15).toNat * 2 ^ 11 + (r.extractLsb' 24 8).toNat ∧
          Completes (.inls k ch) s k s1 ((c1.push x).push v) 1)) ∧
    (s.schRouted k n = false →
      Traps (.inl k ch) s k (s.fetched k) c (.priv 4 a) c.resumePc (BitVec.ofNat 16 (0x7800 + n)) ∧
      Traps (.inls k ch) s k (s.fetched k) c (.priv 4 a) c.resumePc (BitVec.ofNat 16 (0x7880 + n)))) ∧
  (∀ (lane : Nat) (rec : Word64) (s : State), lane < 4 →
    let ch := (rec.extractLsb' 36 7).toNat
    let x := s.inletAt.get (fun _ => 0) ch
    let done (c : Nat) (w : Word) : Bool := decide ((w.extractLsb' 15 7).toNat = ch) &&
      (w.extractLsb' 28 4 == 2 || w.extractLsb' 28 4 == 1 && w.extractLsb' 25 3 == rec.extractLsb' 43 3 &&
        (!Config.sigmaDelta c || w.extractLsb' 22 3 == rec.extractLsb' 46 3))
    let first := ∀ l r, Instr.sampleRecord l r ∈ s.pending → (r.extractLsb' 36 7).toNat = ch → lane ≤ l
    (¬ first → exec (.sampleRecord lane rec) s = .next s) ∧
    (first → (x = 0 ∨ x + 39 ≤ s.now) → s.schTrains ch ≠ 0 → s.fences.contains (.sample ch) = false →
      ∃ t, exec (.sampleRecord lane rec) s = .next t ∧
        (∀ tr c, tr < 8 → c < 128 → t.recAt tr c =
          if (s.schTrains ch).testBit tr = true ∧ c = ch then { word := rec, arrived := some s.now } else s.recAt tr c) ∧
        (∀ id, (t.ctxAt id).marks = (s.ctxAt id).marks.filter (· ≠ ch) ∧
          { t.ctxAt id with marks := [] } = { s.ctxAt id with marks := [] }) ∧
        (∀ k, t.engAt k = let e := s.engAt k; { e with mb := { e.mb with marks := e.mb.marks.filter (· ≠ ch) } }) ∧
        (∀ c, t.cvcAt c = let y := s.cvcAt c
          if 64 ≤ c then y else { y with
            st := if y.st = 2 ∧ done c y.word = true then 3 else y.st
            pst := if y.pst = 2 ∧ done c y.pword = true then 3 else y.pst }) ∧
        { t with win := [], ctx := [], eng := [], cvc := [], inletAt := [] } =
          { s with win := [], ctx := [], eng := [], cvc := [], inletAt := [] }) ∧
    (first → (x = 0 ∨ x + 39 ≤ s.now) → s.schTrains ch = 0 → (s.fwAt 82).sevOf 2 ≤ 1 →
      ∃ t, exec (.sampleRecord lane rec) s = .next t ∧ Reports s t 82 2 (some ch) 0 ∧
        { t with fw := [], freeCtr := 0, inletAt := [] } = { s with fw := [], freeCtr := 0, inletAt := [] }) ∧
    (x ≠ 0 → s.now < x + 39 → exec (.sampleRecord lane rec) s = .next s) ∧
    (∀ c r p, c < 128 → s.schRoute c = some r → s.period r.pg = some p → p.offset s.now = r.arrive → (s.fwAt 82).sevOf 1 ≤ 1 →
      (∀ tr y, tr < 8 → (s.recAt tr c).arrived = some y → y + p.period ≤ s.now) →
      ∃ t, exec (.sampleMiss c) s = .next t ∧ Reports s t 82 1 (some c) 0 ∧
        { t with fw := [], freeCtr := 0 } = { s with fw := [], freeCtr := 0 }))

/-- EVT (R180-R183, R424): ACK clears and PEND reads EVPEND; MB.POST to an empty mailbox fills it, counts SEQ and pushes 1, to a
full one sets OVR and pushes 0; MB.TAKE of a full one empties it and pushes its SEQ under bit 31, of an empty one pushes 0;
EVT.HOST sets the train's host event bit; a context without the right gets PRIV, with the mailbox's address in SADDR (log entry
22, the model's inference). Each costs 2 beats. -/
def Obligations.EventsAndMailboxes : Prop :=
  ∀ (k : Nat) (s : State) (x : BitVec 5), Ready s k →
    let c := s.bank k
    let w := s.who k
    let s0 := s.fetched k
    let t := trainOf k
    let m := x.toNat
    let b := s.mboxAt t m
    let a : Word := BitVec.ofNat 32 (0x02400000 + 0x40 * m)
    (∃ p : Word, (∀ i < 32, p.getLsbD i = (c.evpend.getLsbD i && i != m)) ∧
      Completes (.evtAck k x) s k s0 { c with evpend := p } 2) ∧
    (c.fits 0 1 → Completes (.evtPend k) s k s0 (c.push c.evpend) 2) ∧
    Completes (.evtHost k x) s k (s0.modTrain t (fun y => { y with
      hev := y.hev ||| 1#32 <<< m, hevNow := y.hevNow ||| 1#32 <<< m })) c 2 ∧
    (∀ y, s.mboxEntry t m = some (w.gen, y) → c.fits 0 1 →
      (y.senders.contains w.lctx = true → (s.engAt k).sbuf = [] →
        (b.full = true → Completes (.mbPost k x) s k (s0.modMbox t m (fun z => { z with ovr := true, ovrNow := true })) (c.push 0) 2) ∧
        (b.full = false → (s.img w.gen).sources.find? (fun z => z.kind == 1 && z.index == 32 * t + m) = none →
          Completes (.mbPost k x) s k (s0.modMbox t m (fun z => { z with full := true, seq := z.seq + 1 })) (c.push 1) 2) ∧
        (∀ z, b.full = false → (s.img w.gen).sources.find? (fun z => z.kind == 1 && z.index == 32 * t + m) = some z →
          s.locate w.gen z.lctx ≠ w.id →
          Completes (.mbPost k x) s k ((s0.modMbox t m (fun z => { z with full := true, seq := z.seq + 1 })).pend w.gen z.lctx z.bit)
            (c.push 1) 2)) ∧
      (y.receiver = w.lctx →
        (b.full = true → Completes (.mbTake k x) s k (s0.modMbox t m (fun z => { z with full := false }))
          (c.push (0x80000000 ||| b.seq.setWidth 32)) 2) ∧
        (b.full = false → Completes (.mbTake k x) s k s0 (c.push 0) 2))) ∧
    (s.mboxEntry t m = none →
      ((s.engAt k).sbuf = [] → Traps (.mbPost k x) s k s0 c (.priv 6 a) c.resumePc (BitVec.ofNat 16 (0x7940 + m))) ∧
      Traps (.mbTake k x) s k s0 c (.priv 6 a) c.resumePc (BitVec.ofNat 16 (0x7960 + m)))

/-- Short stacks and full windows (R63, R73, R75): with nothing spilled, too few data entries raise UNDERFLOW, and with no spill
room one too many raises DSOVF, or RSOVF on the return stack; with entries spilled or room to spill the instruction waits a beat
for the fusee's batch. FUSEE_BATCH (R70-R76): a spill stores the two oldest data entries, lower one in bits [31:0], or the
oldest return entry with its tag, at the end of the spill area, and a fill brings the youngest spilled word back below the
window, 4 beats of the context either way; spill and fill are inverse: filling what was spilled restores the window and the
count. -/
def Obligations.SpillsAndFills : Prop :=
  (∀ (k : Nat) (s : State), Ready s k →
    let c := s.bank k
    let s0 := s.fetched k
    let waits (i : Instr) (op : FuseeOp) : Prop := Waits i s k (s0.modEng k (fun e => { e with fusee := some op })) c
        (if (s.engAt k).sbuf = [] then 0 else 1) ∧
      ∃ t : State, exec i s = .next (t.settle k) ∧ (t.engAt k).fusee = some op
    (c.docc < 2 →
      (c.dused = 0 → Traps (.add k) s k s0 c { code := 8 } c.resumePc 0x6100 ∧
        Traps (.swap k) s k s0 c { code := 8 } c.resumePc 0x6002) ∧
      (0 < c.dused → waits (.add k) .fillData ∧ waits (.swap k) .fillData)) ∧
    (c.docc = 32 →
      (c.dsize ≤ c.dused → Traps (.dup k) s k s0 c { code := 6 } c.resumePc 0x6000) ∧
      (c.dused < c.dsize → waits (.dup k) .spillData)) ∧
    (1 ≤ c.docc → c.rocc = 16 →
      (c.rsize ≤ c.rused → Traps (.toR k) s k s0 c { code := 7 } c.resumePc 0x6010) ∧
      (c.rused < c.rsize → waits (.toR k) .spillReturn)) ∧
    (c.rocc = 0 →
      (c.rused = 0 → Traps (.rdrop k) s k s0 c { code := 8 } c.resumePc 0x6013) ∧ (0 < c.rused → waits (.rdrop k) .fillReturn))) ∧
  (∀ (k : Nat) (s : State), s.hasEngine k = true → (s.engAt k).sbuf = [] → (s.engAt k).run ≠ .parked → (s.engAt k).st ≠ .fenced →
    s.ce = [] → (s.bank k).sound = true →
    let c := s.bank k
    let counted (t : State) (d : Ctx) : Prop := ∀ slot, (s.engAt k).run = .ctx slot → t.ctxAt (ctxId k slot) = d ∧ d.beats = c.beats + 4
    let dk (i : Nat) : Nat := lsKey k (8 * ((c.dspill.extractLsb' 0 13).toNat + c.dused + i))
    let rk (i : Nat) : Nat := lsKey k (8 * ((c.rspill.extractLsb' 0 13).toNat + c.rused + i))
    (8 ≤ c.docc → c.docc ≤ 32 → c.dused + 4 ≤ c.dsize → (s.engAt k).fusee = some .spillData →
      ∃ t, exec (.fuseeBatch k .spillData) s = .next t ∧ (t.engAt k).fusee = none ∧
        let d := t.bank k
        counted t d ∧ d.docc = c.docc - 8 ∧ d.dused = c.dused + 4 ∧ (∀ i < c.docc - 8, d.data i = c.data i) ∧
        (∀ i < 4, (t.rd64 (dk i)).toNat =
          (c.data (c.docc - 1 - 2 * i)).toNat + 2 ^ 32 * (c.data (c.docc - 2 - 2 * i)).toNat) ∧
        (∀ a, (∀ i < 4, a < dk i ∨ dk i + 8 ≤ a) → t.byteAt a = s.byteAt a) ∧
        ∀ u, u = t.modEng k (fun e => { e with fusee := some .fillData }) → t.ue = [] →
          ∃ v, exec (.fuseeBatch k .fillData) u = .next v ∧ (v.bank k).docc = c.docc ∧ (v.bank k).dused = c.dused ∧
            ∀ i < c.docc, (v.bank k).data i = c.data i) ∧
    (4 ≤ c.rocc → c.rocc ≤ 16 → c.rused + 4 ≤ c.rsize → (s.engAt k).fusee = some .spillReturn →
      ∃ t, exec (.fuseeBatch k .spillReturn) s = .next t ∧ (t.engAt k).fusee = none ∧
        let d := t.bank k
        counted t d ∧ d.rocc = c.rocc - 4 ∧ d.rused = c.rused + 4 ∧ (∀ i < c.rocc - 4, d.ret i = c.ret i ∧ d.rtag i = c.rtag i) ∧
        (∀ i < 4, (t.rd64 (rk i)).toNat = (c.ret (c.rocc - 1 - i)).toNat + 2 ^ 32 * (c.rtag (c.rocc - 1 - i)).toNat) ∧
        ∀ u, u = t.modEng k (fun e => { e with fusee := some .fillReturn }) → t.ue = [] →
          ∃ v, exec (.fuseeBatch k .fillReturn) u = .next v ∧ (v.bank k).rocc = c.rocc ∧ (v.bank k).rused = c.rused ∧
            ∀ i < c.rocc, (v.bank k).ret i = c.ret i ∧ (v.bank k).rtag i = c.rtag i))

/-- The responses of memory and host (R47, R49, R142, R189, R190): a fill makes its line the most recent of its set and serves
the waiting fetch; a boundary-load response completes its instruction with value and address update, an error response raises
BERR, at the context's next instruction where it does not run then (log entry 16); a boundary store's success frees its queue
entry, its error leaves BERR_LATE pending in the context that issued it. -/
def Obligations.MemoryResponses : Prop :=
  ∀ (k : Nat) (s : State) (data : Word64), s.hasEngine k = true →
    let e := s.engAt k
    (∀ (addr : Word) (line : BitVec 256), let a := addr.toNat / 32 * 32
      s.missing k a = true → rgnOf a ≠ some .tm →
        ∃ t, exec (.icacheFill k addr line false) s = .next t ∧ (t.engAt k).icache.head? = some { addr := a, data := line } ∧
          ((t.engAt k).icache.filter (fun l => l.addr / 32 % 128 == a / 32 % 128)).length ≤ 2 ∧
          (∀ l ∈ (t.engAt k).icache, l.addr = a ∨ l ∈ e.icache) ∧ t.missing k a = false) ∧
    (∀ (addr : Word) (line : BitVec 256), let a := addr.toNat / 32 * 32
      let at' := if (s.bank k).pc.toNat / 32 * 32 = a then (s.bank k).pc.toNat else a
      s.missing k a = true → rgnOf a = some .tm → e.sbuf = [] → (s.tmPlace (s.who k) (at' / 8 * 8 % 0x200000) 8 false false).isSome →
        ∃ t, exec (.icacheFill k addr line false) s = .next t ∧
          (t.engAt k).icache.head?.map (·.data) = some (BitVec.ofNat 256 (s.rdBytes (tmKey (trainOf k) (a % 0x200000)) 32)) ∧
          (t.bank k).beats = (s.bank k).beats + 6) ∧
    (∀ b, e.bload = some b → e.undebugged = true →
      let id := ctxId k b.slot
      let c := s.ctxAt id
      let others (t : State) : Prop := (t.engAt k).bload = none ∧ (∀ j, j ≠ id → t.ctxAt j = s.ctxAt j) ∧
        (∀ j, j ≠ k → t.engAt j = s.engAt j) ∧ { t.shared with freeCtr := 0 } = { s.shared with freeCtr := 0 }
      (∃ t n, exec (.boundaryLoadResponse k data false) s = .next t ∧ (e.run ≠ .ctx b.slot → n = 0) ∧
        t.ctxAt id = { c.loaded b data with beats := c.beats + n } ∧ others t) ∧
      (e.run ≠ .ctx b.slot → ∃ t, exec (.boundaryLoadResponse k data true) s = .next t ∧
        t.ctxAt id = { c with lerr := some (b.addr, b.instr) } ∧ others t) ∧
      (e.run = .ctx b.slot → exec (.boundaryLoadResponse k data true) s =
        .next (((s.modEng k (fun e => { e with bload := none })).hostBeats k).takeFault k (.berr b.addr)
          { pc := c.resumePc, instr := b.instr.setWidth 32 }))) ∧
    (∀ a i, s.canRun k = true → (s.bank k).lerr = some (a, i) → exec (.nop k) s =
      .next ((s.setBank k { s.bank k with lerr := none }).takeFault k (.berr a) { pc := (s.bank k).resumePc, instr := i.setWidth 32 })) ∧
    (∀ b r, e.bq = b :: r →
      (∃ t, exec (.boundaryStoreResponse k) s = .next t ∧ t = s.modEng k (fun e => { e with bq := r })) ∧
      (s.bqAlive b = true → ∃ t, exec (.boundaryStoreError k) s = .next t ∧ (t.engAt k).bq = r ∧
        t.ctxAt b.ctxid = (let c := s.ctxAt b.ctxid
          if c.latePend then { c with lateOvf := true } else { c with latePend := true, lateAddr := b.addr }) ∧
        (∀ j, j ≠ b.ctxid → t.ctxAt j = s.ctxAt j) ∧ t.shared = s.shared)) ∧
    (∀ (c : Ctx) (b : BLoad), b.width = 2 → c.rep = false → let d := c.loaded b data
      d.data 0 = data.setWidth 32 ∧ d.pc = c.pc + 2 ∧ d.docc = c.docc + 1 ∧ d.auxR b.an.toNat = b.anNew)

/-- The asynchronous conditions of R188 at a stopping point: BUDGET or WDOG takes a terminal entry at M, a stop ends the
activation with the bank as it is and parks the engine, a late bus error enters with its address, an enabled event enters at
index 0 unless it ends a WAIT (06 R160); the condition that is taken is no longer pending. The engine's limits (R31, R319, R328,
08 R222): the first beat beyond the budget raises BUDGET and WDOG fires W ticks after its last restart, each leaving its
terminal entry pending, unless BUDGET fences the engine, whose contexts then wait for restoration (R431); the stop tick of a
FREE or EVENT activation sends a stop request; 256 ticks without a stopping point raise HANG. -/
def Obligations.AsynchronousEntries : Prop :=
  (∀ (k slot : Nat) (s : State), s.hasEngine k = true →
    let id := ctxId k slot
    let c := s.ctxAt id
    let e := s.engAt k
    e.run = .ctx slot → e.lock = 0 → e.dbg.halted = false → e.dbg.stepping = false → e.mstop = false → e.waiting = false →
    s.tracing = false →
      (c.budgetPend = true → exec (.terminalEntry k) s = .next ((s.modCtx id (fun c => { c with budgetPend := false })).takeFault k
        { code := 9 } { pc := c.resumePc, term := true })) ∧
      (c.budgetPend = false → c.wdogPend = true → exec (.terminalEntry k) s =
        .next ((s.modCtx id (fun c => { c with wdogPend := false })).takeFault k { code := 0xA } { pc := c.resumePc, term := true })) ∧
      (c.budgetPend = false → c.wdogPend = false →
        (e.stopReq.isSome = true → s.retired c = false → ∃ t, exec (.contextStop k) s = .next t ∧ (t.engAt k).run = .parked ∧
          (t.engAt k).stopReq = none ∧ t.ctxAt id = { c with st := if c.db then .idle else .stopped } ∧
          (∀ j, j ≠ id → t.ctxAt j = s.ctxAt j) ∧ t.shared = s.shared) ∧
        (e.stopReq = none → e.dbg.pend = false →
          (c.latePend = true → exec (.berrLate k) s =
            .next ((s.modCtx id (fun c => { c with latePend := false, lateOvf := false })).takeFault k
              { code := 4, addr := c.lateAddr } { pc := c.resumePc, lateOvf := c.lateOvf })) ∧
          (c.latePend = false → e.begun ≠ .event → c.db = false → c.level ≠ 3 → c.ie = true → c.evpend &&& c.evmask ≠ 0 →
            exec (.eventEntry k) s = .next (s.takeFault k { code := 0 } { pc := c.resumePc, event := true }))))) ∧
  (∀ (k slot : Nat) (s : State), s.hasEngine k = true → (s.engAt k).st ≠ .off → s.quench = [] → (s.engAt k).run = .ctx slot →
    let id := ctxId k slot
    let c := s.ctxAt id
    let f := s.fwAt k
    let recorded (t : State) (n : Nat) : Prop := f.en.getLsbD n = true → (t.fwAt k).stat = f.stat ||| 1#32 <<< n ∧
      (f.capValid = false → (t.fwAt k).capArg.toNat = c.lctx % 1024 + 1024 * c.gen.toNat)
    (c.st = .running → c.overdue = true → let n := if c.db then 4 else 5
      ∃ t, exec (.budget k) s = .next t ∧ recorded t n ∧
        (¬ (f.en.getLsbD n = true ∧ f.sevOf n = 3) →
          t.ctxAt id = { c with overrun := true, budgetPend := true, beats := Max.max c.beats (c.budget + 1) } ∧
          ∀ j, j ≠ id → t.ctxAt j = s.ctxAt j) ∧
        (f.en.getLsbD n = true →
          (f.sevOf n = 2 → t.gf = { s.gf with degraded := true }) ∧
          (f.sevOf n = 3 → slot < 16 → (s.engAt k).st ≠ .fenced → (s.trainAt (trainOf k)).rot = none →
            (t.engAt k).st = .fenced ∧ (t.ctxAt id).st = .restoring) ∧
          (f.sevOf n = 4 → t.gf.safe = true))) ∧
    (∀ x, s.locate c.gen c.lctx = some id → engOfCtx id = k → c.wdAt = some x → c.wdW ≠ 0 → x + c.wdW ≤ s.now →
      (s.engAt k).dbg.halted = false → f.sevOf 6 ≤ 1 →
      ∃ t, exec (.wdog c.gen c.lctx) s = .next t ∧ recorded t 6 ∧ t.ctxAt id = { c with wdAt := none, wdogPend := true }) ∧
    (∀ a, c.act = some a → a.kind ≠ 0 → a.endAt ≤ s.now → (s.engAt k).stopReq = none →
      ∃ t, exec (.stopRequest k) s = .next t ∧ t = s.modEng k (fun e => { e with stopReq := some s.now })) ∧
    (∀ x, (s.engAt k).stopReq = some x → x + 256 ≤ s.now → f.en.getLsbD 10 = true → (s.trainAt (trainOf k)).rot = none →
      ∃ t, exec (.hang k) s = .next t ∧ (t.fwAt k).stat = f.stat ||| 0x400 ∧ (f.sevOf 10 = 3 → (t.engAt k).st = .fenced)))

/-! ### The escapement and the remontoire (spec 08 R218-R224, 09 R239-R257) -/

/-- Releases (03 R86, 08 R221-R224, 14 R367): DEADBEAT and FREE at their START, once a tick and engine, EVENT for the first
member of the wake set with pending events that fits, once the engine's halt has let it rejoin at a START (14 R370), and the
late one after RELEASE_LATE, which counts it; a busy engine gets a stop request and keeps the release for later, the FREE one
within its entry (log entry 48, the model's inference); a halted one counts it as skipped. -/
def Obligations.ReleasesStartActivations : Prop :=
  ∀ (gen : Bool) (lctx k slot : Nat) (s : State) (e : CtxE) (x : TabEnt), slot < 16 →
    s.locate gen lctx = some (ctxId k slot) → s.releasing gen lctx = true → s.tracing = false →
    (s.engAt k).st = .service → (s.ctxAt (ctxId k slot)).st ≠ .restoring → (s.ctxAt (ctxId k slot)).st ≠ .unused →
    (s.ctxAt (ctxId k slot)).sound = true →
    let c := s.ctxAt (ctxId k slot)
    let eng := s.engAt k
    let idle := eng.dbg.halted = false ∧ eng.run = .parked ∧ c.ready = true
    let rest (t : State) : Prop := { t with ctx := [], eng := [], outlet := [] } = { s with ctx := [], eng := [], outlet := [] }
    let releases (i : Instr) (budget kind endAt : Nat) : Prop :=
      ∃ t : State, exec i s = .next (t.settle k) ∧ Released s k slot budget kind endAt t ∧ rest t
    let only (i : Instr) (new : Engine) : Prop := ∃ t, exec i s = .next t ∧ t.engAt k = new ∧ (∀ j, j ≠ k → t.engAt j = s.engAt j) ∧
      { t with eng := [] } = { s with eng := [] }
    let waits (i : Instr) (r : LateRel) : Prop := ∀ j, eng.dbg.halted = false → eng.run = .ctx j →
      only i { eng with stopReq := some (eng.stopReq.getD s.now), late := some r, relAt := some s.now }
    let skips (i : Instr) : Prop := eng.dbg.halted = true → only i { eng with
      late := none, relAt := some s.now
      dbg := { eng.dbg with
        skiprel := Min.min (eng.dbg.skiprel + 1) 0xFFFF
        skipped := if eng.dbg.skipped.contains slot then eng.dbg.skipped else eng.dbg.skipped ++ [slot] } }
    let endAt := s.now + nextDist (s.entries e.train e.pos) s.now
    (s.entryNow gen lctx 0 = some (e, x, 0) → eng.relAt ≠ some s.now →
      (idle → releases (.deadbeatRelease gen lctx) x.ent.budget 0 endAt) ∧
      waits (.deadbeatRelease gen lctx) { slot := slot, budget := x.ent.budget, endAt := endAt, kind := 0 } ∧
      skips (.deadbeatRelease gen lctx)) ∧
    (s.entryNow gen lctx 0 = some (e, x, 0) → eng.relAt = some s.now → exec (.deadbeatRelease gen lctx) s = .next s) ∧
    (∀ d, s.entryNow gen lctx 1 = some (e, x, d) → d ≤ s.now →
      let stop := s.now - d + s.stopDist e.train e.pos (s.now - d)
      let r : LateRel := { slot := slot, budget := x.ent.budget, endAt := stop, kind := 1 }
      (d = 0 → eng.relAt ≠ some s.now →
        (idle → releases (.freeRelease gen lctx) x.ent.budget 1 stop) ∧ waits (.freeRelease gen lctx) r ∧ skips (.freeRelease gen lctx)) ∧
      (0 < d → eng.late = some r → idle → releases (.freeRelease gen lctx) x.ent.budget 1 stop) ∧
      (0 < d → eng.late ≠ some r → exec (.freeRelease gen lctx) s = .next s)) ∧
    (∀ (tr p : Nat) (pre post : List Nat) (l : List TabEnt), s.hasTrain tr = true → p < 8 →
      (inForce (s.entries tr p) s.now).filter (fun y => y.ent.kind == 2) = x :: l → x.gen = gen →
      (s.img gen).wake x.ent.lctx = pre ++ lctx :: post → s.ctxEntry gen lctx = some e →
      (∀ m ∈ pre, ∀ id, s.locate gen m = some id → (s.ctxAt id).evpend &&& (s.ctxAt id).evmask = 0) →
      (c.evpend &&& c.evmask) ≠ 0 → c.ready = true →
      let stop := s.segmentStop tr p gen x.ent.lctx (s.entries tr p).length s.now
      s.now + (s.img gen).hdr.tickNeed e.ebudget + 1 ≤ stop →
      (idle → eng.lateWaits = false → (eng.dbg.parkFrom = 0 ∨ eng.dbg.parkFrom + x.since s.now ≤ s.now) → releases (.eventRelease tr p) e.ebudget 2 stop) ∧
      (slot ∉ eng.dbg.skipped → skips (.eventRelease tr p))) ∧
    (∀ r, eng.late = some r → r.slot = slot → r.kind = 0 → idle → s.hasEngine k = true → (s.fwAt 80).sevOf 0 ≤ 1 →
      ∃ t : State, exec (.releaseLate k) s = .next (t.settle k) ∧ Released s k slot r.budget 0 r.endAt t ∧
        t.esc = { s.esc with late := Min.min (s.esc.late + 1) 0xFFFF } ∧
        Reports s t 80 0 (some (lctx % 1024 + 1024 * gen.toNat)) 0 ∧
        { t with ctx := [], eng := [], outlet := [], esc := {}, fw := [], freeCtr := 0 } =
          { s with ctx := [], eng := [], outlet := [], esc := {}, fw := [], freeCtr := 0 })

/-- PERIOD_EVENT at offset 0 of its generator (08 R218, R227, 10 R279, R280, 16 R411): the sources of kind 0 pend, the ramp of
every trip channel on the generator restarts from this tick and a period-cleared latch whose comparator is below clears, and the
host line of a HOSTEV generator rises; at any other offset nothing happens. Trip channels and host events (R276-R283, 09 R246,
R247, 16 R411): TRIP_INPUT and TRIP_BLANK set the comparator's state (0b11 as 0b10) and the blanking level, and the latch of an
enabled latching channel that is above and not blanked sets and pends its trip call; TRP_CLR clears the named latches whose
comparator is below; overrides follow at once. HOST_EVENT_INPUT pends its sources. -/
def Obligations.PeriodEventsAndTrips : Prop :=
  (∀ (p : Nat) (s : State) (e : PeriodE), p < 16 → s.period p = some e →
    let atZero := (s.now + e.period - e.phase % e.period) % e.period = 0
    (¬ atZero → exec (.periodEvent p) s = .next s) ∧
    (atZero → ∃ t, exec (.periodEvent p) s = .next t ∧ Pended s t 0 p ∧ Overridden s t ∧
      (∀ n, n < 64 → t.tripAt n =
        let x := s.tripAt n
        if (x.cfg.extractLsb' 24 4).toNat = p then
          { x with latch := x.latch && !(x.cfg.extractLsb' 28 2 == 0b01 && x.inp == 0b00) } else x) ∧
      (∀ q, t.pgAt.get (fun _ => 0) q = if q = p then s.now else s.pgAt.get (fun _ => 0) q) ∧
      t.pins = { s.pins with evtPg := if e.hostev then s.pins.evtPg ||| 1#16 <<< p else s.pins.evtPg } ∧
      { t with ctx := [], trip := [], outlet := [], pins := {}, pgAt := [] } =
        { s with ctx := [], trip := [], outlet := [], pins := {}, pgAt := [] })) ∧
  (∀ (n : Nat) (st : BitVec 2) (level hi : Bool) (v : Word) (a : HAcc) (s : State), n < 64 →
    let x := s.tripAt n
    let edge (i : Instr) (y : Trip) : Prop :=
      let sets := s.tripOn n = true ∧ y.inp = 0b01 ∧ ¬(y.cfg.getLsbD 23 = true ∧ y.blank = true) ∧
        y.cfg.extractLsb' 28 2 ≠ 0b10 ∧ y.latch = false
      ∃ t, exec i s = .next t ∧ Overridden s t ∧ (∀ m, m ≠ n → t.tripAt m = s.tripAt m) ∧
        (sets → t.tripAt n = { y with latch := true } ∧ Pended s t 4 n) ∧ (¬ sets → t.tripAt n = y ∧ t.ctx = s.ctx) ∧
        { t with trip := [], outlet := [], ctx := [] } = { s with trip := [], outlet := [], ctx := [] }
    edge (.tripInput n st) { x with inp := if st = 0b11 then 0b10 else st } ∧ edge (.tripBlank n level) { x with blank := level } ∧
    (s.takesWrite a → let base := if hi then 32 else 0
      ∃ t, exec (.trpClr hi v a) s = .next t ∧ Overridden s t ∧
        (∀ m, (m < base ∨ base + 32 ≤ m) → t.tripAt m = s.tripAt m) ∧
        (∀ i, i < 32 → { t.tripAt (base + i) with latch := false } = { s.tripAt (base + i) with latch := false } ∧
          (v.getLsbD i = false → t.tripAt (base + i) = s.tripAt (base + i)) ∧
          (v.getLsbD i = true → (s.tripAt (base + i)).inp = 0b00 → (t.tripAt (base + i)).latch = false) ∧
          (v.getLsbD i = true → (s.tripAt (base + i)).inp ≠ 0b00 → (s.tripAt (base + i)).latch = true →
            (t.tripAt (base + i)).latch = true)) ∧
        { t with trip := [], outlet := [], ctx := [] } = { s.okay with trip := [], outlet := [], ctx := [] }) ∧
    (∀ (kind : EvtLine) (line : Nat), line < 32 → ∃ t, exec (.hostEventInput kind line) s = .next t ∧
      Pended s t (match kind with | .irq => 2 | .cap => 3 | .tmr => 5) line ∧ { t with ctx := [] } = { s with ctx := [] }))

/-- COMMIT_TICK (09 R241-R244, R252, R256, R258) with every contributor of the group complete and, in a paired group, every
outlet within the tolerance of its check value (12 R331): COMMIT sends each staged value with code 0b01 and 0b00 for the rest,
or TRIPPED leaves the outlets as the override drives them; either way staging ends, CCOUNT advances, carried state is published
and the dial channels that show the group's outlets fall due. A due channel takes its snapshot of the committed values at the
edge that ends the tick (R256). COMMIT_TICK with an incomplete contributor and no halt that freezes the group (R243, R244):
under the HOLD policy below HOLD_LIMIT the outlets hold, else SAFE sends every safe value, by level while the group is TRIPPED;
HOLD at the limit latches the group. Both count, publish nothing and report. A failed compare of a pair gives SAFE, latches the
group and reports the channel. While a halt alone keeps contributors back and DBG_FRZ.RMT is set, the group holds and CONSEC
stays (14 R372). -/
def Obligations.CommitTicks : Prop :=
  (∀ (g : Nat) (s : State) (gen : Bool) (e : GroupE), g < 64 → s.commitDue g = some (gen, e) →
    (∀ p ∈ s.contributors g, s.complete g p.1 p.2.lctx = true) → (s.grpAt g).esc = false → s.gf.safe = false →
    (∀ tol, (s.img gen).pairOf g = some tol → ∀ q ∈ s.grpSafe g, let o := s.outAt q.1
      o.staged = o.checked ∧ (o.staged = true → (o.staging.toInt - o.check.toInt).natAbs ≤ tol)) → s.tracing = false → s.ue = [] → s.ce = [] → s.fences = [] →
    ∃ t, exec (.commitTick g) s = .next t ∧
      (∀ n v, (n, v) ∈ s.grpSafe g →
        let o := s.outAt n
        let ends (x : Outlet) : Outlet := { x with staging := 0, staged := false, check := 0, checked := false }
        t.outAt n = if s.grpTripped g then ends o
          else if o.staged then ends { o with committed := o.staging, cmd := 0b01 } else ends { o with cmd := 0b00 }) ∧
      (∀ n, (∀ p ∈ s.grpSafe g, p.1 ≠ n) → t.outAt n = s.outAt n) ∧
      t.grpAt g = { s.grpAt g with last := 1, consec := 0, ccount := (s.grpAt g).ccount + 1, prev := some s.now } ∧
      (∀ h, h ≠ g → t.grpAt h = s.grpAt h) ∧
      (((s.contributors g).map (fun p => lkey p.1 p.2.lctx)).Nodup → ∀ p ∈ s.contributors g,
        p.2.lowGroup = some g → ((s.img p.1).block p.2.lctx).isSome = true → t.pubHalf p.1 p.2.lctx = !s.pubHalf p.1 p.2.lctx) ∧
      (∀ p b, s.contributors g = [p] → p.2.lowGroup = some g → (s.img p.1).block p.2.lctx = some b → 0 < b.length →
        let half := s.pubHalf p.1 p.2.lctx
        t.rd32 (s.blockKey p.1 b (!half) 0) = s.rd32 (s.blockKey p.1 b half 0) + 1 ∧
        (t.rd32 (s.blockKey p.1 b (!half) 1)).toNat =
          (s.img p.1).hdr.layoutGen % 2 ^ 16 * 2 ^ 16 + s.now % 2 ^ 15 * 2 + 1) ∧
      (∀ d, d < 32 → (s.dialAt d).kind = 2 → (∃ p ∈ s.grpSafe g, (s.dialAt d).start ≤ p.1 ∧ p.1 < (s.dialAt d).start + 14) →
        t.dialAt d = { s.dialAt d with due := some ((s.dialAt d).due.getD false) }) ∧
      { t with outlet := [], grp := [], mem := [], sel := [], dial := [] } =
        { s with outlet := [], grp := [], mem := [], sel := [], dial := [] }) ∧
  (∀ (g : Nat) (s : State) (gen : Bool) (e : GroupE) (p : Bool × CtxE), g < 64 → s.commitDue g = some (gen, e) →
    p ∈ s.contributors g → s.complete g p.1 p.2.lctx = false → (s.grpAt g).esc = false → s.gf.safe = false →
    s.dbg.frzRmt = false → s.tracing = false → (∀ n, n < 3 → (s.fwAt 81).sevOf n ≤ 1) →
    let x := s.grpAt g
    let hold := e.policy = 0 ∧ x.consec + 1 < Max.max s.rmt.holdLimit.toNat 1
    let latch := e.policy = 0 ∧ ¬ hold
    ∃ t, exec (.commitTick g) s = .next t ∧
      (∀ n v, (n, v) ∈ s.grpSafe g →
        let ends : Outlet := { s.outAt n with staging := 0, staged := false, check := 0, checked := false }
        (hold → t.outAt n = ends) ∧
        (¬ hold → t.outAt n = { ends with committed := v, cmd := if s.grpTripped g then 0b11 else 0b10 })) ∧
      (∀ n, (∀ p ∈ s.grpSafe g, p.1 ≠ n) → t.outAt n = s.outAt n) ∧
      t.grpAt g = { x with
        last := if decide hold then 2 else 3, consec := Min.min (x.consec + 1) 255, prev := some s.now, esc := decide latch } ∧
      (∀ h, h ≠ g → t.grpAt h = s.grpAt h) ∧
      t.rmt = { s.rmt with
        heldCnt := s.rmt.heldCnt + 1, holdOut := s.rmt.holdOut || decide hold, safeOut := s.rmt.safeOut || !decide hold
        esc := s.rmt.esc || decide latch } ∧
      (hold → Reports s t 81 0 none 0) ∧ (¬ hold → e.policy ≠ 0 → Reports s t 81 1 none 0) ∧
      { t with outlet := [], grp := [], rmt := {}, dial := [], fw := [], freeCtr := 0 } =
        { s with outlet := [], grp := [], rmt := {}, dial := [], fw := [], freeCtr := 0 }) ∧
  (∀ (g tol : Nat) (s : State) (gen : Bool) (e : GroupE), g < 64 → s.commitDue g = some (gen, e) →
    (∀ p ∈ s.contributors g, s.complete g p.1 p.2.lctx = true) → (s.grpAt g).esc = false → s.gf.safe = false →
    (s.img gen).pairOf g = some tol → s.tracing = false → (s.fwAt 81).sevOf 3 ≤ 1 → (s.fwAt 81).sevOf 1 ≤ 1 →
    let x := s.grpAt g
    let fails (n : Nat) : Prop := let o := s.outAt n
      o.staged ≠ o.checked ∨ o.staged = true ∧ tol < (o.staging.toInt - o.check.toInt).natAbs
    (∃ q ∈ s.grpSafe g, fails q.1) → ∃ t n f, exec (.commitTick g) s = .next t ∧ fails n ∧ (∃ v, (n, v) ∈ s.grpSafe g) ∧
      (∀ n v, (n, v) ∈ s.grpSafe g → t.outAt n = { s.outAt n with
        staging := 0, staged := false, check := 0, checked := false, committed := v, cmd := if s.grpTripped g then 0b11 else 0b10 }) ∧
      (∀ n, (∀ p ∈ s.grpSafe g, p.1 ≠ n) → t.outAt n = s.outAt n) ∧
      t.grpAt g = { x with last := 3, consec := Min.min (x.consec + 1) 255, prev := some s.now, esc := true } ∧
      (∀ h, h ≠ g → t.grpAt h = s.grpAt h) ∧ t.rmt = { s.rmt with heldCnt := s.rmt.heldCnt + 1, safeOut := true } ∧
      Reports s { s with fw := f } 81 3 (some n) 0 ∧ Reports { s with fw := f } t 81 1 none 0 ∧
      { t with outlet := [], grp := [], rmt := {}, dial := [], fw := [], freeCtr := 0 } =
        { s with outlet := [], grp := [], rmt := {}, dial := [], fw := [], freeCtr := 0 }) ∧
  (∀ (g k : Nat) (s : State) (gen : Bool) (e : GroupE) (p : Bool × CtxE), g < 64 → s.commitDue g = some (gen, e) →
    p ∈ s.contributors g → s.complete g p.1 p.2.lctx = false → (s.grpAt g).esc = false → s.gf.safe = false →
    s.dbg.frzRmt = true → s.hasEngine k = true → (s.engAt k).dbg.halted = true → s.lcs.st ≠ .secured →
    (∀ q ∈ s.contributors g, s.complete g q.1 q.2.lctx = false → s.haltOnly q.1 q.2.lctx = true) → s.tracing = false →
    (s.fwAt 81).sevOf 0 ≤ 1 →
    ∃ t, exec (.commitTick g) s = .next t ∧
      (∀ n, t.outAt n = if ∃ q ∈ s.grpSafe g, q.1 = n then
        { s.outAt n with staging := 0, staged := false, check := 0, checked := false } else s.outAt n) ∧
      t.grpAt g = { s.grpAt g with last := 2, prev := some s.now } ∧ (∀ h, h ≠ g → t.grpAt h = s.grpAt h) ∧
      t.rmt = { s.rmt with heldCnt := s.rmt.heldCnt + 1, holdOut := true } ∧ Reports s t 81 0 none 0 ∧
      { t with outlet := [], grp := [], rmt := {}, dial := [], fw := [], freeCtr := 0 } =
        { s with outlet := [], grp := [], rmt := {}, dial := [], fw := [], freeCtr := 0 }) ∧
  (∀ (n : Nat) (held : Bool) (s : State), (s.dialAt n).kind = 2 → (s.dialAt n).due = some held →
    let t := s.takeSnapshot n
    { t.dialAt n with data := [] } = { s.dialAt n with
      data := [], valid := true, held := held, seq := (s.dialAt n).seq + 1, due := none } ∧
    (∀ i, i < 14 → (t.dialAt n).data[i]? =
      some (let c := (s.dialAt n).start + i; if c < 320 then (s.outAt c).committed else 0)) ∧
    (∀ m, m ≠ n → t.dialAt m = s.dialAt m) ∧ { t with dial := [] } = { s with dial := [] })

/-- Converter commands and the host's reports on them (R272-R275, 16 R410): with nothing outstanding, SELECT, INJECT and
CALIBRATE post their word of R273 as PENDING and raise the request; a SELECT with a filter on a channel that is not sigma-delta,
or an INJECT on one that is, is refused with reason 3. ACCEPTED and DEFERRED answer a PENDING command, DONE an accepted
CALIBRATE, ERROR an accepted command, with CMD_HOST reported. Of a word whose status an admission has reset, the host's answer
takes the request down and is reported, and applies to no command (log entry 77). -/
def Obligations.ConverterCommands : Prop :=
  ∀ (c : Nat) (gain filt : BitVec 3) (sch input : BitVec 7) (tag : BitVec 8) (s : State), c < 64 →
    let x := s.cvcAt c
    let rest (t : State) : Prop := (∀ d, d ≠ c → t.cvcAt d = s.cvcAt d) ∧ { t with cvc := [] } = { s with cvc := [] }
    let posts (i : Instr) (op g f m n : Nat) : Prop :=
      ∃ (t : State) (w : Word), exec i s = .next t ∧
        w.toNat = op * 2 ^ 28 + g * 2 ^ 25 + f * 2 ^ 22 + m * 2 ^ 15 + n * 2 ^ 8 + tag.toNat ∧
        t.cvcAt c = { x with op := BitVec.ofNat 4 op, st := 1, tag := tag, word := w, reason := 0, req := true, cmd := w } ∧ rest t
    let refused (i : Instr) : Prop := (s.fwAt 82).sevOf 3 ≤ 1 →
      ∃ t, exec i s = .next t ∧ (t.cvcAt c).st = 5 ∧ (t.cvcAt c).reason = 3 ∧ (t.cvcAt c).req = x.req ∧
        Reports s t 82 3 (some c) 0 ∧ (∀ d, d ≠ c → t.cvcAt d = s.cvcAt d) ∧
        { t with cvc := [], fw := [], freeCtr := 0 } = { s with cvc := [], fw := [], freeCtr := 0 }
    let sd := Config.sigmaDelta c
    (s.cvcRoute c).isSome = true → s.fences.contains (.command c) = false →
      ((x.st = 0 ∨ x.st = 3) → x.pst = 0 → x.stale = false →
        ((sd = true ∨ filt = 0) → posts (.select c gain filt sch input tag) 1 gain.toNat filt.toNat sch.toNat input.toNat) ∧
        (sd = false → filt ≠ 0 → refused (.select c gain filt sch input tag)) ∧
        (sd = false → posts (.inject c sch input tag) 2 0 0 sch.toNat input.toNat) ∧
        (sd = true → refused (.inject c sch input tag)) ∧
        posts (.calibrate c tag) 3 0 0 0 0) ∧
      (x.stale = true → (s.fwAt 82).sevOf 4 ≤ 1 → ∀ i ∈ [Instr.cvcAccepted c, .cvcDeferred c], ∃ t, exec i s = .next t ∧
        t.cvcAt c = { x with req := false, stale := false } ∧ Reports s t 82 4 (some c) 0 ∧
        (∀ d, d ≠ c → t.cvcAt d = s.cvcAt d) ∧ { t with cvc := [], fw := [], freeCtr := 0 } = { s with cvc := [], fw := [], freeCtr := 0 }) ∧
      ((x.st = 1 ∨ x.st = 4) → x.stale = false →
        (∃ t, exec (.cvcAccepted c) s = .next t ∧ t.cvcAt c = { x with st := 2, req := false } ∧ rest t) ∧
        (∃ t, exec (.cvcDeferred c) s = .next t ∧ t.cvcAt c = { x with st := 4, req := false } ∧ rest t)) ∧
      (x.st = 2 → x.pst ≠ 2 →
        (x.op = 3 → ∃ t, exec (.cvcDone c) s = .next t ∧ t.cvcAt c = { x with st := 3 } ∧ rest t) ∧
        ((s.fwAt 82).sevOf 4 ≤ 1 → ∃ t, exec (.cvcError c) s = .next t ∧ t.cvcAt c = { x with st := 6 } ∧
          Reports s t 82 4 (some c) 0 ∧ (∀ d, d ≠ c → t.cvcAt d = s.cvcAt d) ∧
          { t with cvc := [], fw := [], freeCtr := 0 } = { s with cvc := [], fw := [], freeCtr := 0 }))

/-! ### Host reads with effects, fault reactions (spec 12 R313-R326, 17 R419) -/

/-- Reads that change state answer with the register in the low lanes of the read data, zero in the others (the model's choice,
log entry 12), and clear it (12 R314, 11 R299, 15 R398, 17 R421, 14 R382, 09 R257); DIAL_SEQ copies the snapshot into the read
buffer; a write of DIAL_SEL starts the channel afresh, and a 1 to RMT_GSTAT.ESC releases a latched group with its CONSEC,
outside SAFE (09 R243, R256). -/
def Obligations.HostReadsAndLatches : Prop :=
  ∀ (s : State) (w tr k n g : Nat) (v : Word) (a : HAcc),
    (s.readable →
      let reads (i : Instr) (x : Nat) (u : State) : Prop := exec i s = .next (u.shows (BitVec.ofNat 32 x))
      let f := s.fwAt w
      let y := s.trainAt tr
      let seq := (s.dialAt n).valid.toNat * 2 ^ 31 + (s.dialAt n).held.toNat * 2 ^ 30 + (s.dialAt n).seq.toNat
      (w < 88 → s.hasWindow w = true →
        reads (.fwCap w) (f.capValid.toNat * 2 ^ 31 + f.capConseq.toNat * 2 ^ 30 + f.capForced.toNat * 2 ^ 29 +
          f.capSrc.toNat * 2 ^ 24 + f.capArg.toNat) (s.modFw w (fun f => { f with
            capValid := false, capConseq := false, capForced := false, capSrc := 0, capArg := 0, addr := 0 })) ∧
        reads (.fwCnt w) f.cnt (s.modFw w (fun f => { f with cnt := 0 }))) ∧
      (s.hasTrain tr = true →
        reads (.swpStat tr) (y.swp.skips * 2 ^ 16 + y.swp.eccchk.toNat * 8 + y.swp.fail.toNat * 4 + y.swp.ue.toNat * 2 +
          y.swp.ce.toNat) (s.modTrain tr (fun y => { y with swp := { y.swp with skips := 0 } })) ∧
        reads (.blwPace tr) (y.pace.min * 2 ^ 16 + y.pace.meas % 2 ^ 16)
          (s.modTrain tr (fun y => { y with pace := { y.pace with min := 0xFFFF } }))) ∧
      reads .escLate s.esc.late { s with esc := { s.esc with late := 0 } } ∧
      (s.hasEngine k = true → reads (.dbgSkiprel k) (s.engAt k).dbg.skiprel
        (s.modEng k (fun e => { e with dbg := { e.dbg with skiprel := 0 } }))) ∧
      (n < 32 → reads (.dialSeq n) seq (s.modDial n (fun d => { d with bufSeq := BitVec.ofNat 32 seq, buf := d.data }))) ∧
      (s.variant.optional = true → s.tracing = false →
        reads .trcRdata ((s.dbg.buf.take 4).foldr (fun b x => b.toNat + 256 * x) 0)
          { s with dbg := { s.dbg with buf := s.dbg.buf.drop 4 } })) ∧
    (s.takesWrite a →
      (n < 32 → ∃ x : Word, (∀ i, i < 32 → x.getLsbD i =
          if i < 24 then v.getLsbD i else decide (30 ≤ i) && (if v.extractLsb' 30 2 = 3 then (s.dialAt n).sel.getLsbD i else v.getLsbD i)) ∧
        exec (.dialSel n v a) s = .next (s.modDial n (fun _ => { sel := x })).okay) ∧
      (g < 64 → ∃ t, exec (.rmtGstatEsc g a) s = .next t ∧ { t with grp := [] } = { s.okay with grp := [] } ∧
        (∀ h, h ≠ g → t.grpAt h = s.grpAt h) ∧ t.grpAt g =
          if s.gf.safe = false ∧ (s.grpAt g).esc = true then { s.grpAt g with esc := false, consec := 0 } else s.grpAt g))

/-- Injection and the reactions of the severities (R315-R318, R321, R322, R326, R337): a forced source at INFO or WARN is
recorded with ARG all ones; DEGRADE is latched; FENCE cuts an engine, its contexts wait for restoration and the spare, tested or
still in TEST, starts to take its position; SAFE reacts as R322 says, driving code 0b11 with the committed values unchanged (log
entry 36), and so do a parity error, CHKF and an integrity error. A quench window closes at its tail. -/
def Obligations.SourcesReact : Prop :=
  ∀ (w n : Nat) (v : Word) (a : HAcc) (u : ParUnit) (s : State),
    let sev := (s.fwAt w).sevOf n
    let open' := s.lcs.st = .blank ∨ s.lcs.st = .develop ∨ s.lcs.st = .returned
    (w < 88 → n < (srcsOf w).length → s.takesWrite a → open' → s.hasWindow w = true → (w < 72 → (s.engAt w).st ≠ .off) →
      (s.fwAt w).en.getLsbD n = true → s.quench = [] → ∃ t, exec (.fwForce w (1#32 <<< n) a) s = .next t ∧
        (sev ≤ 1 → Reports s t w n (some 0xFFFFFF) 0 ∧ { t with fw := [] } = { s.okay with fw := [] }) ∧
        (sev = 2 → t.gf = { s.gf with degraded := true }) ∧
        (sev = 4 → s.gf.safe = false → SafeReaction s.okay t w n false) ∧
        (sev = 3 → s.gf.safe = false → w < 72 → (s.engAt w).st ≠ .fenced →
          let x := s.trainAt (w / 9)
          x.rot = none → x.sub = none → x.more = [] → x.spare ≠ some (w % 9) →
          (t.engAt w).st = .fenced ∧ (t.engAt w).run = .parked ∧ (t.engAt w).sbuf = [] ∧ t.quench.any (·.target == .engine w) = true ∧
          (∀ i, i < 16 → (t.ctxAt (ctxId w i)).st = if (s.ctxAt (ctxId w i)).st = .unused then .unused else .restoring) ∧
          (∀ p d, s.posOfEng (w / 9) (w % 9) = some p → x.spare = some d → d < 9 →
            let y := (s.engAt (9 * (w / 9) + d)).st
            (y = .spare ∨ y = .test) → (t.engAt (9 * (w / 9) + d)).st = .recover ∧ (t.trainAt (w / 9)).spare = none ∧
              (t.trainAt (w / 9)).sub =
                some { pos := p, src := w % 9, dst := d, begunAt := s.now, was := y, role := some d }))) ∧
    (s.hasWindow w = true → s.gf.safe = false → ∃ t, exec (.configIntegError w) s = .next t ∧ SafeReaction s t w 0 true ∧
      (t.fwAt w).chk = true ∧ ∀ j, j ≠ w → t.fwAt j = s.fwAt j) ∧
    (s.hasWindow w = true → s.gf.safe = true →
      exec (.configIntegError w) s = .next (s.modFw w (fun f => { f with chk := true }))) ∧
    (s.takesWrite a →
      let s1 := { s with gf := { s.gf with qtail := v.extractLsb' 16 16, chkw := v.extractLsb' 0 8 } }
      let c := (v.extractLsb' 0 8).toNat
      (v.getLsbD 8 = false → exec (.chkf v a) s = .next s1.okay) ∧
      (v.getLsbD 8 = true → c < 88 → s.hasWindow c = true → open' → s.gf.safe = false →
        ∃ t, exec (.chkf v a) s = .next t ∧ SafeReaction s1.okay t c 0 true ∧ (t.fwAt c).chk = true)) ∧
    (let p : Nat × Nat := match u with
        | .escapement => (80, 2) | .remontoire => (81, 4) | .route => (82, 5) | .regulator => (84, 1)
     (s.fwAt p.1).en.getLsbD p.2 = true → (s.fwAt p.1).sevOf p.2 = 4 → s.gf.safe = false →
      ∃ t, exec (.parityError u) s = .next t ∧ SafeReaction s t p.1 p.2 false) ∧
    (∀ q x, s.quench[n]? = some q → q.closeAt = some x →
      exec (.quenchClose n) s = .next (if x ≤ s.now then { s with quench := s.quench.eraseIdx n } else s))

/-! ### The tourbillon, rails, sweep and streamer (spec 12 R334-R340, 15 R384-R386, 11 R295-R306) -/

/-- SUBSTITUTION_HANDOVER (R337, R338, R324, R429): the incoming engine holds the position's code and serves the map's position;
every context of the fenced engine moves to its slot there, rebuilt from its published state or its initial registers; the
quench tail begins. The copy must be the one of its DIGEST while two images are in the block (13 R346, log entry 60). An
uncorrectable master copy leaves the position unserved and the engine as the spare, with RESTORE_FAIL, and MEM_UE just before it
for a word that the test port has read, not for one of a fenced bank (11 R300, R301, as log entry 50 takes them). Self-tests end
in SPARE, with the same reports where the copy of the next position fails, in the lowest-numbered unserved position after a
retest, or FENCED, and RETEST and STANDBY_TEST put an engine back to TEST (R336, R340, R430). -/
def Obligations.SubstitutionsAndTests : Prop :=
  ∀ (tr k : Nat) (u : Subst) (v : Word) (a : HAcc) (s : State), s.hasTrain tr = true → s.gf.safe = false →
    (s.fwAt (72 + tr)).sevOf 1 ≤ 1 → (s.fwAt (72 + tr)).sevOf 13 ≤ 1 →
    (∀ p m, s.machOf tr p = some m → m.master + m.mlen ≤ 0x200000) →
    let x := s.trainAt tr
    (x.sub = some u → x.more = [] → u.begunAt ≠ s.now → u.partLoaded = false → u.src < 9 → u.dst < 9 → u.src ≠ u.dst →
      let j := 9 * tr + u.src
      let d := 9 * tr + u.dst
      let copy := s.machOf tr u.pos
      ((∀ m, copy = some m → s.copyBad tr m = false ∧ s.digestBad tr m = false) →
        (∀ q ∈ x.unserved, q ≠ u.pos → x.map.get (fun i => i) q ≠ u.dst) → ∃ t, exec (.substitutionHandover tr) s = .next t ∧
        (t.engAt d).st = .service ∧ (∀ m, copy = some m → (t.engAt d).spillRgn = m.spillRgn ∧ (t.engAt d).mvbase = m.mvbase ∧
          (t.engAt d).mhb = m.mhb) ∧
        t.trainAt tr = { x with
          map := x.map.set (fun i => i) u.pos u.dst, unserved := x.unserved.filter (· ≠ u.pos), sub := none, subcnt := x.subcnt + 1 } ∧
        (∀ i e, i < 16 → let old := s.ctxAt (ctxId j i)
          old.st ≠ .unused → s.ctxEntry old.gen old.lctx = some e → e.pos = u.pos → (s.ctxAt (ctxId d i)).st ≠ .restoring →
          let new := t.ctxAt (ctxId d i)
          (t.ctxAt (ctxId j i)).st = .unused ∧ new.gen = old.gen ∧ new.lctx = old.lctx ∧ (new.st = .idle ∨ new.st = .restoring) ∧
          ((s.img old.gen).block old.lctx = none → new.st = .idle ∧ new.docc = e.pdepth ∧ new.builds = old.builds + 1 ∧
            new.pc = if e.db then e.entry else e.restart)) ∧
        (∀ id, (∀ i, i < 16 → id ≠ ctxId j i ∧ id ≠ ctxId d i) → t.ctxAt id = s.ctxAt id) ∧ (∀ i, i ≠ d → t.engAt i = s.engAt i) ∧
        t.quench = s.quench.map (fun q => if q.target = .engine j ∧ q.closeAt = none then
          { q with closeAt := some (s.now + 8 * s.gf.qtail.toNat) } else q)) ∧
      (∀ m, copy = some m → s.copyBad tr m = true → ∃ t, exec (.substitutionHandover tr) s = .next t ∧
        (t.engAt d).st = .spare ∧ (t.trainAt tr).sub = none ∧ (t.trainAt tr).spare = some u.dst ∧ u.pos ∈ (t.trainAt tr).unserved ∧
        CopyFails s t tr m)) ∧
    (s.hasEngine k = true → k / 9 = tr → x.rot = none → x.sub = none → x.more = [] →
      let e := s.engAt k
      let stored (t : State) : Prop := Memory.wf s.mem = true → ∀ y, (y < lsKey k 0 ∨ lsKey k 0 + 0x10000 ≤ y) → t.byteAt y = s.byteAt y
      (e.st = .test → e.run = .mach none → x.spare = some (k % 9) →
        ((∀ p m, s.nextPos tr (k % 9) = some p → s.machOf tr p = some m → s.digestBad tr m = false) →
          ∃ t, exec (.testComplete k .pass) s = .next t ∧ (t.engAt k).st = .spare ∧ (t.engAt k).run = .parked ∧
          t.trainAt tr = x ∧ t.ctx = s.ctx ∧ (∀ i, i ≠ k → t.engAt i = s.engAt i) ∧
          ∀ p m, s.nextPos tr (k % 9) = some p → s.machOf tr p = some m → s.copyBad tr m = true → CopyFails s t tr m) ∧
        ((s.fwAt k).en.getLsbD 11 = true → (s.fwAt k).sevOf 11 = 3 → s.quench = [] →
          ∃ t, exec (.testComplete k .mismatch) s = .next t ∧ (t.engAt k).st = .fenced ∧ (t.engAt k).retestable = false ∧
            (t.trainAt tr).spare = none)) ∧
      (∀ p, e.st = .test → e.run = .mach none → e.retest = true → x.spare ≠ some (k % 9) → p ∈ x.unserved → p < 8 →
        (∀ q ∈ x.unserved, q < 8 → p ≤ q) →
        (∀ q m, s.nextPos tr (k % 9) = some q → s.machOf tr q = some m → s.digestBad tr m = false) →
        let src := x.map.get (fun i => i) p
        ∃ t, exec (.testComplete k .pass) s = .next t ∧ (t.engAt k).st = .recover ∧ (t.engAt k).run = .parked ∧
          t.trainAt tr = { x with
            spare := if x.spare = some src then none else x.spare
            sub := some { pos := p, src := src, dst := k % 9, begunAt := s.now, was := .spare, role := x.spare } } ∧
          t.ctx = s.ctx ∧ ∀ i, i ≠ k → t.engAt i = s.engAt i) ∧
      (∀ i, s.takesWrite a → i = k % 9 → e.st = .fenced → e.retestable = true → s.rmt.startedSecured = false →
        (x.spare = none ∨ x.unserved ≠ []) → v = 1#32 <<< i →
        ∃ t, exec (.retest tr v a) s = .next t ∧ (t.engAt k).st = .test ∧ (t.engAt k).run = .mach none ∧
          (t.engAt k).retest = true ∧ (∀ i, i ≠ k → t.engAt i = s.engAt i) ∧ stored t ∧
          { t with eng := [], quench := [], mem := [], ue := [], ce := [], freeCtr := 0 } =
            { s.okay with eng := [], quench := [], mem := [], ue := [], ce := [], freeCtr := 0 }) ∧
      (e.standby = true → e.st = .spare → (x.spare = none ∨ x.unserved ≠ []) →
        (∀ i, i < k % 9 → (s.engAt (9 * tr + i)).standby = false) →
        ∃ t, exec (.standbyTest k) s = .next t ∧ (t.engAt k).st = .test ∧ (t.engAt k).run = .mach none ∧
          (t.engAt k).retest = true ∧ (t.engAt k).standby = false ∧ (∀ i, i ≠ k → t.engAt i = s.engAt i) ∧ stored t ∧
          { t with eng := [], mem := [], ue := [], ce := [], freeCtr := 0 } =
            { s with eng := [], mem := [], ue := [], ce := [], freeCtr := 0 }))

/-- A rotation step (R334, R335, R429): at the step tick the spare enters RECOVER with a cleared bore; the master copy fills its
local store, zeroes beyond, or its failure cancels the step with the reports of R429 (the order of MEM_UE and RESTORE_FAIL is
log entry 50); each context migrates with its carried state to its slot there, its activation going on (log entry 61), while a
context that a failed restore has left RESTORING stays at its place (log entry 60), and with the last one the map takes the
engine, the outgoing one enters TEST as the spare and ROTCNT advances; RT / 2 after the step tick it is late. -/
def Obligations.RotationSteps : Prop :=
  ∀ (tr : Nat) (r : Rot) (s : State), s.hasTrain tr = true → s.gf.safe = false → (s.fwAt (72 + tr)).sevOf 1 ≤ 1 → (s.fwAt (72 + tr)).sevOf 13 ≤ 1 →
    (∀ p m, s.machOf tr p = some m → m.master + m.mlen ≤ 0x200000) →
    let x := s.trainAt tr
    let j := 9 * tr + r.src
    let d := 9 * tr + r.dst
    let others (t : State) : Prop := ∀ i, i ≠ d → t.engAt i = s.engAt i
    (s.rotTick tr = true → s.rotDeferred tr = false → s.anyRunning = true → x.spare = some r.dst → (s.engAt d).st = .spare →
      s.outgoing tr r.dst = some (r.src, r.pos) → r.dst < 9 →
      ∃ t, exec (.rotationStep tr) s = .next t ∧ (t.engAt d).st = .recover ∧
        (∀ i, i < 16 → (t.ctxAt (ctxId d i)).st = if (s.ctxAt (ctxId d i)).st = .restoring then .restoring else .unused) ∧
        t.trainAt tr = { x with rot := some { pos := r.pos, src := r.src, dst := r.dst, stepAt := s.now } } ∧ others t ∧
        ∀ id, (∀ i, i < 16 → id ≠ ctxId d i) → t.ctxAt id = s.ctxAt id) ∧
    (∀ m, x.rot = some r → r.loaded = false → r.dst < 9 → s.machOf tr r.pos = some m → s.emptied j = false → Memory.wf s.mem = true →
      (s.copyBad tr m = false → s.digestBad tr m = false → ∃ t, exec (.masterCopyLoad tr) s = .next t ∧ (t.trainAt tr).rot = some { r with loaded := true } ∧
        (∀ i, i < 0x10000 → t.byteAt (lsKey d i) = if i < m.mlen then s.byteAt (tmKey tr (m.master + i)) else 0) ∧
        (t.engAt d).spillRgn = m.spillRgn ∧ (t.engAt d).mvbase = m.mvbase ∧ others t ∧ t.ctx = s.ctx) ∧
      (s.copyBad tr m = true → ∃ t, exec (.masterCopyLoad tr) s = .next t ∧ (t.trainAt tr).rot = none ∧ (t.engAt d).st = .spare ∧
        t.mem = s.mem ∧ CopyFails s t tr m ∧ others t)) ∧
    (∀ gen lctx i e, x.rot = some r → r.loaded = true → r.src < 9 → r.dst < 9 → r.src ≠ r.dst → i < 16 →
      s.locate gen lctx = some (ctxId j i) → s.ctxEntry gen lctx = some e → s.migrates r gen lctx (s.ctxAt (ctxId j i)) = true →
      s.lowerDue r j lctx = false → e.pos = r.pos → r.third = [] →
      (∀ n, n < 16 → (s.ctxAt (ctxId j n)).st ≠ .restoring ∧ (s.ctxAt (ctxId d n)).st ≠ .restoring) →
      let old := s.ctxAt (ctxId j i)
      let last := ∀ n, n < 16 → n ≠ i → (s.ctxAt (ctxId j n)).st = .unused
      ∃ t, exec (.migration tr gen lctx) s = .next t ∧ (t.engAt d).st = .service ∧
        (let new := t.ctxAt (ctxId d i)
         (t.ctxAt (ctxId j i)).st = .unused ∧ new.gen = gen ∧ new.lctx = lctx ∧ new.builds = old.builds + 1 ∧
         (new.st = .idle ∨ new.st = .restoring) ∧ (new.st = .idle → new.act = old.act) ∧
         ((s.img gen).block lctx = none → new.st = .idle ∧ new.docc = e.pdepth)) ∧
        (∀ id, id ≠ ctxId j i → id ≠ ctxId d i → t.ctxAt id = s.ctxAt id) ∧
        (¬ last → (t.trainAt tr).rot = some { r with moved := true }) ∧
        (last → x.unserved = [] → (t.engAt j).st = .test ∧ t.trainAt tr = { x with
          map := x.map.set (fun i => i) r.pos r.dst, rot := none, rotcnt := x.rotcnt + 1, spare := some r.src, rotStop := false })) ∧
    (x.rot = some r → r.late = false → r.stepAt + s.gf.rotMs.toNat * 400000 / 2 ≤ s.now →
      ∃ t, exec (.rotLate tr) s = .next t ∧ t.trainAt tr = { x with rot := some { r with late := true } } ∧
        Reports s t (72 + tr) 14 none 0 ∧
        { t with train := [], fw := [], freeCtr := 0 } = { s with train := [], fw := [], freeCtr := 0 })

/-- PACE_WINDOW (15 R385, R386, 12 R316): MEAS, MIN and the rail's step of 5 mV towards the pace target within 600 to 880 mV,
held either way where a DEGRADE action or a train fence holds it; below the guard PACE is reported, which at DEGRADE takes the
rail to 880 mV and holds it, and with the rail there RAIL_LIMIT is reported and holds it; gauges apart in 16 windows running
fence the train at severity FENCE. VBLK_LOW shows the measured supply and reports below 1.70 V; a rail out of range is SAFE,
with its train as the detail (log entry 70); the retention rail reports outside ACTIVE (log entry 42, as the 1.70 V bound); a
lost reference clock drives every outlet to 0b11 (16 R401). -/
def Obligations.RailsAndClock : Prop :=
  ∀ (tr n n2 mv : Nat) (s : State),
    let p := (s.trainAt tr).pace
    let f := s.fwAt (72 + tr)
    let g := s.fwAt 83
    let meas := n * 25 / 32
    let floor := s.paceFloor
    let slow := meas * 1000 < floor * (1000 + s.power.guard.toNat)
    let target := floor * (1000 + s.power.guard.toNat + s.power.band.toNat)
    let run := if Max.max n n2 < (Max.max n n2 - Min.min n n2) * 50 then Min.min (p.gaugeRun + 1) 17 else 0
    let fenced := s.fences.contains (.train tr)
    let rail := if s.power.ready = true ∧ fenced = true then p.rail else if p.move then 880
      else if p.holdPace = true ∨ p.holdRail = true then p.rail
      else if meas * 1000 < target ∧ p.rail < 880 then p.rail + 5
      else if target * 102 < meas * 100000 ∧ 600 < p.rail then p.rail - 5 else p.rail
    let mild := slow → f.sevOf 9 ≤ 1 ∨ f.en.getLsbD 9 = false
    let limited := slow ∧ p.rail = 880 ∧ g.en.getLsbD 1 = true
    let failed := run = 16 ∧ f.en.getLsbD 10 = true
    let window (q : State → Prop) : Prop := ∃ t, exec (.paceWindow tr n n2) s = .next t ∧ q t
    (s.hasTrain tr = true → s.power.gauges = true →
      (mild → ¬ limited → ¬ failed → window (fun t =>
        (t.trainAt tr).pace = { p with
          meas := meas, min := Min.min p.min meas, move := false, gaugeRun := run, rail := rail, mv := BitVec.ofNat 10 rail } ∧
        { t.trainAt tr with pace := {} } = { s.trainAt tr with pace := {} } ∧ (∀ j, j ≠ tr → t.trainAt j = s.trainAt j) ∧
        (¬ slow → t.fw = s.fw) ∧ (slow → Reports s t (72 + tr) 9 none 0) ∧
        { t with train := [], fw := [], freeCtr := 0 } = { s with train := [], fw := [], freeCtr := 0 })) ∧
      (slow → s.quench = [] → fenced = false →
        (f.en.getLsbD 9 = true → f.sevOf 9 = 2 → ¬ limited → ¬ failed → window (fun t => Reports s t (72 + tr) 9 none 0 ∧
          t.gf = { s.gf with degraded := true } ∧ (t.trainAt tr).pace.holdPace = true ∧ (t.trainAt tr).pace.rail = 880)) ∧
        (mild → limited → g.sevOf 1 = 2 → ¬ failed → window (fun t => (t.fwAt 83).stat.getLsbD 1 = true ∧
          t.gf = { s.gf with degraded := true } ∧ (t.trainAt tr).pace.holdRail = true ∧ (t.trainAt tr).pace.rail = 880))) ∧
      (¬ slow → failed → f.sevOf 10 = 3 → s.quench = [] → window (fun t =>
        (t.fwAt (72 + tr)).stat.getLsbD 10 = true ∧ t.fences.contains (.train tr) = true))) ∧
    (s.hasTrain tr = true → s.power.gauges = false → exec (.paceWindow tr n n2) s = .next s) ∧
    (let s1 := { s with power := { s.power with vblk := BitVec.ofNat 12 mv } }
     (1700 ≤ mv → exec (.vblkLow mv) s = .next s1) ∧
     (mv < 1700 → ∃ t, exec (.vblkLow mv) s = .next t ∧ t.power = s1.power ∧
       (g.sevOf 0 ≤ 1 → Reports s t 83 0 none 0 ∧ { t with fw := [], freeCtr := 0 } = { s1 with fw := [], freeCtr := 0 }))) ∧
    (s.hasTrain tr = true →
      ((600 ≤ mv → mv ≤ 880 → exec (.railOor tr mv) s = .next s) ∧ (g.en.getLsbD 2 = false → exec (.railOor tr mv) s = .next s)) ∧
      ((mv < 600 ∨ 880 < mv) → g.en.getLsbD 2 = true → g.sevOf 2 = 4 → ∃ t, exec (.railOor tr mv) s = .next t ∧
        (s.gf.safe = false → SafeReaction s t 83 2 false) ∧
        (s.gf.safe = true → Reports s t 83 2 (some tr) 0 ∧ { t with fw := [] } = { s with fw := [] }))) ∧
    ((s.power.retSt = .active → exec .retOor s = .next s) ∧
      (s.power.retSt ≠ .active → ∃ t, exec .retOor s = .next t ∧ t.power = s.power ∧
        (g.sevOf 3 ≤ 1 → Reports s t 83 3 none 0 ∧ { t with fw := [], freeCtr := 0 } = { s with fw := [], freeCtr := 0 }))) ∧
    ∃ t, exec .refclkLoss s = .next t ∧ t.pins.safeN = false ∧ (∀ o, o < 320 → (t.outAt o).cmd = 0b11) ∧
      ((s.fwAt 80).en.getLsbD 1 = true → (s.fwAt 80).sevOf 1 = 4 → t.gf.safe = true)

/-- SWEEP_LINE (R295-R299): a line that the sweep may test and has not done in its pass is tested, any other is left alone. With
a sound save read a pass marks the line done and leaves memory, and the last line of train memory and sealed region ends the
pass, PASS counting and SKIPS taking the lines skipped in it; a pattern mismatch also shows FAIL with the line's address and
raises SWEEP_FAIL, with FW_ADDR the line's byte offset (log entry 29), or LS_SWEEP_FAIL, which at severity FENCE fence the bank
or the engine of the local store, that one barred from RETEST (12 R340); an abort counts until the fourth skips the line. An
uncorrectable word shows UE and reports MEM_UE. ECC_CHK: a failed decoder check shows ECCCHK and fences the bank or the engine
of the local store (R289, R300). -/
def Obligations.SweepFindings : Prop :=
  ∀ (tr line bank : Nat) (area : BitVec 5) (r : SweepResult) (s : State), s.hasTrain tr = true → line < areaLines area.toNat →
    let key := lineKey tr area.toNat line
    let x := (s.trainAt tr).swp
    let f := s.fwAt (72 + tr)
    let count := x.aborts.get (fun _ => 0) key
    let addr : Word := BitVec.ofNat 32 (area.toNat * 2 ^ 27 + line % 65536 * 32)
    let swp (t : State) : Sweep := (t.trainAt tr).swp
    let k := 9 * tr + (area.toNat - 0x10)
    let fenced (t : State) : Prop := (s.engAt k).st ≠ .fenced → (s.trainAt tr).rot = none →
      (t.engAt k).st = .fenced ∧ (t.engAt k).retestable = false
    let done (skipRun : Nat) (y : Sweep) : Prop :=
      (area.toNat < 2 →
        (x.linesDone + 1 ≠ 66560 → y.aborts.get (fun _ => 0) key = 5 ∧ y.linesDone = x.linesDone + 1 ∧ y.pass = x.pass ∧
          y.skips = x.skips ∧ y.skipRun = skipRun) ∧
        (x.linesDone + 1 = 66560 → y.aborts.get (fun _ => 0) key = 0 ∧ y.linesDone = 0 ∧ y.pass = x.pass + 1 ∧
          y.skips = Min.min skipRun 255 ∧ y.skipRun = 0)) ∧
      (2 ≤ area.toNat → x.aborts.all (fun p => p.2 != 5) = true → y.aborts.get (fun _ => 0) key = 5)
    ((s.sweeps tr area.toNat key = false ∨ count = 5) → exec (.sweepLine tr area line r) s = .next s) ∧
    (s.sweeps tr area.toNat key = true → count ≠ 5 →
      ((∀ i, i < 4 → s.isUE (key + 8 * i) = false ∧ s.ce.contains (key + 8 * i) = false) →
        ∃ t, exec (.sweepLine tr area line r) s = .next t ∧ t.mem = s.mem ∧ t.ue = s.ue ∧
          (r = .pass → done x.skipRun (swp t) ∧ (swp t).addr = x.addr ∧ (swp t).fail = x.fail ∧
            (∀ j, j ≠ tr → t.trainAt j = s.trainAt j) ∧ { t with train := [] } = { s with train := [] }) ∧
          (r = .mismatch → done x.skipRun (swp t) ∧ (swp t).fail = true ∧ (swp t).addr = addr ∧
            (area.toNat < 2 →
              (f.en.getLsbD 2 = false → { t with train := [] } = { s with train := [] }) ∧
              (f.en.getLsbD 2 = true → s.quench = [] →
                (f.sevOf 2 = 2 → t.gf = { s.gf with degraded := true } ∧ Reports s t (72 + tr) 2 none (BitVec.ofNat 32 (32 * line))) ∧
                (f.sevOf 2 = 3 → (t.fwAt (72 + tr)).stat.getLsbD 2 = true ∧
                  t.fences.contains (.bank tr (if area.toNat = 1 then 16 else line % 16)) = true))) ∧
            (2 ≤ area.toNat → (s.fwAt k).en.getLsbD 13 = true → s.quench = [] →
              (t.fwAt k).stat.getLsbD 13 = true ∧ ((s.fwAt k).sevOf 13 = 3 → fenced t))) ∧
          (r = .aborted → count + 1 < 4 → (swp t).aborts.get (fun _ => 0) key = count + 1 ∧
            { t with train := [] } = { s with train := [] }) ∧
          (r = .aborted → 4 ≤ count + 1 →
            done (if area.toNat < 2 then x.skipRun + 1 else x.skipRun) (swp t) ∧ Reports s t (72 + tr) 3 none 0)) ∧
      (s.isUE key = true → f.sevOf 1 ≤ 1 → ∃ t, exec (.sweepLine tr area line r) s = .next t ∧
        (swp t).ue = true ∧ (swp t).addr = addr ∧ t.mem = s.mem ∧ (t.fwAt (72 + tr)).cnt =
          if f.en.getLsbD 1 = true then Min.min (f.cnt + 1) 0xFFFF else f.cnt)) ∧
    (bank < 16 →
      let first := if area.toNat = 0 then tmKey tr (32 * bank) else lineKey tr area.toNat 0
      exec (.eccChk tr area bank true) s = .next s ∧
      (s.sweeps tr area.toNat first = false → exec (.eccChk tr area bank false) s = .next s) ∧
      (s.sweeps tr area.toNat first = true → ∃ t, exec (.eccChk tr area bank false) s = .next t ∧
        (swp t).eccchk = true ∧ t.mem = s.mem ∧
        (s.quench = [] →
          (area.toNat < 2 → f.en.getLsbD 4 = true → f.sevOf 4 = 3 →
            t.fences.contains (.bank tr (if area.toNat = 1 then 16 else bank)) = true) ∧
          (2 ≤ area.toNat → (s.fwAt k).en.getLsbD 14 = true → (s.fwAt k).sevOf 14 = 3 → fenced t))))

/-- The streamer (R304-R306): a host request within the limits joins the FIFO, any other is rejected and reported; reports carry
the queue number (log entry 70); a chunk enters the ring at WR, then WR moves, and with the last one LASTTAG and DONECNT; an
error drops the request and shows BERR; inconsistent pointers stop the queue with PTR; a write of STR_QSTOP sets RD to WR and
restarts it. -/
def Obligations.StreamerServesQueues : Prop :=
  ∀ (tr q : Nat) (e : QueueE) (r : StrReq) (v : Word) (a : HAcc) (bytes : List Byte) (s : State), s.hasTrain tr = true → q < 16 →
    s.queueOf tr q = some e → s.ue = [] → s.ce = [] → s.fences = [] →
    let x := (s.trainAt tr).str
    let h := tmKey tr e.base
    let wr := (s.rd32 h).toNat
    let rd := (s.rd32 (h + 8)).toNat
    let used := (wr + 2 ^ 32 - rd) % 2 ^ 32
    let str (t : State) : Streamer := (t.trainAt tr).str
    (s.takesWrite a → v.toNat % 16 = q →
      let len := v.toNat / 2 ^ 16 * 32
      let src := x.srcHost.toNat
      let fits := x.fifo.length < 16 ∧ s.gf.safe = false ∧ x.stop.getLsbD q = false ∧ 0 < len ∧ 0x40000000 ≤ src ∧
        src + len ≤ 0x80000000 ∧ ¬(s.link.en = true ∧ s.link.rxTrain.toNat = tr ∧ s.link.rxq.toNat = q) ∧ len ≤ e.maxreq
      (fits → ∃ t, exec (.strCmd tr v a) s = .next t ∧
        str t = { x with fifo := x.fifo ++ [{ q := q, src := src, left := len, tag := v.extractLsb' 8 8 }] } ∧
        { t with train := [] } = { s.okay with train := [] }) ∧
      (¬ fits → ∃ t, exec (.strCmd tr v a) s = .next t ∧ str t = { x with reject := true } ∧ Reports s t (72 + tr) 5 (some q) 0)) ∧
    (x.oldest q = some r → s.power.ready = true → s.strNext tr q = true → s.dbg.frzStr = false → 0 < e.size →
      (used ≤ e.size → bytes.length = Min.min (Min.min r.left (e.size - used)) (Min.min (e.size - wr % e.size) 4096) →
        Min.min r.left 256 ≤ e.size - used →
        ∃ t, exec (.streamerChunk tr q (.data bytes)) s = .next t ∧
          (t.rd32 h).toNat = (wr + bytes.length) % 2 ^ 32 ∧
          (∀ i b, bytes[i]? = some b → t.byteAt (h + 32 + wr % e.size + i) = b) ∧
          (∀ y, (y < h ∨ h + 8 ≤ y) → (y < h + 32 + wr % e.size ∨ h + 32 + wr % e.size + bytes.length ≤ y) → t.byteAt y = s.byteAt y) ∧
          (r.left = bytes.length → (t.rd32 (h + 4)).toNat = r.tag.toNat ∧ (str t).doneCnt = x.doneCnt + 1 ∧ (str t).fifo = x.fifo.erase r) ∧
          (r.left ≠ bytes.length → (str t).doneCnt = x.doneCnt ∧ t.rd32 (h + 4) = s.rd32 (h + 4))) ∧
      (used ≤ e.size → Min.min r.left 256 ≤ e.size - used → (s.fwAt (72 + tr)).sevOf 6 ≤ 1 →
        let n := Min.min (Min.min r.left (e.size - used)) (Min.min (e.size - wr % e.size) 4096)
        ∃ t, exec (.streamerChunk tr q .error) s = .next t ∧
          str t = { x with fifo := x.fifo.erase r, berr := true, rr := q, bus := s.chunkAddr tr q r.src n } ∧ t.mem = s.mem ∧ Reports s t (72 + tr) 6 (some q) 0) ∧
      (e.size < used → (s.fwAt (72 + tr)).sevOf 7 ≤ 1 → ∃ t, exec (.streamerChunk tr q (.data bytes)) s = .next t ∧
        (str t).ptr = true ∧ (str t).stop.getLsbD q = true ∧ (∀ y ∈ (str t).fifo, y.q ≠ q) ∧ t.mem = s.mem ∧
        Reports s t (72 + tr) 7 (some q) 0)) ∧
    (s.takesWrite a → v = 1#32 <<< q → x.stop.getLsbD q = true → ∃ t, exec (.strQstop tr v a) s = .next t ∧
      (str t).stop = x.stop &&& ~~~(1#16 <<< q) ∧ t.rd32 (h + 8) = s.rd32 h ∧ (∀ y, (y < h + 8 ∨ h + 12 ≤ y) → t.byteAt y = s.byteAt y) ∧
      { t with train := [], mem := [] } = { s.okay with train := [], mem := [] })

/-! ### Reset, retention, life cycle (spec 15 R384-R398, 11 R308) -/

/-- BLOCK_RESET and POWER_ON_RESET_HOLD (R384, R389) take READY away, drive `sx_safe_n` low and, with an image RUNNING, every
outlet to its safe value; RESET_RELEASE and POWER_ON let the phases run: arrays and contexts zero, then every register at its
reset value with the host's time, then READY with `sx_safe_n` high. Each phase takes one tick here but the second, in which the
gauges run their 16 windows, 1,024 ticks (log entry 9, the model's choice); below 1.55 V the reset holds whether or not
`rst_blk_n` is released (R384), and SAFE raised on the way keeps `sx_safe_n` low and code 0b11 (16 R401). Retention (R388, R390,
R397, 11 R311, R312): entry needs no image RUNNING, an idle regulator and READY, and turns every engine OFF, else RETERR, also
during a wake and before READY (log entry 42); RETAINED empties sample windows, caches and loop buffers and leaves the engine
rails off, BLW_RAIL reading 0 (log entry 42); a wake goes through WAKING, which returns them to 0.80 V and zeroes the sealed
regions after a tamper. -/
def Obligations.ResetAndRetention : Prop :=
  (∀ (s : State) (mv : Nat) (time : Word64), s.lcs.busy = none →
    let asserted (held : Bool) (t : State) : Prop :=
      t.power.ready = false ∧ t.power.phase = 1 ∧ t.power.held = held ∧ t.power.waitRelease = true ∧ t.power.resetAt = s.now ∧
      t.pins.safeN = false ∧
      (∀ o, t.outAt o = if s.anyRunning = true ∧ o ∈ s.liveOutlets.map (·.1) then { s.outAt o with cmd := 0b11 } else s.outAt o) ∧
      { t with gf := {}, eng := [], outlet := [], pins := {}, power := {} } =
        { s with gf := {}, eng := [], outlet := [], pins := {}, power := {} }
    (∃ t, exec .blockReset s = .next t ∧ asserted true t) ∧
    (mv < 1550 → s.power.low = false → ∃ t, exec (.powerOnResetHold mv) s = .next t ∧ asserted s.power.held t ∧ t.power.low = true ∧
      t.power.vblk = BitVec.ofNat 12 mv) ∧
    (mv < 1550 → s.power.low = true →
      exec (.powerOnResetHold mv) s = .next { s with power := { s.power with vblk := BitVec.ofNat 12 mv } }) ∧
    (1550 ≤ mv → exec (.powerOnResetHold mv) s = .next s ∧ ∃ t, exec (.powerOn mv) s = .next t ∧ t.power.ready = false ∧
      t.power.phase = 1 ∧ t.power.waitRelease = true ∧ t.power.low = false ∧ t.power.held = s.power.held ∧
      t.power.vblk = BitVec.ofNat 12 mv ∧ t.outlet = [] ∧ t.pins.safeN = false ∧
      t.lcs.st.code = Max.max s.lcs.st.code (match s.lcs.part with | some x => x.code | none => 0)) ∧
    (s.power.ready = false →
      exec (.resetRelease time) s = .next { s with power := { s.power with held := false, pendTime := time } } ∧
      (s.pending = [] → s.upg.compl = false →
        let now := (s.time + 1).toNat
        (s.power.waitRelease = true →
          (s.power.held = false ∧ s.power.low = false ∧ s.power.resetAt + 24 ≤ now →
            ∃ t, step s = .next t ∧ t.power = { s.power with waitRelease := false }) ∧
          ((s.power.held = true ∨ s.power.low = true) → ∃ t, step s = .next t ∧ t.power = s.power)) ∧
        (s.power.waitRelease = false →
          (s.power.phase = 1 → ∃ t, step s = .next t ∧ t.power = { s.power with phase := 2, phaseAt := now } ∧
            ∀ r, s.hasTrain r = true → (t.trainAt r).pace = {}) ∧
          (s.power.phase = 2 → now < s.power.phaseAt + 1024 → ∃ t, step s = .next t ∧ t.power = s.power) ∧
          (s.power.phase = 2 → s.power.phaseAt + 1024 ≤ now → ∃ t, step s = .next t ∧
            t.power = { s.power with phase := 3, phaseAt := now } ∧
            t.mem = [] ∧ t.ue = [] ∧ t.ce = [] ∧ t.ctx = [] ∧ t.eng = []) ∧
          (s.power.phase = 3 → ∃ t, step s = .next t ∧ t.time = s.time + 1 ∧ t.power.phase = 4 ∧ t.power.ready = false ∧
            t.lcs.st = s.lcs.st ∧ t.lcs.tamper = s.lcs.tamper ∧
            (Tab.wf (fun _ => {}) s.outlet = true → ∀ o, t.outAt o = { cmd := if (s.outAt o).cmd = 0b11 then 0b11 else 0 }) ∧
            (∀ r, s.hasTrain r = true → t.trainAt r = { pace := { rail := (s.trainAt r).pace.rail } }) ∧
            { State.reset with
              variant := t.variant, freeCtr := t.freeCtr, time := t.time, mem := t.mem, ue := t.ue, ce := t.ce, train := t.train
              outlet := t.outlet, trip := t.trip, lcs := t.lcs, host := t.host, tap := t.tap, power := t.power, pins := t.pins } = t) ∧
          (s.power.phase = 4 → ∃ t, step s = .next t ∧ t.power.ready = true ∧ t.power.phase = 5 ∧ t.time = s.power.pendTime ∧
            (s.gf.safe = false → t.outlet = [] ∧ t.pins.safeN = true) ∧
            (s.gf.safe = true → t.pins.safeN = false ∧ ∀ o, (s.outAt o).cmd = 0b11 → (t.outAt o).cmd = 0b11)))))) ∧
  (∀ (a : HAcc) (s : State), a.ok = true → (s.lcs.st = .secured → a.prot1 = false) →
    (let ok := s.anyRunning = false ∧ s.rgl.op = .idle ∧ s.power.ready = true ∧ s.power.retSt = .active
     (ok → ∃ t, exec (.retentionEntry a) s = .next t ∧ t.power = { s.power with ret := true, retSt := .entering } ∧
        (∀ k, t.engAt k = if s.hasEngine k then { s.engAt k with
          st := .off, run := .parked, sbuf := [], bload := none, stopReq := none, late := none } else s.engAt k) ∧
        { t with eng := [], power := {} } = { s.okay with eng := [], power := {} }) ∧
     ((s.anyRunning = true ∨ s.rgl.op ≠ .idle ∨ s.power.ready = false ∨ s.power.retSt = .waking) →
        exec (.retentionEntry a) s = .next { s with power := { s.power with retErr := true } }.okay)) ∧
    (s.power.ready = true → s.power.retSt = .retained →
      ∃ t, exec (.retentionWake a) s = .next t ∧ t.power = { s.power with ret := false, retSt := .waking } ∧
        (∀ r, { t.trainAt r with pace := { (t.trainAt r).pace with mv := 0 } } =
          { s.trainAt r with pace := { (s.trainAt r).pace with mv := 0 } }) ∧
        { t with train := [], power := {}, freeCtr := 0 } = { s.okay with train := [], power := {}, freeCtr := 0 }) ∧
    (s.power.ready = true → s.power.retSt = .entering → ∃ t, exec .retained s = .next t ∧ t.win = [] ∧
      t.power = { s.power with retSt := if s.power.ret then .retained else .waking } ∧
      (∀ k, t.engAt k = if s.hasEngine k then { s.engAt k with icache := [], lb := { disabled := (s.engAt k).lb.disabled } }
        else s.engAt k) ∧
      (∀ r, s.hasTrain r = true → (t.trainAt r).pace.rail = 0 ∧ (s.power.ret = true → (t.trainAt r).pace.mv = 0)) ∧
      (∀ r, { t.trainAt r with pace := {} } = { s.trainAt r with pace := {} }) ∧
      { t with eng := [], win := [], power := {}, train := [], freeCtr := 0 } =
        { s with eng := [], win := [], power := {}, train := [], freeCtr := 0 }) ∧
    (s.power.ready = true → s.power.retSt = .waking → ∃ t, exec .wakeComplete s = .next t ∧ t.power = { s.power with retSt := .active } ∧
      (∀ r, s.hasTrain r = true → (t.trainAt r).pace = { (s.trainAt r).pace with rail := 800, mv := 800 } ∧ (t.trainAt r).swp.skips = 0 ∧
        (t.trainAt r).swp.linesDone = 0) ∧
      (Memory.wf s.mem = true → ∀ y, t.byteAt y =
        if s.lcs.sealLost = true ∧ 0x4000000 ≤ y ∧ y < 0x4040000 then 0 else s.byteAt y) ∧
      { t with train := [], power := {}, mem := [], ue := [], ce := [], lcs := {} } =
        { s with train := [], power := {}, mem := [], ue := [], ce := [], lcs := {} }))

/-- The life cycle and tamper (R393-R397, 11 R308): PROG_KEY and the listed transitions start programming under the unlock
code with their conditions, else CMDERR; a return token is checked against the challenge, which every attempt replaces; when
fuses are programmed the digest is fused, or the new state is and a reset begins. A tamper wipes the sealed regions and
enters SAFE. -/
def Obligations.LifecycleCommands : Prop :=
  ∀ (unlock : BitVec 16) (token : List Byte) (time : Word64) (a : HAcc) (s : State),
    let l := s.lcs
    let free := unlock = 0xA5C3 ∧ l.busy = none
    let idle := free ∧ s.anyRunning = false
    let answers (i : Instr) (ok : Prop) (op : LcsOp) (draws : Nat) (s1 : State) : Prop := s.takesWrite a →
      (ok → exec i s = .next { s1 with lcs := { l with busy := some op, draw := l.draw + draws } }.okay) ∧
      (¬ ok → exec i s = .next { s1 with lcs := { l with cmdErr := true, draw := l.draw + draws } }.okay)
    let ends (i : Instr) (ok : Prop) (op : LcsOp) : Prop := answers i ok op 0 s
    ends (.progKey unlock a) (free ∧ l.keyProg = false ∧ (l.st = .blank ∨ l.st = .develop)) .progKey ∧
    ends (.toDevelop unlock a) (idle ∧ l.st = .blank) (.to .develop) ∧
    ends (.toSecured unlock a) (idle ∧ l.keyProg = true ∧ (l.st = .blank ∨ l.st = .develop)) (.to .secured) ∧
    answers (.toReturned unlock token a) (idle ∧ l.st = .secured ∧ s.tokenOk token = true) (.to .returned) 1
      { s with rgl := if s.tokenRead unlock then s.rgl.reads 136 else s.rgl } ∧
    ends (.toScrapped unlock a) (idle ∧ l.st ≠ .scrapped) (.to .scrapped) ∧
    (l.busy = some .progKey →
      exec (.fuseProgrammed time) s = .next { s with lcs := { l with busy := none, keyProg := true } }) ∧
    (∀ x, l.busy = some (.to x) → ∃ t, exec (.fuseProgrammed time) s = .next t ∧ t.lcs = { l with busy := none, st := x } ∧
      t.power.ready = false ∧ t.power.phase = 1 ∧ t.power.held = s.power.held ∧ t.power.pendTime = time ∧
      t.pins.safeN = false) ∧
    (let off := s.power.retSt = .retained ∨ s.power.retSt = .waking
     let s1 := { s with lcs := { l with tamper := true, wiping := !decide off || l.wiping, sealLost := decide off || l.sealLost } }
     (s.fwAt 85).en.getLsbD 0 = true → (s.fwAt 85).sevOf 0 = 4 → s.gf.safe = false →
       ∃ t, exec .tamper s = .next t ∧ SafeReaction s1 t 85 0 false) ∧
    (l.wiping = true → Memory.wf s.mem = true → (∀ r, r < 8 → (s.fwAt (72 + r)).sevOf 8 ≤ 1) →
      ∃ t, exec .sealWipe s = .next t ∧ t.lcs = { l with wiping := false } ∧
        (∀ y, t.byteAt y = if 0x4000000 ≤ y ∧ y < 0x4040000 then 0 else s.byteAt y) ∧
        (∀ r, s.hasTrain r = true → (s.fwAt (72 + r)).en.getLsbD 8 = true → s.quench = [] →
          (t.fwAt (72 + r)).stat.getLsbD 8 = true) ∧
        { t with lcs := {}, mem := [], ue := [], ce := [], fw := [], freeCtr := 0 } =
          { s with lcs := {}, mem := [], ue := [], ce := [], fw := [], freeCtr := 0 })

/-! ### Regulator and upgrade (spec 08 R229-R238, 13 R345-R357) -/

/-- The regulator's commands (R232-R238): CHECK and LOAD begin unless one is in progress, LOAD emptying its slot, with the banks
and records of its UNUSED contexts (log entry 31); ABORT and DISCARD end them; a whole image that admits is DONE with RESULT 1,
and LOADED after LOAD (beside a RUNNING image it may be refused with STATE instead, 13 R346, log entry 62), any other is refused
with its section, code and pointer; START, where every master copy is readable, puts engines in START with initial contexts,
queues the safe values for their port (16 R404), and the service tick makes the image RUNNING, sets the latches of trip channels
that it enables (10 R277, R280), and in SAFE drives code 0b11 (16 R407). -/
def Obligations.RegulatorCommands : Prop :=
  ∀ (slot : Bool) (a : HAcc) (img : List Byte) (s : State),
    let r := s.rgl
    let idle := r.op = .idle
    let refused (t : State) (code ptr : Nat) : Prop :=
      t.rgl = { r with op := .idle, done := true, result := 2, sect := 0xFF, code := BitVec.ofNat 8 code, ptr := BitVec.ofNat 32 ptr } ∧
      t.slotA = s.slotA ∧ t.slotB = s.slotB ∧ t.mem = s.mem ∧ t.ctx = s.ctx
    let emptied (t : State) : Prop := (∀ p ∈ s.ctx, s.ctxAt p.1 = p.2) →
      ∀ id, t.ctxAt id = if (s.ctxAt id).st = .unused ∧ (s.ctxAt id).gen = slot then {} else s.ctxAt id
    (s.takesWrite a → s.lcs.st ≠ .scrapped →
      (idle → exec (.check a) s = .next { s with rgl := { r.reads r.len.toNat with op := .check } }.okay) ∧
      (idle → s.running slot = false → s.power.retSt = .active → ∃ t, exec (.load slot a) s = .next t ∧
        t.rgl = { r.reads r.len.toNat with op := .load slot } ∧ t.slotOf slot = {} ∧ t.slotOf (!slot) = s.slotOf (!slot) ∧ t.mem = s.mem ∧ emptied t) ∧
      (idle → s.running slot = true → ∃ t, exec (.load slot a) s = .next t ∧ refused t 0x1D 0) ∧
      (¬ idle → (∀ i ∈ [Instr.check a, .load slot a, .discard slot a, .start slot a],
        exec i s = .next { s with rgl := { r with cmdErr := true } }.okay)) ∧
      ((r.op = .check ∨ r.op = .load slot) → exec (.abort a) s = .next { s with rgl := { r with op := .idle, done := true, result := 3 } }.okay) ∧
      (idle → exec (.abort a) s = .next { s with rgl := { r with cmdErr := true } }.okay) ∧
      (idle → (s.slotOf slot).st = .loaded → ∃ t, exec (.discard slot a) s = .next t ∧ t.slotOf slot = {} ∧
        t.slotOf (!slot) = s.slotOf (!slot) ∧ t.rgl.op = .idle ∧ t.rgl.done = true ∧ t.mem = s.mem ∧ emptied t) ∧
      (idle → (s.slotOf slot).st ≠ .loaded → ∃ t, exec (.discard slot a) s = .next t ∧ refused t 0x1D 0) ∧
      (let h := (s.img slot).hdr
       let may := s.anyRunning = false ∧ (s.slotOf slot).st = .loaded ∧ s.gf.safe = false ∧ s.power.retSt = .active
       (idle → may → (h.startTime = 0 ∨ s.now + 8000 ≤ h.startTime) → 0 < ((s.img slot).period 0).period →
          (∀ tr p m, (s.img slot).mach tr p = some m → s.copyBad tr m = false) → ∃ t, exec (.start slot a) s = .next t ∧
          (∃ svc, t.rgl = { r with op := .start slot svc } ∧ (h.startTime ≠ 0 → svc = h.startTime) ∧ s.now + 8000 ≤ svc) ∧
          (∀ k, s.hasEngine k = true → (s.engAt k).st = .off → s.fences.contains (.train (k / 9)) = false →
            (t.engAt k).st = if k % 9 = 8 then .test else .start) ∧
          (∀ c ∈ (s.img slot).ctxs, let id (x : CtxE) := ctxId (9 * x.train + x.pos) x.slot
            (∀ x ∈ (s.img slot).ctxs, id x = id c → x = c) →
            let d := t.ctxAt (id c)
            d.st = .idle ∧ d.gen = slot ∧ d.lctx = c.lctx ∧ d.pc = c.entry ∧ d.docc = c.pdepth ∧ d.level = c.home ∧ d.q = c.q ∧
            d.evmask = c.evmask ∧ d.rocc = 0 ∧ d.nest = 0) ∧
          t.safeQ = s.safeQ ++ (List.range 64).flatMap (fun g => ((s.img slot).outletsOf g).map (fun n => (n, (s.img slot).safeOf g n)))) ∧
       (idle → ¬ may → ∃ t, exec (.start slot a) s = .next t ∧ refused t 0x1D 0) ∧
       (idle → may → h.startTime ≠ 0 → h.startTime < s.now + 8000 → ∃ t, exec (.start slot a) s = .next t ∧ refused t 0x1D 0x28))) ∧
    ((r.op = .check ∨ r.op = .load slot) → s.power.ready = true → r.len.toNat = img.length →
      ((img.length < 64 ∨ img.length % 8 ≠ 0) → ∃ t, exec (.admission img none) s = .next t ∧ refused t 1 8) ∧
      (64 ≤ img.length → img.length % 8 = 0 → fld img 8 4 = img.length →
        (∀ x, s.admits img = .error x → ∃ t, exec (.admission img none) s = .next t ∧ t.slotA = s.slotA ∧ t.slotB = s.slotB ∧
          t.mem = s.mem ∧ t.rgl = { r with
            op := .idle, done := true, result := 2, sect := BitVec.ofNat 8 x.sect
            code := BitVec.ofNat 8 x.code, ptr := BitVec.ofNat 32 x.ptr }) ∧
        (∀ i, s.admits img = .ok i → ∃ t, exec (.admission img none) s = .next t ∧
          (r.op = .check → t = { s with rgl := { r with op := .idle, done := true, result := 1 } }) ∧
          (r.op = .load slot →
            t.rgl = { r with op := .idle, done := true, result := 1 } ∧ t.slotOf slot = { st := .loaded, img := i } ∧
              t.slotOf (!slot) = s.slotOf (!slot) ∨
            s.anyRunning = true ∧ ∃ m ∈ i.machs, ∃ sect, t.rgl = { r with
              op := .idle, done := true, result := 2, sect := sect, code := 0x1D, ptr := BitVec.ofNat 32 m.ofs } ∧
              t.slotA = s.slotA ∧ t.slotB = s.slotB ∧ t.mem = s.mem))) ∧
      (∀ x, 64 ≤ img.length → img.length % 8 = 0 → x < 64 → ∃ t, exec (.admission img (some x)) s = .next t ∧
        refused t 3 (x / 32 * 32))) ∧
    (∀ svc, r.op = .start slot svc → svc ≤ s.now → ∃ t, exec .serviceTick s = .next t ∧ (t.slotOf slot).st = .running ∧
      t.img slot = s.img slot ∧ t.rgl.op = .idle ∧ t.rgl.done = true ∧ t.esc.svc = s.time ∧
      t.rmt.startedSecured = (s.rmt.startedSecured || s.lcs.st == .secured) ∧
      (∀ k, s.hasEngine k = true → t.engAt k = { s.engAt k with
        st := if (s.engAt k).st = .start then .service else (s.engAt k).st }) ∧ t.mem = s.mem ∧
      (∀ n, (t.tripAt n).latch = ((s.tripAt n).latch ||
        (decide (n < 64) && (s.setSlot slot { s.slotOf slot with st := .running }).tripOn n && (s.tripAt n).above &&
          (s.tripAt n).cfg.extractLsb' 28 2 != 0b10))) ∧
      ((∀ n, (s.tripAt n).above = false) → t.ctx = s.ctx) ∧
      (s.gf.safe = true → ∀ o ∈ t.liveOutlets, (t.outAt o.1).cmd = 0b11))

/-- The upgrade commands and the switch (R351-R357): SWITCH and REVERT of a defined set schedule its step at the first commit
tick of the set's anchor from UPG_AT on and 2,000 ticks away, CANCEL drops it, COMPLETE is taken when every set is switched,
anything else is ERR; at the switch tick the set moves (its members of the leaving side UNUSED, a RUNNING one asked to stop,
those of the other side rebuilt in their slots, at once even where a RUNNING member of the leaving side sits, and a revert uses
the same anchor: both as log entry 32 takes them) or is deferred to the next commit tick with DEFERS counted. -/
def Obligations.UpgradeSteps : Prop :=
  ∀ (set : BitVec 6) (a : HAcc) (s : State),
    let u := s.upg
    let n := set.toNat
    let defined := s.coexist = true ∧ u.pop = 0 ∧ n ∈ (s.img (!s.olderGen)).sets
    let err : State := { s with upg := { u with err := true } }
    (s.takesWrite a →
      (∀ k, s.anchorTick n (Max.max u.target.toNat (s.now + 2000)) = some k →
        (defined → u.sw.getLsbD n = false → exec (.switch set a) s = .next
          { s with upg := { u with pop := 1, pset := set, due := k, defers := 0 } }.okay) ∧
        (defined → u.sw.getLsbD n = true → exec (.revert set a) s = .next
          { s with upg := { u with pop := 2, pset := set, due := k, defers := 0 } }.okay)) ∧
      (¬ (defined ∧ u.sw.getLsbD n = false) → exec (.switch set a) s = .next err.okay) ∧
      (¬ (defined ∧ u.sw.getLsbD n = true) → exec (.revert set a) s = .next err.okay) ∧
      exec (.cancel a) s = .next (if s.coexist then { s with upg := { u with pop := 0 } } else err).okay ∧
      exec (.complete a) s = .next (if s.coexist = true ∧ u.pop = 0 ∧
        (∀ m ∈ (s.img (!s.olderGen)).sets, u.sw.getLsbD m = true) then { s with upg := { u with compl := true } } else err).okay) ∧
    (s.coexist = true → u.pop ≠ 0 →
      let newer := u.pop = 1
      let to' := decide newer != s.olderGen
      let p := u.pset.toNat
      (s.now < u.due → exec .setSwitch s = .next s) ∧
      (u.due ≤ s.now → s.mayMove p (!decide newer) = false → ∀ k, s.anchorTick p (s.now + 1) = some k →
        exec .setSwitch s = .next { s with upg := { u with due := k, defers := Min.min (u.defers + 1) 255 } }) ∧
      (u.due ≤ s.now → s.mayMove p (!decide newer) = true → s.ue = [] → s.ce = [] → s.fences = [] →
        (∀ r, r < 8 → (s.fwAt (72 + r)).sevOf 13 ≤ 1) → s.tracing = false →
        ∃ t, exec .setSwitch s = .next t ∧ t.upg.pop = 0 ∧ t.upg.done = true ∧
          (∀ m, m < 64 → t.upg.sw.getLsbD m = if m = p then decide newer else u.sw.getLsbD m) ∧
          (t.slotOf (!s.olderGen)).st = (if t.upg.sw = 0 then .loaded else .running) ∧ t.slotOf s.olderGen = s.slotOf s.olderGen ∧
          (let side (b : Bool) := (s.img (!s.olderGen)).membersOf p b
           (∀ l ∈ side (!decide newer), ∀ id, s.locate (!to') l = some id → (s.ctxAt id).st ≠ .running →
             (∀ m ∈ side (decide newer), s.seat to' m ≠ some id) → (t.ctxAt id).st = .unused) ∧
           (∀ l ∈ side (!decide newer), ∀ id, s.locate (!to') l = some id → (s.ctxAt id).st = .running →
             (∀ m ∈ side (decide newer), s.seat to' m ≠ some id) → let e := s.engAt (engOfCtx id)
             e.run = .ctx (id % 16) → (∀ i, engOfCtx i = engOfCtx id → i ≠ id → (s.ctxAt i).st ≠ .running) →
             (t.ctxAt id).st = .running ∧ (t.engAt (engOfCtx id)).run = e.run ∧
               (t.engAt (engOfCtx id)).stopReq = some (e.stopReq.getD s.now)) ∧
           (∀ l ∈ side (decide newer), ∀ id, s.seat to' l = some id →
             (∀ m ∈ side (decide newer), s.seat to' m = some id → m = l) →
             (t.ctxAt id).gen = to' ∧ (t.ctxAt id).lctx = l ∧ ((t.ctxAt id).st = .idle ∨ (t.ctxAt id).st = .restoring)))))

/-! ### Host port, test port, debug, trace, link (spec 16 R412, 14 R362-R382, 13 R358-R361) -/

/-- The host's accesses (R310, R390, R412, 17 R417, R418): SLVERR for a write that is not one aligned word, for a protected one
and for an undefined offset, by either path; before READY a window access answers 0 and OKAY (15 R390); SCRATCH takes a write; 1
clears bits of FW_STAT that no event of the tick has set, which releases the rails that a DEGRADE action held (12 R316); a
window read returns the addressed bytes in their lanes, zero in the others, and a write stores the strobed bytes and nothing
else, leaving the read data (both the model's choice, log entry 12); in SECURED a write to a local store or a master copy is
SLVERR; a timeout is SLVERR. -/
def Obligations.HostAccesses : Prop :=
  ∀ (s : State) (off size : Nat) (v : Word) (a : HAcc) (strb : BitVec 16) (data : BitVec 128),
    let bad : State := { s with host := { s.host with resp := 2 } }
    ((a.ok = false ∨ 0x1000000 ≤ off) → exec (.hostRegWrite off v a) s = .next bad) ∧
    (a.ok = true → off < 0x1000000 →
      (a.prot1 = true → s.lcs.st = .secured → (off < 0x8000 ∨ 0x10000 ≤ off ∧ off < 0x90000) → exec (.hostRegWrite off v a) s = .next bad) ∧
      (s.takesWrite a →
        ((s.regRead off true).isSome = false → exec (.hostRegWrite off v a) s = .next bad) ∧
        (off = 0x08 → exec (.hostRegWrite off v a) s = .next { s with scratch := v }.okay) ∧
        (off = 0x1018 → s.rgl.op = .idle → exec (.hostRegWrite off v a) s = .next { s with rgl := { s.rgl with len := v } }.okay) ∧
        (∀ w, w < 88 → s.hasWindow w = true → off = fwOffset w → let clr := v &&& ~~~(s.fwAt w).now
          ∃ t, exec (.hostRegWrite off v a) s = .next t ∧
            t.fwAt w = { s.fwAt w with stat := (s.fwAt w).stat &&& ~~~clr } ∧ (∀ j, j ≠ w → t.fwAt j = s.fwAt j) ∧
            (∀ r, let y := s.trainAt r
              t.trainAt r = { y with pace := { y.pace with
                holdPace := y.pace.holdPace && !(decide (r < 8 ∧ w = 72 + r) && clr.getLsbD 9)
                holdRail := y.pace.holdRail && !(decide (w = 83) && s.hasTrain r && clr.getLsbD 1) } }) ∧
            { t with fw := [], train := [] } = { s.okay with fw := [], train := [] }))) ∧
    (off < 0x1000000 →
      ((a.ok = false ∨ size ≠ 4 ∨ off % 4 ≠ 0) →
        exec (.hostWindowAccess off false strb data ⟨true, a⟩ size) s = .next { s with host := { rdata := 0, resp := 2 } } ∧
        exec (.hostWindowAccess off true strb data ⟨true, a⟩ size) s = .next bad) ∧
      (a.ok = true → size = 4 → off % 4 = 0 → (∀ i, i < 4 → strb.getLsbD (off % 16 + i) = true) →
        exec (.hostWindowAccess off true strb data ⟨true, a⟩ size) s =
          exec (.hostRegWrite off (data.extractLsb' (8 * (off % 16)) 32) a) s)) ∧
    (s.power.ready = false → 0x1000000 ≤ off → beatOk size = true →
      exec (.hostWindowAccess off false strb data ⟨true, a⟩ size) s = .next { s with host := { rdata := 0, resp := 0 } } ∧
      exec (.hostWindowAccess off true strb data ⟨true, a⟩ size) s = .next s.okay) ∧
    ((size = 1 ∨ size = 2 ∨ size = 4 ∨ size = 8 ∨ size = 16) → off % size = 0 → s.power.ready = true → s.power.retSt = .active →
      s.lcs.st ≠ .scrapped → s.lcs.wiping = false → s.ue = [] → s.ce = [] → s.fences = [] →
      let locked := s.lcs.st = .secured ∧ (0x2000000 ≤ off ∨ ∃ i < size, s.inMaster (off + i) = true)
      (0x1000000 ≤ off ∧ off < 0x1000000 + 0x200000 * s.variant.trains ∨
        0x2000000 ≤ off ∧ off < 0x2000000 + 0x10000 * (9 * s.variant.trains)) →
      (∃ x : BitVec 128, exec (.hostWindowAccess off false strb data ⟨true, a⟩ size) s = .next { s with host := { rdata := x, resp := 0 } } ∧
        ∀ i, i < 16 → (x.extractLsb' (8 * i) 8 : Byte) =
          if off ≤ off / 16 * 16 + i ∧ off / 16 * 16 + i < off + size then s.byteAt (off / 16 * 16 + i) else 0) ∧
      (locked → exec (.hostWindowAccess off true strb data ⟨true, a⟩ size) s = .next bad) ∧
      (¬ locked → ∃ t, exec (.hostWindowAccess off true strb data ⟨true, a⟩ size) s = .next t ∧
        (∀ y, t.byteAt y = if off ≤ y ∧ y < off + size ∧ strb.getLsbD (y % 16) = true then data.extractLsb' (8 * (y % 16)) 8
          else s.byteAt y) ∧
        { t with mem := [] } = { s.okay with mem := [] })) ∧
    exec .hostWindowTimeout s = .next bad

/-- The test access port (R362-R364, R369, R377): each instruction captures its register and takes what is shifted in; DDATA
starts one access at a time; each scan leads the controller from Test-Logic-Reset or Run-Test/Idle to Run-Test/Idle, and five
edges with `tap_tms` high to Test-Logic-Reset, where the access in flight goes on (R362; log entry 27). One row is one whole
scan (log entry 12). A debug access ends with its data in RDATA and steps ADDR: local store and train memory of the selected
engine, and a halted context's bank, whose PC between repetitions shows the REP (log entry 27); an array timeout and SPACE 0b11
are ERR, and every access is denied in SCRAPPED. -/
def Obligations.TestPortAccesses : Prop :=
  ∀ (v : BitVec 34) (s : State),
    let t := s.tap
    let status : BitVec 2 := if t.acc.isSome then 1 else if t.err then 2 else 0
    let scan (n : Nat) : TapSt := (t.walk (scanTms n)).st
    (∃ c : BitVec 34, c.toNat = 2 ^ 28 + s.variant.part * 2 ^ 12 + Config.tapMfr.toNat * 2 + 1 ∧
      exec .idcode s = .next { s with tap := { t with st := scan 32, ir := 0b00001, cap := c } }) ∧
    exec .bypass s = .next { s with tap := { t with st := scan 1, ir := 0b11111, cap := 0 } } ∧
    exec .tapReset s = .next { s with tap := { t with st := .testLogicReset, ir := 0b00001 } } ∧
    ((t.st = .testLogicReset ∨ t.st = .runTestIdle) → ∀ n, 0 < n → scan n = .runTestIdle) ∧
    exec (.daddr v) s = .next { s with tap := { t with
      st := scan 34, ir := 0b01000, cap := t.space ++ t.addr, addr := v.extractLsb' 0 32, space := v.extractLsb' 32 2 } } ∧
    exec (.ddata v) s = .next { s with tap := { t with
      st := scan 34, ir := 0b01001, cap := status ++ t.rdata
      acc := if t.acc.isSome then t.acc else
        some { addr := t.addr, space := t.space, wr := v.getLsbD 32, data := v.extractLsb' 0 32, inc := v.getLsbD 33
               served := decide (s.power.retSt = .active) } } } ∧
    (∀ a : DAcc, t.acc = some a → s.power.ready = true →
      let next := if a.inc then t.addr + 4 else t.addr
      let ends (timeout : Bool) (s1 : State) (rdata : Word) : Prop := exec (.debugAccessDone timeout) s = .next
        { s1 with tap := { t with acc := none, err := false, addr := next, rdata := rdata } }
      let fails (timeout : Bool) : Prop := ∃ u, exec (.debugAccessDone timeout) s = .next u ∧
        u.tap = { t with acc := none, err := true, addr := next, rdata := u.tap.rdata } ∧ u.mem = s.mem ∧ u.ctx = s.ctx ∧
        ((s.fwAt 87).en.getLsbD 3 = true → s.quench = [] → (u.fwAt 87).stat.getLsbD 3 = true)
      let k := s.dbg.eng.toNat
      (s.lcs.st = .scrapped → (s.fwAt 87).sevOf 4 ≤ 1 → fails false ∧
        ∀ u, exec (.debugAccessDone false) s = .next u → (s.fwAt 87).en.getLsbD 4 = true → s.quench = [] →
          (u.fwAt 87).stat.getLsbD 4 = true) ∧
      (s.lcs.st ≠ .scrapped → a.space = 3 → fails false) ∧
      (s.lcs.st ≠ .scrapped → a.space = 1 → a.addr.toNat % 4 = 0 → s.hasEngine k = true → s.power.retSt = .active → s.ue = [] →
        s.ce = [] → s.fences = [] →
        (a.addr.toNat < 0x10000 ∨ 0x01000000 ≤ a.addr.toNat ∧ a.addr.toNat < 0x01200000) →
        let key := if a.addr.toNat < 0x10000 then lsKey k a.addr.toNat else tmKey (k / 9) (a.addr.toNat % 0x200000)
        (a.wr = false → ends false s (s.rd32 key) ∧ fails true) ∧
        (a.wr = true → s.lcs.st ≠ .secured → ∃ s1, ends false s1 t.rdata ∧ s1.rd32 key = a.data ∧
          (∀ y, (y < key ∨ key + 4 ≤ y) → s1.byteAt y = s.byteAt y) ∧ { s1 with mem := [] } = { s with mem := [] })) ∧
      (s.lcs.st ≠ .scrapped → a.space = 2 → ∀ gen id, let lctx := (a.addr.extractLsb' 16 10).toNat
        s.selGen lctx = some gen → s.locate gen lctx = some id → (s.ctxAt id).st = .halted →
        let i := a.addr.toNat % 256
        let c := s.ctxAt id
        (a.wr = false → i = 64 → ends false s (if c.rep = true then c.pc - 2 else c.pc)) ∧
        (a.wr = false → 48 ≤ i → i < 56 → ends false s (c.auxR (i - 48))) ∧
        (a.wr = true → (s.lcs.st = .secured → c.world = false) → i = 64 →
          ends false (s.setCtx id { c with pc := a.data &&& 0xFFFFFFFE, rep := false }) t.rdata)))

/-- Halt, resume and step (R366-R372): HALT posts a request, deferred in a LOCK bracket; when it is taken the engine halts with
its context HALTED, between repetitions at the REP (06 R163); RESUME and STEP let the context go on within its slot entry, STEP
for one instruction, and end its activation outside it; where nothing is continued the engine parks until its next START (R370,
log entry 59). -/
def Obligations.HaltAndResume : Prop :=
  ∀ (k : Nat) (a : HAcc) (s : State), s.hasEngine k = true → s.lcs.st ≠ .scrapped →
    let e := s.engAt k
    let d := e.dbg
    let others (t : State) : Prop := ∀ j, j ≠ k → t.engAt j = s.engAt j
    (s.takesWrite a → d.halted = false → d.pend = false → ∃ t, exec (.halt k a) s = .next t ∧
      t.engAt k = { e with dbg := { d with pend := true, pendCause := 1, deferred := d.deferred || e.lock != 0 } } ∧ others t ∧
      { t with eng := [], fw := [], freeCtr := 0 } = { s.okay with eng := [], fw := [], freeCtr := 0 }) ∧
    (∀ x, s.haltNow k = some x → s.tracing = false → s.dbg.hgrp.getLsbD k = false → s.rmt.startedSecured = false → e.late = none →
      (s.fwAt 87).sevOf 0 ≤ 1 → ∃ t, exec (.haltTake k) s = .next t ∧ (t.engAt k).run = .parked ∧
        (t.engAt k).dbg = { d with halted := true, pend := false, cause := d.pendCause, hl := x, hlRun := e.run, stepping := false } ∧
        (∀ slot, x = some slot → let c := s.ctxAt (ctxId k slot)
          t.ctxAt (ctxId k slot) = { (if e.held = true ∨ c.rep = false then c else { c with pc := c.pc - 2, rep := false }) with st := .halted }) ∧
        (∀ id, (∀ slot, x = some slot → id ≠ ctxId k slot) → t.ctxAt id = s.ctxAt id) ∧ others t ∧ Reports s t 87 0 (some k) 0) ∧
    (d.pend = true → d.halted = false → e.mstop = false → e.run = .parked → s.haltNow k = some none) ∧
    (s.takesWrite a → d.halted = true → ∀ slot act, d.hl = some slot → (s.ctxAt (ctxId k slot)).act = some act →
      let c := s.ctxAt (ctxId k slot)
      let goes (i : Instr) (stepping : Bool) : Prop :=
        (s.now < act.endAt → (c.rep = true → e.bload.any (fun b => b.slot == slot) = true) →
          ∃ t, exec i s = .next t ∧ t.ctxAt (ctxId k slot) = { c with st := .running } ∧
          t.engAt k = { e with run := d.hlRun, dbg := { d with
            halted := false, hl := none, hlRun := .parked, pass := true, stepping := stepping } } ∧ others t ∧
          (∀ id, id ≠ ctxId k slot → t.ctxAt id = s.ctxAt id) ∧ { t with ctx := [], eng := [] } = { s.okay with ctx := [], eng := [] }) ∧
        (act.endAt ≤ s.now → ∃ t, exec i s = .next t ∧
          t.ctxAt (ctxId k slot) = { c with st := if c.db then .idle else .stopped, act := none } ∧
          t.engAt k = { e with dbg := { d with halted := false, hl := none, hlRun := .parked, parkFrom := s.now } } ∧ others t)
      d.frz = false → goes (.resume k a) false ∧ goes (.step k a) true) ∧
    (s.takesWrite a → d.halted = true → d.hl = none → d.frz = false →
      exec (.step k a) s = .next s.okay ∧ ∃ t, exec (.resume k a) s = .next t ∧ others t ∧
        t.engAt k = { e with dbg := { d with halted := false, hlRun := .parked, parkFrom := s.now } } ∧
        { t with eng := [] } = { s.okay with eng := [] })

/-- Trace (R379-R382): STIM writes its packet while its port is enabled, TRACE_SYNC the time at the interval, each whole or lost
with OVF; while trace is off a stimulus write is discarded; TRACE_PORT_DRAIN moves the oldest byte to the port. -/
def Obligations.TracePackets : Prop :=
  ∀ (p : Nat) (v : Word) (a : HAcc) (s : State), p < 64 → s.dbg.lost = 0 →
    let d := s.dbg
    let time := s.now % 2 ^ 64
    let byte (x i : Nat) : Byte := BitVec.ofNat 8 (x / 256 ^ i)
    let stim : List Byte := [0x78, byte time 0, byte time 1, 0xFE, BitVec.ofNat 8 p, byte v.toNat 0, byte v.toNat 1, byte v.toNat 2,
      byte v.toNat 3]
    let sync : List Byte := 0x08 :: (List.range 8).map (byte time)
    (s.takesWrite a →
      ((d.stimen.getLsbD p = false ∨ s.tracing = false) → exec (.stim p v a) s = .next s.okay) ∧
      (d.stimen.getLsbD p = true → s.tracing = true → d.buf.length + 9 ≤ 8192 →
        exec (.stim p v a) s = .next { s with dbg := { d with buf := d.buf ++ stim } }.okay) ∧
      (d.stimen.getLsbD p = true → s.tracing = true → 8192 < d.buf.length + 9 → ∃ t, exec (.stim p v a) s = .next t ∧
        t.dbg = { d with lost := 1, ovf := true } ∧ Reports s t 87 2 none 0)) ∧
    (s.tracing = true → d.lastSync + 2 ^ (10 + d.syncInt.toNat) ≤ s.now → d.buf.length + 9 ≤ 8192 →
      exec .traceSync s = .next { s with dbg := { d with buf := d.buf ++ sync, lastSync := s.now } }) ∧
    (s.tracing = true → d.lastSync + 2 ^ (10 + d.syncInt.toNat) ≤ s.now → 8192 < d.buf.length + 9 →
      ∃ t, exec .traceSync s = .next t ∧ t.dbg = { d with lost := 1, ovf := true, lastSync := s.now } ∧ Reports s t 87 2 none 0) ∧
    (s.tracing = false → exec .traceSync s = .next s) ∧
    (s.now < d.lastSync + 2 ^ (10 + d.syncInt.toNat) → exec .traceSync s = .next s) ∧
    (∀ b r, d.sink = false → s.variant.optional = true → s.lcs.st ≠ .scrapped → d.buf = b :: r →
      exec .tracePortDrain s = .next { s with dbg := { d with buf := r, port := some b } })

/-- The sync link (R358-R361): LNK_CTL enables it on a queue that can hold a record; at its frame tick the frame is sent with
mark, generation, sequence, word count, time, payload and CRC, as 32-bit halves, low half first (16 R415); UP ages with every
frame tick, working or not (R360; log entry 33); a valid frame marks the peer up and its 288-byte record enters the receive
queue, WR last; a record without room is dropped with LNK_DROP, a sequence number out of order gives LNK_SEQ and words of
another generation LNK_GEN; a bad frame is reported and changes nothing else. At the third frame tick without a valid frame
LNK_LOSS is reported before that tick's frame, which a fence stops with what is still queued (12 R317, R318), and the count
begins anew (log entry 33). -/
def Obligations.LinkFrames : Prop :=
  ∀ (s : State) (v : Word) (a : HAcc) (words : List Word64) (e : QueueE),
    let l := s.link
    (s.takesWrite a → s.rmt.startedSecured = false → s.variant.optional = true →
      let ok := ∃ q, s.queueOf (v.extractLsb' 20 3).toNat (v.extractLsb' 16 4).toNat = some q ∧ 288 ≤ q.size
      ∃ t, exec (.lnkCtl v a) s = .next t ∧ (t.link.en = true ↔ v.getLsbD 31 = true ∧ ok) ∧
        (t.link.cfgErr = true ↔ v.getLsbD 31 = true ∧ ¬ ok) ∧ t.link.rxTrain = v.extractLsb' 20 3 ∧ t.link.rxq = v.extractLsb' 16 4 ∧
        ((v.extractLsb' 24 6).toNat ≤ 32 → t.link.ntx = v.extractLsb' 24 6) ∧
        ((v.extractLsb' 0 14).toNat < 10000 → t.link.phase = v.extractLsb' 0 14) ∧ { t with link := {} } = { s.okay with link := {} }) ∧
    (s.rmt.startedSecured = true → s.takesWrite a → exec (.lnkCtl v a) s = .next s.okay) ∧
    (s.variant.optional = true → s.linkUp = false → s.now % 10000 = l.phase.toNat →
      exec .linkTxFrame s = .next { s with link := { l with age := Min.min (l.age + 1) 3 } }) ∧
    (s.linkUp = true → s.now % 10000 = l.phase.toNat → (∀ g, (s.img g).hdr.gen < 2 ^ 16) → s.ce = [] →
      ∃ (t : State) (f : List Word64), exec .linkTxFrame s = .next t ∧ t.link = { l with
          tx := f.flatMap (fun w : Word64 => [w.extractLsb' 0 32, w.extractLsb' 32 32])
          fseq := l.fseq + 1, missed := if 2 ≤ l.missed then 0 else l.missed + 1, age := Min.min (l.age + 1) 3 } ∧
        { t with link := {} } = { s with link := {} } ∧ f.length = l.ntx.toNat + 4 ∧
        (f.getD 0 0).extractLsb' 0 16 = 0x5C17#16 ∧ (f.getD 0 0).extractLsb' 32 16 = l.fseq ∧
        (f.getD 0 0).extractLsb' 48 16 = l.ntx.setWidth 16 ∧ f.getD 1 0 = s.time ∧
        (∀ i, i < l.ntx.toNat → f.getD (3 + i) 0 = (s.linkWord i).1) ∧
        f.getD (l.ntx.toNat + 3) 0 = (crc32 ((f.take (l.ntx.toNat + 3)).flatMap (fun w => leBytes 8 w.toNat))).setWidth 64) ∧
    (s.linkUp = true → s.power.ready = true → frameOk words = true → s.queueOf l.rxTrain.toNat l.rxq.toNat = some e →
      s.ue = [] → s.ce = [] → s.fences = [] → (s.fwAt 86).sevOf 2 ≤ 1 → (s.fwAt 86).sevOf 3 ≤ 1 →
      let h := tmKey l.rxTrain.toNat e.base
      let wr := (s.rd32 h).toNat
      let used := (wr + 2 ^ 32 - (s.rd32 (h + 8)).toNat) % 2 ^ 32
      let gen := (words.getD 0 0).extractLsb' 16 16
      let seq := (words.getD 0 0).extractLsb' 32 16
      let rej := s.rejected gen.toNat ((words.getD 2 0).extractLsb' 0 32).toNat ((words.getD 0 0).extractLsb' 48 6).toNat
      let jump : Bool := match l.lastSeq with | some x => seq != x + 1 | none => false
      ∃ t, exec (.linkRxFrame words) s = .next t ∧ t.link.age = 0 ∧ t.link.missed = 0 ∧ t.link.peerGen = gen ∧
        t.link.lastSeq = some seq ∧ t.link.tx = l.tx ∧
        (s.quench = [] → ∀ n ∈ [2, 3, 4], (t.fwAt 86).stat.getLsbD n = ((s.fwAt 86).stat.getLsbD n || ((s.fwAt 86).en.getLsbD n &&
          decide (n = 2 ∧ rej ≠ [] ∨ n = 3 ∧ e.size < used + 288 ∨ n = 4 ∧ jump = true)))) ∧
        (e.size < used + 288 → t.mem = s.mem) ∧
        (used + 288 ≤ e.size → (t.rd32 h).toNat = (wr + 288) % 2 ^ 32 ∧
          (∀ i b, (s.linkRecord words rej)[i]? = some b → t.byteAt (h + 32 + (wr + i - wr / e.size * e.size) % e.size) = b) ∧
          ∀ y, (y < h ∨ h + 4 ≤ y) → (y < h + 32 ∨ h + 32 + e.size ≤ y) → t.byteAt y = s.byteAt y)) ∧
    (s.linkUp = true → s.power.ready = true → frameOk words = false → ∃ t, exec (.linkRxFrame words) s = .next t ∧
      Reports s t 86 0 none 0 ∧ { t with fw := [], freeCtr := 0 } = { s with fw := [], freeCtr := 0 }) ∧
    ((s.linkUp = false ∨ s.power.ready = false) → exec (.linkRxFrame words) s = .next s) ∧
    (let lost := s.linkUp = true ∧ s.now % 10000 = l.phase.toNat ∧ 2 ≤ l.missed
     (¬ lost → exec .lnkLoss s = .next s) ∧
     (lost → (s.fwAt 86).sevOf 1 ≤ 1 → ∃ t, exec .lnkLoss s = .next t ∧ Reports s t 86 1 none 0 ∧
       { t with fw := [], freeCtr := 0 } = { s with fw := [], freeCtr := 0 }) ∧
     (lost → (s.fwAt 86).en.getLsbD 1 = true → (s.fwAt 86).sevOf 1 = 3 → s.quench = [] → ∃ t, exec .lnkLoss s = .next t ∧
       t.fences.contains .link = true ∧ t.link = { l with tx := [] } ∧ (t.fwAt 86).stat.getLsbD 1 = true))

/-! ### The whole machine -/

/-- A step takes the command at the front of the queue and answers what exec answers on the rest (log entry 1). With no
command waiting, the model's choice of log entry 3 is one tick: ESC_TIME advances once the block is READY. -/
def Obligations.StepRunsFrontCommand : Prop :=
  (∀ (c : Instr) (r : List Instr) (s : State), s.pending = c :: r → step s = exec c { s with pending := r }) ∧
  ∀ s : State, s.pending = [] → s.power.ready = true → ∃ t, step s = .next t ∧ t.time = s.time + 1 ∧ t.power = s.power

/-- No command of a present unit stops: every well-formed command answers a next state, with the queue, the variant and
ESC_TIME as they were (spec 01 R17, R5). -/
def Obligations.EveryCommandAnswers : Prop :=
  ∀ (c : Instr) (s : State), c.wf = true → (∀ k, c.engine? = some k → s.hasEngine k = true) →
    (∀ t, c.train? = some t → s.hasTrain t = true) → (∀ w, c.window? = some w → s.hasWindow w = true) →
    ∃ t, exec c s = .next t ∧ t.pending = s.pending ∧ t.variant = s.variant ∧ t.time = s.time

/-- Memory keeps its canonical form under every step: addresses strictly rising, and no byte listed that equals what an
unlisted address reads as. -/
def Obligations.MemoryStaysCanonical : Prop :=
  ∀ s t : State, step s = .next t → Memory.wf s.mem = true → Memory.wf t.mem = true

/-- What reset leaves (R389, 12 R314, R315, R319, 15 R398, 16 R401): READY in phase 5, no image, engines OFF, contexts
UNUSED, SAFE and DEGRADED clear with `sx_safe_n` high, every fault window at its defaults, zero memory in canonical form, an
empty queue. -/
def Obligations.ResetLeaves : Prop :=
  let s := State.reset
  s.power.ready = true ∧ s.power.phase = 5 ∧ s.slotA.st = .empty ∧ s.slotB.st = .empty ∧ s.rgl.op = .idle ∧
  (∀ k, (s.engAt k).st = .off) ∧ (∀ id, (s.ctxAt id).st = .unused) ∧ (∀ o, s.outAt o = {}) ∧
  s.gf.safe = false ∧ s.gf.degraded = false ∧ s.gf.qtail = 0x3E8 ∧ s.pins.safeN = true ∧
  (∀ w, s.fwAt w = fwDefault w) ∧ (∀ w n i, srcInfo w n = some i → n < 32 → (fwDefault w).sevOf n = i.dflt ∧ (fwDefault w).en.getLsbD n = true) ∧
  (∀ a, s.byteAt a = 0) ∧ Memory.wf s.mem = true ∧ s.pending = [] ∧ s.lcs.forward

/-- SAFE ends only through a reset: while the block is READY no step clears it or raises `sx_safe_n`, whatever is written,
and START is refused with STATE (R323). -/
def Obligations.SafeEndsOnlyByReset : Prop :=
  ∀ s t : State, s.gf.safe = true →
    (s.pins.safeN = false → s.power.ready = true → step s = .next t → t.gf.safe = true ∧ t.pins.safeN = false) ∧
    (∀ (slot : Bool) (a : HAcc), s.takesWrite a → s.rgl.op = .idle → s.lcs.st ≠ .scrapped → exec (.start slot a) s = .next t →
      t.rgl.result = 2 ∧ t.rgl.code = 0x1D ∧ t.rgl.op = .idle ∧ t.slotA = s.slotA ∧ t.slotB = s.slotB ∧ t.eng = s.eng)

/-- The life cycle only goes forward: a transition under way leads to a later state, and no step leads back (R393). -/
def Obligations.LifecycleGoesForward : Prop :=
  ∀ s t : State, s.lcs.forward → step s = .next t → t.lcs.forward ∧ s.lcs.st.code ≤ t.lcs.st.code
end

