-- ==== Sys2Proof/Laws/Table.lean ====
section
/-! SUPPORT. Laws of the sparse tables: read after write, and that a write keeps the canonical form. -/

namespace Sys2Proof.Tab
variable {α : Type}

@[simp] theorem get_nil (d : Nat → α) (i : Nat) : get d [] i = d i := rfl

/-- Dropping the entries up to `i` changes no later key. -/
theorem get_dropLe (d : Nat → α) (i k : Nat) (t : Tab α) (h : i < k) : get d (dropLe i t) k = get d t k := by
  induction t with
  | nil => rfl
  | cons p r ih =>
    obtain ⟨j, v⟩ := p
    by_cases hj : j ≤ i
    · have h1 : j ≠ k := by omega
      have h2 : ¬ k < j := by omega
      simp [dropLe, hj, get, h1, h2, ih]
    · simp [dropLe, hj]

/-- After the drop every key up to `i` reads as unlisted. -/
theorem get_dropLe_low (d : Nat → α) (i k : Nat) (t : Tab α) (h : k ≤ i) : get d (dropLe i t) k = d k := by
  induction t with
  | nil => rfl
  | cons p r ih =>
    obtain ⟨j, v⟩ := p
    by_cases hj : j ≤ i
    · simp [dropLe, hj, ih]
    · have h1 : j ≠ k := by omega
      have h2 : k < j := by omega
      simp [dropLe, hj, get, h1, h2]

variable [DecidableEq α]

/-- A read after a write to the same key gives the value written. -/
@[simp] theorem get_set_self (d : Nat → α) (t : Tab α) (i : Nat) (v : α) : get d (set d t i v) i = v := by
  induction t with
  | nil => by_cases h : v = d i <;> simp [set, get, h]
  | cons p r ih =>
    obtain ⟨j, w⟩ := p
    by_cases h1 : i < j
    · have : j ≠ i := by omega
      by_cases hv : v = d i <;> simp [set, get, h1, hv, this]
    · by_cases h2 : j = i
      · subst h2
        by_cases hw : v = w
        · simp [set, get, hw]
        · by_cases hv : v = d j
          · subst hv; simp [set, hw, get_dropLe_low]
          · simp [set, get, hw, hv]
      · simp [set, get, h1, h2, ih]

/-- A write leaves every other key alone. -/
theorem get_set_ne (d : Nat → α) (t : Tab α) (i k : Nat) (v : α) (h : k ≠ i) : get d (set d t i v) k = get d t k := by
  induction t with
  | nil =>
    by_cases hv : v = d i
    · simp [set, hv]
    · have h' : ¬ i = k := fun e => h e.symm
      simp [set, hv, get, h']
  | cons p r ih =>
    obtain ⟨j, w⟩ := p
    by_cases h1 : i < j
    · by_cases hv : v = d i
      · simp [set, h1, hv]
      · have h' : ¬ i = k := fun e => h e.symm
        simp only [set, h1, hv, if_true, if_false, get, h']
        split
        · have : j ≠ k := by omega
          have : k < j := by omega
          simp [*]
        · rfl
    · by_cases h2 : j = i
      · subst h2
        have h' : ¬ j = k := fun e => h e.symm
        by_cases hw : v = w
        · simp [set, hw]
        · by_cases hv : v = d j
          · subst hv
            by_cases hk : k < j
            · simp [set, hw, get, h', hk, get_dropLe_low d j k r (by omega)]
            · simp [set, hw, get, h', hk, get_dropLe d j k r (by omega)]
          · simp [set, hw, hv, get, h']
      · simp only [set, h1, h2, if_false, get, ih]

/-- Read after write in one form. -/
theorem get_set (d : Nat → α) (t : Tab α) (i k : Nat) (v : α) :
    get d (set d t i v) k = if k = i then v else get d t k := by
  split
  · next h => subst h; simp
  · next h => exact get_set_ne d t i k v h

/-- Writing what a key reads as changes nothing. -/
@[simp] theorem set_get (d : Nat → α) (t : Tab α) (i : Nat) : set d t i (get d t i) = t := by
  induction t with
  | nil => simp [set]
  | cons p r ih =>
    obtain ⟨j, w⟩ := p
    by_cases h1 : i < j
    · have : j ≠ i := by omega
      simp [set, get, h1, this]
    · by_cases h2 : j = i
      · subst h2; simp [set, get]
      · simp [set, get, h1, h2, ih]

/-! ### The canonical form -/

/-- A later start is a weaker demand. -/
theorem wfFrom_mono (d : Nat → α) {a b : Nat} (h : a ≤ b) {t : Tab α} (w : wfFrom d b t = true) : wfFrom d a t = true := by
  cases t with
  | nil => rfl
  | cons p r =>
    obtain ⟨j, v⟩ := p
    simp only [wfFrom, Bool.and_eq_true, decide_eq_true_eq] at w ⊢
    exact ⟨⟨by omega, w.1.2⟩, w.2⟩

/-- A canonical table that starts after `i` has nothing to drop up to `i`. -/
theorem dropLe_wf (d : Nat → α) (i : Nat) {lo : Nat} {t : Tab α} (w : wfFrom d lo t = true) :
    wfFrom d (max lo (i + 1)) (dropLe i t) = true := by
  induction t generalizing lo with
  | nil => rfl
  | cons p r ih =>
    obtain ⟨j, v⟩ := p
    simp only [wfFrom, Bool.and_eq_true, decide_eq_true_eq] at w
    by_cases hj : j ≤ i
    · simp only [dropLe, hj, if_true]
      exact wfFrom_mono d (by omega) (ih w.2)
    · simp only [dropLe, hj, if_false, wfFrom, Bool.and_eq_true, decide_eq_true_eq]
      exact ⟨⟨by omega, w.1.2⟩, w.2⟩

/-- A write keeps the canonical form. -/
theorem wfFrom_set (d : Nat → α) {lo : Nat} {t : Tab α} (i : Nat) (v : α) (w : wfFrom d lo t = true) (h : lo ≤ i) :
    wfFrom d lo (set d t i v) = true := by
  induction t generalizing lo with
  | nil =>
    by_cases hv : v = d i
    · simp [set, hv, wfFrom]
    · simp [set, hv, wfFrom, h]
  | cons p r ih =>
    obtain ⟨j, x⟩ := p
    simp only [wfFrom, Bool.and_eq_true, decide_eq_true_eq] at w
    obtain ⟨⟨h1, h2⟩, h3⟩ := w
    by_cases hij : i < j
    · by_cases hv : v = d i
      · simp [set, hij, hv, wfFrom, h1, h2, h3]
      · simp only [set, hij, hv, if_true, if_false, wfFrom, Bool.and_eq_true, decide_eq_true_eq]
        exact ⟨⟨h, hv⟩, ⟨by omega, h2⟩, h3⟩
    · by_cases he : j = i
      · subst he
        by_cases hw : v = x
        · simp only [set, hij, hw, if_true, if_false, wfFrom, Bool.and_eq_true, decide_eq_true_eq]
          exact ⟨⟨h1, h2⟩, h3⟩
        · by_cases hv : v = d j
          · subst hv
            simp only [set, hij, hw, if_true, if_false]
            exact wfFrom_mono d (by omega) (dropLe_wf d j h3)
          · simp only [set, hij, hw, hv, if_true, if_false, wfFrom, Bool.and_eq_true, decide_eq_true_eq]
            exact ⟨⟨h1, hv⟩, h3⟩
      · simp only [set, hij, he, if_false, wfFrom, Bool.and_eq_true, decide_eq_true_eq]
        exact ⟨⟨h1, h2⟩, ih h3 (by omega)⟩

/-- A write keeps a whole table canonical. -/
theorem wf_set (d : Nat → α) {t : Tab α} (i : Nat) (v : α) (w : wf d t = true) : wf d (set d t i v) = true :=
  wfFrom_set d i v w (Nat.zero_le i)

/-- The bound under which every key of a canonical table from `lo` lies, and nothing default is listed. -/
theorem wfFrom_iff (d : Nat → α) {lo : Nat} {t : Tab α} :
    wfFrom d lo t = true ↔ t.Pairwise (fun p q => p.1 < q.1) ∧ ∀ p ∈ t, lo ≤ p.1 ∧ p.2 ≠ d p.1 := by
  induction t generalizing lo with
  | nil => simp [wfFrom]
  | cons p r ih =>
    obtain ⟨j, v⟩ := p
    simp only [wfFrom, Bool.and_eq_true, decide_eq_true_eq, ih, List.pairwise_cons, List.mem_cons, forall_eq_or_imp]
    constructor
    · rintro ⟨⟨h1, h2⟩, h3, h4⟩
      exact ⟨⟨fun q hq => by have := (h4 q hq).1; omega, h3⟩, ⟨h1, h2⟩, fun q hq => ⟨by have := (h4 q hq).1; omega, (h4 q hq).2⟩⟩
    · rintro ⟨⟨h1, h2⟩, ⟨h3, h4⟩, h5⟩
      exact ⟨⟨h3, h4⟩, h2, fun q hq => ⟨by have := h1 q hq; omega, (h5 q hq).2⟩⟩

/-- Leaving entries out keeps the canonical form. -/
theorem wf_sublist (d : Nat → α) {t u : Tab α} (h : u.Sublist t) (w : wf d t = true) : wf d u = true := by
  have w' := (wfFrom_iff d).1 w
  exact (wfFrom_iff d).2 ⟨w'.1.sublist h, fun p hp => w'.2 p (h.subset hp)⟩

end Sys2Proof.Tab
end

