-- ==== Sys2Proof/Laws/State.lean ====
section
/-! SUPPORT. One law per field and update of the state: what an update writes reads back, and every other field is as it was. -/

namespace Sys2Proof.Machine
variable (s : State)

/-! ### What an update writes -/

@[simp] theorem ctxAt_setCtx (i : Nat) (c : Ctx) : (s.setCtx i c).ctxAt i = c := by simp [State.setCtx, State.ctxAt]
theorem ctxAt_setCtx_ne (i j : Nat) (c : Ctx) (h : j ≠ i) : (s.setCtx i c).ctxAt j = s.ctxAt j := Tab.get_set_ne _ _ _ _ _ h
@[simp] theorem ctxAt_modCtx (i : Nat) (f : Ctx → Ctx) : (s.modCtx i f).ctxAt i = f (s.ctxAt i) := ctxAt_setCtx s i _
theorem ctxAt_modCtx_ne (i j : Nat) (f : Ctx → Ctx) (h : j ≠ i) : (s.modCtx i f).ctxAt j = s.ctxAt j := ctxAt_setCtx_ne s i j _ h
@[simp] theorem engAt_setEng (k : Nat) (e : Engine) : (s.setEng k e).engAt k = e := by simp [State.setEng, State.engAt]
theorem engAt_setEng_ne (k j : Nat) (e : Engine) (h : j ≠ k) : (s.setEng k e).engAt j = s.engAt j := Tab.get_set_ne _ _ _ _ _ h
@[simp] theorem engAt_modEng (k : Nat) (f : Engine → Engine) : (s.modEng k f).engAt k = f (s.engAt k) := engAt_setEng s k _
theorem engAt_modEng_ne (k j : Nat) (f : Engine → Engine) (h : j ≠ k) : (s.modEng k f).engAt j = s.engAt j := engAt_setEng_ne s k j _ h
@[simp] theorem trainAt_setTrain (t : Nat) (x : Train) : (s.setTrain t x).trainAt t = x := by simp [State.setTrain, State.trainAt]
theorem trainAt_setTrain_ne (t u : Nat) (x : Train) (h : u ≠ t) : (s.setTrain t x).trainAt u = s.trainAt u := Tab.get_set_ne _ _ _ _ _ h
@[simp] theorem trainAt_modTrain (t : Nat) (f : Train → Train) : (s.modTrain t f).trainAt t = f (s.trainAt t) := trainAt_setTrain s t _
theorem trainAt_modTrain_ne (t u : Nat) (f : Train → Train) (h : u ≠ t) : (s.modTrain t f).trainAt u = s.trainAt u :=
  trainAt_setTrain_ne s t u _ h
@[simp] theorem outAt_modOut (n : Nat) (f : Outlet → Outlet) : (s.modOut n f).outAt n = f (s.outAt n) := by
  simp [State.modOut, State.outAt]
theorem outAt_modOut_ne (n m : Nat) (f : Outlet → Outlet) (h : m ≠ n) : (s.modOut n f).outAt m = s.outAt m := Tab.get_set_ne _ _ _ _ _ h
@[simp] theorem fwAt_modFw (w : Nat) (f : FW → FW) : (s.modFw w f).fwAt w = f (s.fwAt w) := by simp [State.modFw, State.fwAt]
theorem fwAt_modFw_ne (w v : Nat) (f : FW → FW) (h : v ≠ w) : (s.modFw w f).fwAt v = s.fwAt v := Tab.get_set_ne _ _ _ _ _ h
@[simp] theorem grpAt_modGrp (g : Nat) (f : Grp → Grp) : (s.modGrp g f).grpAt g = f (s.grpAt g) := by simp [State.modGrp, State.grpAt]
@[simp] theorem dialAt_modDial (n : Nat) (f : Dial → Dial) : (s.modDial n f).dialAt n = f (s.dialAt n) := by
  simp [State.modDial, State.dialAt]
@[simp] theorem cvcAt_modCvc (n : Nat) (f : Cvc → Cvc) : (s.modCvc n f).cvcAt n = f (s.cvcAt n) := by simp [State.modCvc, State.cvcAt]
@[simp] theorem tripAt_modTrip (n : Nat) (f : Trip → Trip) : (s.modTrip n f).tripAt n = f (s.tripAt n) := by
  simp [State.modTrip, State.tripAt]
@[simp] theorem mboxAt_modMbox (t m : Nat) (f : Mbox → Mbox) : (s.modMbox t m f).mboxAt t m = f (s.mboxAt t m) := by
  simp [State.modMbox, State.mboxAt]
@[simp] theorem byteAt_setByte (a : Nat) (b : Byte) : (s.setByte a b).byteAt a = b := by simp [State.setByte, State.byteAt]
theorem byteAt_setByte_ne (a x : Nat) (b : Byte) (h : x ≠ a) : (s.setByte a b).byteAt x = s.byteAt x := Tab.get_set_ne _ _ _ _ _ h

/-! ### What an update leaves -/

@[simp] theorem setCtx_variant (i : Nat) (c : Ctx) : (s.setCtx i c).variant = s.variant := rfl
@[simp] theorem setCtx_time (i : Nat) (c : Ctx) : (s.setCtx i c).time = s.time := rfl
@[simp] theorem setCtx_pending (i : Nat) (c : Ctx) : (s.setCtx i c).pending = s.pending := rfl
@[simp] theorem setCtx_freeCtr (i : Nat) (c : Ctx) : (s.setCtx i c).freeCtr = s.freeCtr := rfl
@[simp] theorem setCtx_mem (i : Nat) (c : Ctx) : (s.setCtx i c).mem = s.mem := rfl
@[simp] theorem setCtx_ue (i : Nat) (c : Ctx) : (s.setCtx i c).ue = s.ue := rfl
@[simp] theorem setCtx_ce (i : Nat) (c : Ctx) : (s.setCtx i c).ce = s.ce := rfl
@[simp] theorem setCtx_scratch (i : Nat) (c : Ctx) : (s.setCtx i c).scratch = s.scratch := rfl
@[simp] theorem setCtx_eng (i : Nat) (c : Ctx) : (s.setCtx i c).eng = s.eng := rfl
@[simp] theorem setCtx_train (i : Nat) (c : Ctx) : (s.setCtx i c).train = s.train := rfl
@[simp] theorem setCtx_win (i : Nat) (c : Ctx) : (s.setCtx i c).win = s.win := rfl
@[simp] theorem setCtx_inletAt (i : Nat) (c : Ctx) : (s.setCtx i c).inletAt = s.inletAt := rfl
@[simp] theorem setCtx_outlet (i : Nat) (c : Ctx) : (s.setCtx i c).outlet = s.outlet := rfl
@[simp] theorem setCtx_grp (i : Nat) (c : Ctx) : (s.setCtx i c).grp = s.grp := rfl
@[simp] theorem setCtx_sel (i : Nat) (c : Ctx) : (s.setCtx i c).sel = s.sel := rfl
@[simp] theorem setCtx_dial (i : Nat) (c : Ctx) : (s.setCtx i c).dial = s.dial := rfl
@[simp] theorem setCtx_pgAt (i : Nat) (c : Ctx) : (s.setCtx i c).pgAt = s.pgAt := rfl
@[simp] theorem setCtx_safeQ (i : Nat) (c : Ctx) : (s.setCtx i c).safeQ = s.safeQ := rfl
@[simp] theorem setCtx_cvc (i : Nat) (c : Ctx) : (s.setCtx i c).cvc = s.cvc := rfl
@[simp] theorem setCtx_trip (i : Nat) (c : Ctx) : (s.setCtx i c).trip = s.trip := rfl
@[simp] theorem setCtx_fw (i : Nat) (c : Ctx) : (s.setCtx i c).fw = s.fw := rfl
@[simp] theorem setCtx_quench (i : Nat) (c : Ctx) : (s.setCtx i c).quench = s.quench := rfl
@[simp] theorem setCtx_fences (i : Nat) (c : Ctx) : (s.setCtx i c).fences = s.fences := rfl
@[simp] theorem setCtx_rgl (i : Nat) (c : Ctx) : (s.setCtx i c).rgl = s.rgl := rfl
@[simp] theorem setCtx_slotA (i : Nat) (c : Ctx) : (s.setCtx i c).slotA = s.slotA := rfl
@[simp] theorem setCtx_slotB (i : Nat) (c : Ctx) : (s.setCtx i c).slotB = s.slotB := rfl
@[simp] theorem setCtx_upg (i : Nat) (c : Ctx) : (s.setCtx i c).upg = s.upg := rfl
@[simp] theorem setCtx_gf (i : Nat) (c : Ctx) : (s.setCtx i c).gf = s.gf := rfl
@[simp] theorem setCtx_esc (i : Nat) (c : Ctx) : (s.setCtx i c).esc = s.esc := rfl
@[simp] theorem setCtx_rmt (i : Nat) (c : Ctx) : (s.setCtx i c).rmt = s.rmt := rfl
@[simp] theorem setCtx_link (i : Nat) (c : Ctx) : (s.setCtx i c).link = s.link := rfl
@[simp] theorem setCtx_tap (i : Nat) (c : Ctx) : (s.setCtx i c).tap = s.tap := rfl
@[simp] theorem setCtx_dbg (i : Nat) (c : Ctx) : (s.setCtx i c).dbg = s.dbg := rfl
@[simp] theorem setCtx_power (i : Nat) (c : Ctx) : (s.setCtx i c).power = s.power := rfl
@[simp] theorem setCtx_lcs (i : Nat) (c : Ctx) : (s.setCtx i c).lcs = s.lcs := rfl
@[simp] theorem setCtx_pins (i : Nat) (c : Ctx) : (s.setCtx i c).pins = s.pins := rfl
@[simp] theorem setCtx_host (i : Nat) (c : Ctx) : (s.setCtx i c).host = s.host := rfl
@[simp] theorem engAt_setCtx (i : Nat) (c : Ctx) (y : Nat) : (s.setCtx i c).engAt y = s.engAt y := rfl
@[simp] theorem trainAt_setCtx (i : Nat) (c : Ctx) (y : Nat) : (s.setCtx i c).trainAt y = s.trainAt y := rfl
@[simp] theorem outAt_setCtx (i : Nat) (c : Ctx) (y : Nat) : (s.setCtx i c).outAt y = s.outAt y := rfl
@[simp] theorem fwAt_setCtx (i : Nat) (c : Ctx) (y : Nat) : (s.setCtx i c).fwAt y = s.fwAt y := rfl
@[simp] theorem byteAt_setCtx (i : Nat) (c : Ctx) (y : Nat) : (s.setCtx i c).byteAt y = s.byteAt y := rfl

@[simp] theorem modCtx_variant (i : Nat) (f : Ctx → Ctx) : (s.modCtx i f).variant = s.variant := rfl
@[simp] theorem modCtx_time (i : Nat) (f : Ctx → Ctx) : (s.modCtx i f).time = s.time := rfl
@[simp] theorem modCtx_pending (i : Nat) (f : Ctx → Ctx) : (s.modCtx i f).pending = s.pending := rfl
@[simp] theorem modCtx_freeCtr (i : Nat) (f : Ctx → Ctx) : (s.modCtx i f).freeCtr = s.freeCtr := rfl
@[simp] theorem modCtx_mem (i : Nat) (f : Ctx → Ctx) : (s.modCtx i f).mem = s.mem := rfl
@[simp] theorem modCtx_ue (i : Nat) (f : Ctx → Ctx) : (s.modCtx i f).ue = s.ue := rfl
@[simp] theorem modCtx_ce (i : Nat) (f : Ctx → Ctx) : (s.modCtx i f).ce = s.ce := rfl
@[simp] theorem modCtx_scratch (i : Nat) (f : Ctx → Ctx) : (s.modCtx i f).scratch = s.scratch := rfl
@[simp] theorem modCtx_eng (i : Nat) (f : Ctx → Ctx) : (s.modCtx i f).eng = s.eng := rfl
@[simp] theorem modCtx_train (i : Nat) (f : Ctx → Ctx) : (s.modCtx i f).train = s.train := rfl
@[simp] theorem modCtx_win (i : Nat) (f : Ctx → Ctx) : (s.modCtx i f).win = s.win := rfl
@[simp] theorem modCtx_inletAt (i : Nat) (f : Ctx → Ctx) : (s.modCtx i f).inletAt = s.inletAt := rfl
@[simp] theorem modCtx_outlet (i : Nat) (f : Ctx → Ctx) : (s.modCtx i f).outlet = s.outlet := rfl
@[simp] theorem modCtx_grp (i : Nat) (f : Ctx → Ctx) : (s.modCtx i f).grp = s.grp := rfl
@[simp] theorem modCtx_sel (i : Nat) (f : Ctx → Ctx) : (s.modCtx i f).sel = s.sel := rfl
@[simp] theorem modCtx_dial (i : Nat) (f : Ctx → Ctx) : (s.modCtx i f).dial = s.dial := rfl
@[simp] theorem modCtx_pgAt (i : Nat) (f : Ctx → Ctx) : (s.modCtx i f).pgAt = s.pgAt := rfl
@[simp] theorem modCtx_safeQ (i : Nat) (f : Ctx → Ctx) : (s.modCtx i f).safeQ = s.safeQ := rfl
@[simp] theorem modCtx_cvc (i : Nat) (f : Ctx → Ctx) : (s.modCtx i f).cvc = s.cvc := rfl
@[simp] theorem modCtx_trip (i : Nat) (f : Ctx → Ctx) : (s.modCtx i f).trip = s.trip := rfl
@[simp] theorem modCtx_fw (i : Nat) (f : Ctx → Ctx) : (s.modCtx i f).fw = s.fw := rfl
@[simp] theorem modCtx_quench (i : Nat) (f : Ctx → Ctx) : (s.modCtx i f).quench = s.quench := rfl
@[simp] theorem modCtx_fences (i : Nat) (f : Ctx → Ctx) : (s.modCtx i f).fences = s.fences := rfl
@[simp] theorem modCtx_rgl (i : Nat) (f : Ctx → Ctx) : (s.modCtx i f).rgl = s.rgl := rfl
@[simp] theorem modCtx_slotA (i : Nat) (f : Ctx → Ctx) : (s.modCtx i f).slotA = s.slotA := rfl
@[simp] theorem modCtx_slotB (i : Nat) (f : Ctx → Ctx) : (s.modCtx i f).slotB = s.slotB := rfl
@[simp] theorem modCtx_upg (i : Nat) (f : Ctx → Ctx) : (s.modCtx i f).upg = s.upg := rfl
@[simp] theorem modCtx_gf (i : Nat) (f : Ctx → Ctx) : (s.modCtx i f).gf = s.gf := rfl
@[simp] theorem modCtx_esc (i : Nat) (f : Ctx → Ctx) : (s.modCtx i f).esc = s.esc := rfl
@[simp] theorem modCtx_rmt (i : Nat) (f : Ctx → Ctx) : (s.modCtx i f).rmt = s.rmt := rfl
@[simp] theorem modCtx_link (i : Nat) (f : Ctx → Ctx) : (s.modCtx i f).link = s.link := rfl
@[simp] theorem modCtx_tap (i : Nat) (f : Ctx → Ctx) : (s.modCtx i f).tap = s.tap := rfl
@[simp] theorem modCtx_dbg (i : Nat) (f : Ctx → Ctx) : (s.modCtx i f).dbg = s.dbg := rfl
@[simp] theorem modCtx_power (i : Nat) (f : Ctx → Ctx) : (s.modCtx i f).power = s.power := rfl
@[simp] theorem modCtx_lcs (i : Nat) (f : Ctx → Ctx) : (s.modCtx i f).lcs = s.lcs := rfl
@[simp] theorem modCtx_pins (i : Nat) (f : Ctx → Ctx) : (s.modCtx i f).pins = s.pins := rfl
@[simp] theorem modCtx_host (i : Nat) (f : Ctx → Ctx) : (s.modCtx i f).host = s.host := rfl
@[simp] theorem engAt_modCtx (i : Nat) (f : Ctx → Ctx) (y : Nat) : (s.modCtx i f).engAt y = s.engAt y := rfl
@[simp] theorem trainAt_modCtx (i : Nat) (f : Ctx → Ctx) (y : Nat) : (s.modCtx i f).trainAt y = s.trainAt y := rfl
@[simp] theorem outAt_modCtx (i : Nat) (f : Ctx → Ctx) (y : Nat) : (s.modCtx i f).outAt y = s.outAt y := rfl
@[simp] theorem fwAt_modCtx (i : Nat) (f : Ctx → Ctx) (y : Nat) : (s.modCtx i f).fwAt y = s.fwAt y := rfl
@[simp] theorem byteAt_modCtx (i : Nat) (f : Ctx → Ctx) (y : Nat) : (s.modCtx i f).byteAt y = s.byteAt y := rfl

@[simp] theorem setEng_variant (k : Nat) (e : Engine) : (s.setEng k e).variant = s.variant := rfl
@[simp] theorem setEng_time (k : Nat) (e : Engine) : (s.setEng k e).time = s.time := rfl
@[simp] theorem setEng_pending (k : Nat) (e : Engine) : (s.setEng k e).pending = s.pending := rfl
@[simp] theorem setEng_freeCtr (k : Nat) (e : Engine) : (s.setEng k e).freeCtr = s.freeCtr := rfl
@[simp] theorem setEng_mem (k : Nat) (e : Engine) : (s.setEng k e).mem = s.mem := rfl
@[simp] theorem setEng_ue (k : Nat) (e : Engine) : (s.setEng k e).ue = s.ue := rfl
@[simp] theorem setEng_ce (k : Nat) (e : Engine) : (s.setEng k e).ce = s.ce := rfl
@[simp] theorem setEng_scratch (k : Nat) (e : Engine) : (s.setEng k e).scratch = s.scratch := rfl
@[simp] theorem setEng_ctx (k : Nat) (e : Engine) : (s.setEng k e).ctx = s.ctx := rfl
@[simp] theorem setEng_train (k : Nat) (e : Engine) : (s.setEng k e).train = s.train := rfl
@[simp] theorem setEng_win (k : Nat) (e : Engine) : (s.setEng k e).win = s.win := rfl
@[simp] theorem setEng_inletAt (k : Nat) (e : Engine) : (s.setEng k e).inletAt = s.inletAt := rfl
@[simp] theorem setEng_outlet (k : Nat) (e : Engine) : (s.setEng k e).outlet = s.outlet := rfl
@[simp] theorem setEng_grp (k : Nat) (e : Engine) : (s.setEng k e).grp = s.grp := rfl
@[simp] theorem setEng_sel (k : Nat) (e : Engine) : (s.setEng k e).sel = s.sel := rfl
@[simp] theorem setEng_dial (k : Nat) (e : Engine) : (s.setEng k e).dial = s.dial := rfl
@[simp] theorem setEng_pgAt (k : Nat) (e : Engine) : (s.setEng k e).pgAt = s.pgAt := rfl
@[simp] theorem setEng_safeQ (k : Nat) (e : Engine) : (s.setEng k e).safeQ = s.safeQ := rfl
@[simp] theorem setEng_cvc (k : Nat) (e : Engine) : (s.setEng k e).cvc = s.cvc := rfl
@[simp] theorem setEng_trip (k : Nat) (e : Engine) : (s.setEng k e).trip = s.trip := rfl
@[simp] theorem setEng_fw (k : Nat) (e : Engine) : (s.setEng k e).fw = s.fw := rfl
@[simp] theorem setEng_quench (k : Nat) (e : Engine) : (s.setEng k e).quench = s.quench := rfl
@[simp] theorem setEng_fences (k : Nat) (e : Engine) : (s.setEng k e).fences = s.fences := rfl
@[simp] theorem setEng_rgl (k : Nat) (e : Engine) : (s.setEng k e).rgl = s.rgl := rfl
@[simp] theorem setEng_slotA (k : Nat) (e : Engine) : (s.setEng k e).slotA = s.slotA := rfl
@[simp] theorem setEng_slotB (k : Nat) (e : Engine) : (s.setEng k e).slotB = s.slotB := rfl
@[simp] theorem setEng_upg (k : Nat) (e : Engine) : (s.setEng k e).upg = s.upg := rfl
@[simp] theorem setEng_gf (k : Nat) (e : Engine) : (s.setEng k e).gf = s.gf := rfl
@[simp] theorem setEng_esc (k : Nat) (e : Engine) : (s.setEng k e).esc = s.esc := rfl
@[simp] theorem setEng_rmt (k : Nat) (e : Engine) : (s.setEng k e).rmt = s.rmt := rfl
@[simp] theorem setEng_link (k : Nat) (e : Engine) : (s.setEng k e).link = s.link := rfl
@[simp] theorem setEng_tap (k : Nat) (e : Engine) : (s.setEng k e).tap = s.tap := rfl
@[simp] theorem setEng_dbg (k : Nat) (e : Engine) : (s.setEng k e).dbg = s.dbg := rfl
@[simp] theorem setEng_power (k : Nat) (e : Engine) : (s.setEng k e).power = s.power := rfl
@[simp] theorem setEng_lcs (k : Nat) (e : Engine) : (s.setEng k e).lcs = s.lcs := rfl
@[simp] theorem setEng_pins (k : Nat) (e : Engine) : (s.setEng k e).pins = s.pins := rfl
@[simp] theorem setEng_host (k : Nat) (e : Engine) : (s.setEng k e).host = s.host := rfl
@[simp] theorem ctxAt_setEng (k : Nat) (e : Engine) (y : Nat) : (s.setEng k e).ctxAt y = s.ctxAt y := rfl
@[simp] theorem trainAt_setEng (k : Nat) (e : Engine) (y : Nat) : (s.setEng k e).trainAt y = s.trainAt y := rfl
@[simp] theorem outAt_setEng (k : Nat) (e : Engine) (y : Nat) : (s.setEng k e).outAt y = s.outAt y := rfl
@[simp] theorem fwAt_setEng (k : Nat) (e : Engine) (y : Nat) : (s.setEng k e).fwAt y = s.fwAt y := rfl
@[simp] theorem byteAt_setEng (k : Nat) (e : Engine) (y : Nat) : (s.setEng k e).byteAt y = s.byteAt y := rfl

@[simp] theorem modEng_variant (k : Nat) (f : Engine → Engine) : (s.modEng k f).variant = s.variant := rfl
@[simp] theorem modEng_time (k : Nat) (f : Engine → Engine) : (s.modEng k f).time = s.time := rfl
@[simp] theorem modEng_pending (k : Nat) (f : Engine → Engine) : (s.modEng k f).pending = s.pending := rfl
@[simp] theorem modEng_freeCtr (k : Nat) (f : Engine → Engine) : (s.modEng k f).freeCtr = s.freeCtr := rfl
@[simp] theorem modEng_mem (k : Nat) (f : Engine → Engine) : (s.modEng k f).mem = s.mem := rfl
@[simp] theorem modEng_ue (k : Nat) (f : Engine → Engine) : (s.modEng k f).ue = s.ue := rfl
@[simp] theorem modEng_ce (k : Nat) (f : Engine → Engine) : (s.modEng k f).ce = s.ce := rfl
@[simp] theorem modEng_scratch (k : Nat) (f : Engine → Engine) : (s.modEng k f).scratch = s.scratch := rfl
@[simp] theorem modEng_ctx (k : Nat) (f : Engine → Engine) : (s.modEng k f).ctx = s.ctx := rfl
@[simp] theorem modEng_train (k : Nat) (f : Engine → Engine) : (s.modEng k f).train = s.train := rfl
@[simp] theorem modEng_win (k : Nat) (f : Engine → Engine) : (s.modEng k f).win = s.win := rfl
@[simp] theorem modEng_inletAt (k : Nat) (f : Engine → Engine) : (s.modEng k f).inletAt = s.inletAt := rfl
@[simp] theorem modEng_outlet (k : Nat) (f : Engine → Engine) : (s.modEng k f).outlet = s.outlet := rfl
@[simp] theorem modEng_grp (k : Nat) (f : Engine → Engine) : (s.modEng k f).grp = s.grp := rfl
@[simp] theorem modEng_sel (k : Nat) (f : Engine → Engine) : (s.modEng k f).sel = s.sel := rfl
@[simp] theorem modEng_dial (k : Nat) (f : Engine → Engine) : (s.modEng k f).dial = s.dial := rfl
@[simp] theorem modEng_pgAt (k : Nat) (f : Engine → Engine) : (s.modEng k f).pgAt = s.pgAt := rfl
@[simp] theorem modEng_safeQ (k : Nat) (f : Engine → Engine) : (s.modEng k f).safeQ = s.safeQ := rfl
@[simp] theorem modEng_cvc (k : Nat) (f : Engine → Engine) : (s.modEng k f).cvc = s.cvc := rfl
@[simp] theorem modEng_trip (k : Nat) (f : Engine → Engine) : (s.modEng k f).trip = s.trip := rfl
@[simp] theorem modEng_fw (k : Nat) (f : Engine → Engine) : (s.modEng k f).fw = s.fw := rfl
@[simp] theorem modEng_quench (k : Nat) (f : Engine → Engine) : (s.modEng k f).quench = s.quench := rfl
@[simp] theorem modEng_fences (k : Nat) (f : Engine → Engine) : (s.modEng k f).fences = s.fences := rfl
@[simp] theorem modEng_rgl (k : Nat) (f : Engine → Engine) : (s.modEng k f).rgl = s.rgl := rfl
@[simp] theorem modEng_slotA (k : Nat) (f : Engine → Engine) : (s.modEng k f).slotA = s.slotA := rfl
@[simp] theorem modEng_slotB (k : Nat) (f : Engine → Engine) : (s.modEng k f).slotB = s.slotB := rfl
@[simp] theorem modEng_upg (k : Nat) (f : Engine → Engine) : (s.modEng k f).upg = s.upg := rfl
@[simp] theorem modEng_gf (k : Nat) (f : Engine → Engine) : (s.modEng k f).gf = s.gf := rfl
@[simp] theorem modEng_esc (k : Nat) (f : Engine → Engine) : (s.modEng k f).esc = s.esc := rfl
@[simp] theorem modEng_rmt (k : Nat) (f : Engine → Engine) : (s.modEng k f).rmt = s.rmt := rfl
@[simp] theorem modEng_link (k : Nat) (f : Engine → Engine) : (s.modEng k f).link = s.link := rfl
@[simp] theorem modEng_tap (k : Nat) (f : Engine → Engine) : (s.modEng k f).tap = s.tap := rfl
@[simp] theorem modEng_dbg (k : Nat) (f : Engine → Engine) : (s.modEng k f).dbg = s.dbg := rfl
@[simp] theorem modEng_power (k : Nat) (f : Engine → Engine) : (s.modEng k f).power = s.power := rfl
@[simp] theorem modEng_lcs (k : Nat) (f : Engine → Engine) : (s.modEng k f).lcs = s.lcs := rfl
@[simp] theorem modEng_pins (k : Nat) (f : Engine → Engine) : (s.modEng k f).pins = s.pins := rfl
@[simp] theorem modEng_host (k : Nat) (f : Engine → Engine) : (s.modEng k f).host = s.host := rfl
@[simp] theorem ctxAt_modEng (k : Nat) (f : Engine → Engine) (y : Nat) : (s.modEng k f).ctxAt y = s.ctxAt y := rfl
@[simp] theorem trainAt_modEng (k : Nat) (f : Engine → Engine) (y : Nat) : (s.modEng k f).trainAt y = s.trainAt y := rfl
@[simp] theorem outAt_modEng (k : Nat) (f : Engine → Engine) (y : Nat) : (s.modEng k f).outAt y = s.outAt y := rfl
@[simp] theorem fwAt_modEng (k : Nat) (f : Engine → Engine) (y : Nat) : (s.modEng k f).fwAt y = s.fwAt y := rfl
@[simp] theorem byteAt_modEng (k : Nat) (f : Engine → Engine) (y : Nat) : (s.modEng k f).byteAt y = s.byteAt y := rfl

@[simp] theorem setTrain_variant (t : Nat) (x : Train) : (s.setTrain t x).variant = s.variant := rfl
@[simp] theorem setTrain_time (t : Nat) (x : Train) : (s.setTrain t x).time = s.time := rfl
@[simp] theorem setTrain_pending (t : Nat) (x : Train) : (s.setTrain t x).pending = s.pending := rfl
@[simp] theorem setTrain_freeCtr (t : Nat) (x : Train) : (s.setTrain t x).freeCtr = s.freeCtr := rfl
@[simp] theorem setTrain_mem (t : Nat) (x : Train) : (s.setTrain t x).mem = s.mem := rfl
@[simp] theorem setTrain_ue (t : Nat) (x : Train) : (s.setTrain t x).ue = s.ue := rfl
@[simp] theorem setTrain_ce (t : Nat) (x : Train) : (s.setTrain t x).ce = s.ce := rfl
@[simp] theorem setTrain_scratch (t : Nat) (x : Train) : (s.setTrain t x).scratch = s.scratch := rfl
@[simp] theorem setTrain_ctx (t : Nat) (x : Train) : (s.setTrain t x).ctx = s.ctx := rfl
@[simp] theorem setTrain_eng (t : Nat) (x : Train) : (s.setTrain t x).eng = s.eng := rfl
@[simp] theorem setTrain_win (t : Nat) (x : Train) : (s.setTrain t x).win = s.win := rfl
@[simp] theorem setTrain_inletAt (t : Nat) (x : Train) : (s.setTrain t x).inletAt = s.inletAt := rfl
@[simp] theorem setTrain_outlet (t : Nat) (x : Train) : (s.setTrain t x).outlet = s.outlet := rfl
@[simp] theorem setTrain_grp (t : Nat) (x : Train) : (s.setTrain t x).grp = s.grp := rfl
@[simp] theorem setTrain_sel (t : Nat) (x : Train) : (s.setTrain t x).sel = s.sel := rfl
@[simp] theorem setTrain_dial (t : Nat) (x : Train) : (s.setTrain t x).dial = s.dial := rfl
@[simp] theorem setTrain_pgAt (t : Nat) (x : Train) : (s.setTrain t x).pgAt = s.pgAt := rfl
@[simp] theorem setTrain_safeQ (t : Nat) (x : Train) : (s.setTrain t x).safeQ = s.safeQ := rfl
@[simp] theorem setTrain_cvc (t : Nat) (x : Train) : (s.setTrain t x).cvc = s.cvc := rfl
@[simp] theorem setTrain_trip (t : Nat) (x : Train) : (s.setTrain t x).trip = s.trip := rfl
@[simp] theorem setTrain_fw (t : Nat) (x : Train) : (s.setTrain t x).fw = s.fw := rfl
@[simp] theorem setTrain_quench (t : Nat) (x : Train) : (s.setTrain t x).quench = s.quench := rfl
@[simp] theorem setTrain_fences (t : Nat) (x : Train) : (s.setTrain t x).fences = s.fences := rfl
@[simp] theorem setTrain_rgl (t : Nat) (x : Train) : (s.setTrain t x).rgl = s.rgl := rfl
@[simp] theorem setTrain_slotA (t : Nat) (x : Train) : (s.setTrain t x).slotA = s.slotA := rfl
@[simp] theorem setTrain_slotB (t : Nat) (x : Train) : (s.setTrain t x).slotB = s.slotB := rfl
@[simp] theorem setTrain_upg (t : Nat) (x : Train) : (s.setTrain t x).upg = s.upg := rfl
@[simp] theorem setTrain_gf (t : Nat) (x : Train) : (s.setTrain t x).gf = s.gf := rfl
@[simp] theorem setTrain_esc (t : Nat) (x : Train) : (s.setTrain t x).esc = s.esc := rfl
@[simp] theorem setTrain_rmt (t : Nat) (x : Train) : (s.setTrain t x).rmt = s.rmt := rfl
@[simp] theorem setTrain_link (t : Nat) (x : Train) : (s.setTrain t x).link = s.link := rfl
@[simp] theorem setTrain_tap (t : Nat) (x : Train) : (s.setTrain t x).tap = s.tap := rfl
@[simp] theorem setTrain_dbg (t : Nat) (x : Train) : (s.setTrain t x).dbg = s.dbg := rfl
@[simp] theorem setTrain_power (t : Nat) (x : Train) : (s.setTrain t x).power = s.power := rfl
@[simp] theorem setTrain_lcs (t : Nat) (x : Train) : (s.setTrain t x).lcs = s.lcs := rfl
@[simp] theorem setTrain_pins (t : Nat) (x : Train) : (s.setTrain t x).pins = s.pins := rfl
@[simp] theorem setTrain_host (t : Nat) (x : Train) : (s.setTrain t x).host = s.host := rfl
@[simp] theorem ctxAt_setTrain (t : Nat) (x : Train) (y : Nat) : (s.setTrain t x).ctxAt y = s.ctxAt y := rfl
@[simp] theorem engAt_setTrain (t : Nat) (x : Train) (y : Nat) : (s.setTrain t x).engAt y = s.engAt y := rfl
@[simp] theorem outAt_setTrain (t : Nat) (x : Train) (y : Nat) : (s.setTrain t x).outAt y = s.outAt y := rfl
@[simp] theorem fwAt_setTrain (t : Nat) (x : Train) (y : Nat) : (s.setTrain t x).fwAt y = s.fwAt y := rfl
@[simp] theorem byteAt_setTrain (t : Nat) (x : Train) (y : Nat) : (s.setTrain t x).byteAt y = s.byteAt y := rfl

@[simp] theorem modTrain_variant (t : Nat) (f : Train → Train) : (s.modTrain t f).variant = s.variant := rfl
@[simp] theorem modTrain_time (t : Nat) (f : Train → Train) : (s.modTrain t f).time = s.time := rfl
@[simp] theorem modTrain_pending (t : Nat) (f : Train → Train) : (s.modTrain t f).pending = s.pending := rfl
@[simp] theorem modTrain_freeCtr (t : Nat) (f : Train → Train) : (s.modTrain t f).freeCtr = s.freeCtr := rfl
@[simp] theorem modTrain_mem (t : Nat) (f : Train → Train) : (s.modTrain t f).mem = s.mem := rfl
@[simp] theorem modTrain_ue (t : Nat) (f : Train → Train) : (s.modTrain t f).ue = s.ue := rfl
@[simp] theorem modTrain_ce (t : Nat) (f : Train → Train) : (s.modTrain t f).ce = s.ce := rfl
@[simp] theorem modTrain_scratch (t : Nat) (f : Train → Train) : (s.modTrain t f).scratch = s.scratch := rfl
@[simp] theorem modTrain_ctx (t : Nat) (f : Train → Train) : (s.modTrain t f).ctx = s.ctx := rfl
@[simp] theorem modTrain_eng (t : Nat) (f : Train → Train) : (s.modTrain t f).eng = s.eng := rfl
@[simp] theorem modTrain_win (t : Nat) (f : Train → Train) : (s.modTrain t f).win = s.win := rfl
@[simp] theorem modTrain_inletAt (t : Nat) (f : Train → Train) : (s.modTrain t f).inletAt = s.inletAt := rfl
@[simp] theorem modTrain_outlet (t : Nat) (f : Train → Train) : (s.modTrain t f).outlet = s.outlet := rfl
@[simp] theorem modTrain_grp (t : Nat) (f : Train → Train) : (s.modTrain t f).grp = s.grp := rfl
@[simp] theorem modTrain_sel (t : Nat) (f : Train → Train) : (s.modTrain t f).sel = s.sel := rfl
@[simp] theorem modTrain_dial (t : Nat) (f : Train → Train) : (s.modTrain t f).dial = s.dial := rfl
@[simp] theorem modTrain_pgAt (t : Nat) (f : Train → Train) : (s.modTrain t f).pgAt = s.pgAt := rfl
@[simp] theorem modTrain_safeQ (t : Nat) (f : Train → Train) : (s.modTrain t f).safeQ = s.safeQ := rfl
@[simp] theorem modTrain_cvc (t : Nat) (f : Train → Train) : (s.modTrain t f).cvc = s.cvc := rfl
@[simp] theorem modTrain_trip (t : Nat) (f : Train → Train) : (s.modTrain t f).trip = s.trip := rfl
@[simp] theorem modTrain_fw (t : Nat) (f : Train → Train) : (s.modTrain t f).fw = s.fw := rfl
@[simp] theorem modTrain_quench (t : Nat) (f : Train → Train) : (s.modTrain t f).quench = s.quench := rfl
@[simp] theorem modTrain_fences (t : Nat) (f : Train → Train) : (s.modTrain t f).fences = s.fences := rfl
@[simp] theorem modTrain_rgl (t : Nat) (f : Train → Train) : (s.modTrain t f).rgl = s.rgl := rfl
@[simp] theorem modTrain_slotA (t : Nat) (f : Train → Train) : (s.modTrain t f).slotA = s.slotA := rfl
@[simp] theorem modTrain_slotB (t : Nat) (f : Train → Train) : (s.modTrain t f).slotB = s.slotB := rfl
@[simp] theorem modTrain_upg (t : Nat) (f : Train → Train) : (s.modTrain t f).upg = s.upg := rfl
@[simp] theorem modTrain_gf (t : Nat) (f : Train → Train) : (s.modTrain t f).gf = s.gf := rfl
@[simp] theorem modTrain_esc (t : Nat) (f : Train → Train) : (s.modTrain t f).esc = s.esc := rfl
@[simp] theorem modTrain_rmt (t : Nat) (f : Train → Train) : (s.modTrain t f).rmt = s.rmt := rfl
@[simp] theorem modTrain_link (t : Nat) (f : Train → Train) : (s.modTrain t f).link = s.link := rfl
@[simp] theorem modTrain_tap (t : Nat) (f : Train → Train) : (s.modTrain t f).tap = s.tap := rfl
@[simp] theorem modTrain_dbg (t : Nat) (f : Train → Train) : (s.modTrain t f).dbg = s.dbg := rfl
@[simp] theorem modTrain_power (t : Nat) (f : Train → Train) : (s.modTrain t f).power = s.power := rfl
@[simp] theorem modTrain_lcs (t : Nat) (f : Train → Train) : (s.modTrain t f).lcs = s.lcs := rfl
@[simp] theorem modTrain_pins (t : Nat) (f : Train → Train) : (s.modTrain t f).pins = s.pins := rfl
@[simp] theorem modTrain_host (t : Nat) (f : Train → Train) : (s.modTrain t f).host = s.host := rfl
@[simp] theorem ctxAt_modTrain (t : Nat) (f : Train → Train) (y : Nat) : (s.modTrain t f).ctxAt y = s.ctxAt y := rfl
@[simp] theorem engAt_modTrain (t : Nat) (f : Train → Train) (y : Nat) : (s.modTrain t f).engAt y = s.engAt y := rfl
@[simp] theorem outAt_modTrain (t : Nat) (f : Train → Train) (y : Nat) : (s.modTrain t f).outAt y = s.outAt y := rfl
@[simp] theorem fwAt_modTrain (t : Nat) (f : Train → Train) (y : Nat) : (s.modTrain t f).fwAt y = s.fwAt y := rfl
@[simp] theorem byteAt_modTrain (t : Nat) (f : Train → Train) (y : Nat) : (s.modTrain t f).byteAt y = s.byteAt y := rfl

@[simp] theorem modOut_variant (n : Nat) (f : Outlet → Outlet) : (s.modOut n f).variant = s.variant := rfl
@[simp] theorem modOut_time (n : Nat) (f : Outlet → Outlet) : (s.modOut n f).time = s.time := rfl
@[simp] theorem modOut_pending (n : Nat) (f : Outlet → Outlet) : (s.modOut n f).pending = s.pending := rfl
@[simp] theorem modOut_freeCtr (n : Nat) (f : Outlet → Outlet) : (s.modOut n f).freeCtr = s.freeCtr := rfl
@[simp] theorem modOut_mem (n : Nat) (f : Outlet → Outlet) : (s.modOut n f).mem = s.mem := rfl
@[simp] theorem modOut_ue (n : Nat) (f : Outlet → Outlet) : (s.modOut n f).ue = s.ue := rfl
@[simp] theorem modOut_ce (n : Nat) (f : Outlet → Outlet) : (s.modOut n f).ce = s.ce := rfl
@[simp] theorem modOut_scratch (n : Nat) (f : Outlet → Outlet) : (s.modOut n f).scratch = s.scratch := rfl
@[simp] theorem modOut_ctx (n : Nat) (f : Outlet → Outlet) : (s.modOut n f).ctx = s.ctx := rfl
@[simp] theorem modOut_eng (n : Nat) (f : Outlet → Outlet) : (s.modOut n f).eng = s.eng := rfl
@[simp] theorem modOut_train (n : Nat) (f : Outlet → Outlet) : (s.modOut n f).train = s.train := rfl
@[simp] theorem modOut_win (n : Nat) (f : Outlet → Outlet) : (s.modOut n f).win = s.win := rfl
@[simp] theorem modOut_inletAt (n : Nat) (f : Outlet → Outlet) : (s.modOut n f).inletAt = s.inletAt := rfl
@[simp] theorem modOut_grp (n : Nat) (f : Outlet → Outlet) : (s.modOut n f).grp = s.grp := rfl
@[simp] theorem modOut_sel (n : Nat) (f : Outlet → Outlet) : (s.modOut n f).sel = s.sel := rfl
@[simp] theorem modOut_dial (n : Nat) (f : Outlet → Outlet) : (s.modOut n f).dial = s.dial := rfl
@[simp] theorem modOut_pgAt (n : Nat) (f : Outlet → Outlet) : (s.modOut n f).pgAt = s.pgAt := rfl
@[simp] theorem modOut_safeQ (n : Nat) (f : Outlet → Outlet) : (s.modOut n f).safeQ = s.safeQ := rfl
@[simp] theorem modOut_cvc (n : Nat) (f : Outlet → Outlet) : (s.modOut n f).cvc = s.cvc := rfl
@[simp] theorem modOut_trip (n : Nat) (f : Outlet → Outlet) : (s.modOut n f).trip = s.trip := rfl
@[simp] theorem modOut_fw (n : Nat) (f : Outlet → Outlet) : (s.modOut n f).fw = s.fw := rfl
@[simp] theorem modOut_quench (n : Nat) (f : Outlet → Outlet) : (s.modOut n f).quench = s.quench := rfl
@[simp] theorem modOut_fences (n : Nat) (f : Outlet → Outlet) : (s.modOut n f).fences = s.fences := rfl
@[simp] theorem modOut_rgl (n : Nat) (f : Outlet → Outlet) : (s.modOut n f).rgl = s.rgl := rfl
@[simp] theorem modOut_slotA (n : Nat) (f : Outlet → Outlet) : (s.modOut n f).slotA = s.slotA := rfl
@[simp] theorem modOut_slotB (n : Nat) (f : Outlet → Outlet) : (s.modOut n f).slotB = s.slotB := rfl
@[simp] theorem modOut_upg (n : Nat) (f : Outlet → Outlet) : (s.modOut n f).upg = s.upg := rfl
@[simp] theorem modOut_gf (n : Nat) (f : Outlet → Outlet) : (s.modOut n f).gf = s.gf := rfl
@[simp] theorem modOut_esc (n : Nat) (f : Outlet → Outlet) : (s.modOut n f).esc = s.esc := rfl
@[simp] theorem modOut_rmt (n : Nat) (f : Outlet → Outlet) : (s.modOut n f).rmt = s.rmt := rfl
@[simp] theorem modOut_link (n : Nat) (f : Outlet → Outlet) : (s.modOut n f).link = s.link := rfl
@[simp] theorem modOut_tap (n : Nat) (f : Outlet → Outlet) : (s.modOut n f).tap = s.tap := rfl
@[simp] theorem modOut_dbg (n : Nat) (f : Outlet → Outlet) : (s.modOut n f).dbg = s.dbg := rfl
@[simp] theorem modOut_power (n : Nat) (f : Outlet → Outlet) : (s.modOut n f).power = s.power := rfl
@[simp] theorem modOut_lcs (n : Nat) (f : Outlet → Outlet) : (s.modOut n f).lcs = s.lcs := rfl
@[simp] theorem modOut_pins (n : Nat) (f : Outlet → Outlet) : (s.modOut n f).pins = s.pins := rfl
@[simp] theorem modOut_host (n : Nat) (f : Outlet → Outlet) : (s.modOut n f).host = s.host := rfl
@[simp] theorem ctxAt_modOut (n : Nat) (f : Outlet → Outlet) (y : Nat) : (s.modOut n f).ctxAt y = s.ctxAt y := rfl
@[simp] theorem engAt_modOut (n : Nat) (f : Outlet → Outlet) (y : Nat) : (s.modOut n f).engAt y = s.engAt y := rfl
@[simp] theorem trainAt_modOut (n : Nat) (f : Outlet → Outlet) (y : Nat) : (s.modOut n f).trainAt y = s.trainAt y := rfl
@[simp] theorem fwAt_modOut (n : Nat) (f : Outlet → Outlet) (y : Nat) : (s.modOut n f).fwAt y = s.fwAt y := rfl
@[simp] theorem byteAt_modOut (n : Nat) (f : Outlet → Outlet) (y : Nat) : (s.modOut n f).byteAt y = s.byteAt y := rfl

@[simp] theorem modGrp_variant (g : Nat) (f : Grp → Grp) : (s.modGrp g f).variant = s.variant := rfl
@[simp] theorem modGrp_time (g : Nat) (f : Grp → Grp) : (s.modGrp g f).time = s.time := rfl
@[simp] theorem modGrp_pending (g : Nat) (f : Grp → Grp) : (s.modGrp g f).pending = s.pending := rfl
@[simp] theorem modGrp_freeCtr (g : Nat) (f : Grp → Grp) : (s.modGrp g f).freeCtr = s.freeCtr := rfl
@[simp] theorem modGrp_mem (g : Nat) (f : Grp → Grp) : (s.modGrp g f).mem = s.mem := rfl
@[simp] theorem modGrp_ue (g : Nat) (f : Grp → Grp) : (s.modGrp g f).ue = s.ue := rfl
@[simp] theorem modGrp_ce (g : Nat) (f : Grp → Grp) : (s.modGrp g f).ce = s.ce := rfl
@[simp] theorem modGrp_scratch (g : Nat) (f : Grp → Grp) : (s.modGrp g f).scratch = s.scratch := rfl
@[simp] theorem modGrp_ctx (g : Nat) (f : Grp → Grp) : (s.modGrp g f).ctx = s.ctx := rfl
@[simp] theorem modGrp_eng (g : Nat) (f : Grp → Grp) : (s.modGrp g f).eng = s.eng := rfl
@[simp] theorem modGrp_train (g : Nat) (f : Grp → Grp) : (s.modGrp g f).train = s.train := rfl
@[simp] theorem modGrp_win (g : Nat) (f : Grp → Grp) : (s.modGrp g f).win = s.win := rfl
@[simp] theorem modGrp_inletAt (g : Nat) (f : Grp → Grp) : (s.modGrp g f).inletAt = s.inletAt := rfl
@[simp] theorem modGrp_outlet (g : Nat) (f : Grp → Grp) : (s.modGrp g f).outlet = s.outlet := rfl
@[simp] theorem modGrp_sel (g : Nat) (f : Grp → Grp) : (s.modGrp g f).sel = s.sel := rfl
@[simp] theorem modGrp_dial (g : Nat) (f : Grp → Grp) : (s.modGrp g f).dial = s.dial := rfl
@[simp] theorem modGrp_pgAt (g : Nat) (f : Grp → Grp) : (s.modGrp g f).pgAt = s.pgAt := rfl
@[simp] theorem modGrp_safeQ (g : Nat) (f : Grp → Grp) : (s.modGrp g f).safeQ = s.safeQ := rfl
@[simp] theorem modGrp_cvc (g : Nat) (f : Grp → Grp) : (s.modGrp g f).cvc = s.cvc := rfl
@[simp] theorem modGrp_trip (g : Nat) (f : Grp → Grp) : (s.modGrp g f).trip = s.trip := rfl
@[simp] theorem modGrp_fw (g : Nat) (f : Grp → Grp) : (s.modGrp g f).fw = s.fw := rfl
@[simp] theorem modGrp_quench (g : Nat) (f : Grp → Grp) : (s.modGrp g f).quench = s.quench := rfl
@[simp] theorem modGrp_fences (g : Nat) (f : Grp → Grp) : (s.modGrp g f).fences = s.fences := rfl
@[simp] theorem modGrp_rgl (g : Nat) (f : Grp → Grp) : (s.modGrp g f).rgl = s.rgl := rfl
@[simp] theorem modGrp_slotA (g : Nat) (f : Grp → Grp) : (s.modGrp g f).slotA = s.slotA := rfl
@[simp] theorem modGrp_slotB (g : Nat) (f : Grp → Grp) : (s.modGrp g f).slotB = s.slotB := rfl
@[simp] theorem modGrp_upg (g : Nat) (f : Grp → Grp) : (s.modGrp g f).upg = s.upg := rfl
@[simp] theorem modGrp_gf (g : Nat) (f : Grp → Grp) : (s.modGrp g f).gf = s.gf := rfl
@[simp] theorem modGrp_esc (g : Nat) (f : Grp → Grp) : (s.modGrp g f).esc = s.esc := rfl
@[simp] theorem modGrp_rmt (g : Nat) (f : Grp → Grp) : (s.modGrp g f).rmt = s.rmt := rfl
@[simp] theorem modGrp_link (g : Nat) (f : Grp → Grp) : (s.modGrp g f).link = s.link := rfl
@[simp] theorem modGrp_tap (g : Nat) (f : Grp → Grp) : (s.modGrp g f).tap = s.tap := rfl
@[simp] theorem modGrp_dbg (g : Nat) (f : Grp → Grp) : (s.modGrp g f).dbg = s.dbg := rfl
@[simp] theorem modGrp_power (g : Nat) (f : Grp → Grp) : (s.modGrp g f).power = s.power := rfl
@[simp] theorem modGrp_lcs (g : Nat) (f : Grp → Grp) : (s.modGrp g f).lcs = s.lcs := rfl
@[simp] theorem modGrp_pins (g : Nat) (f : Grp → Grp) : (s.modGrp g f).pins = s.pins := rfl
@[simp] theorem modGrp_host (g : Nat) (f : Grp → Grp) : (s.modGrp g f).host = s.host := rfl
@[simp] theorem ctxAt_modGrp (g : Nat) (f : Grp → Grp) (y : Nat) : (s.modGrp g f).ctxAt y = s.ctxAt y := rfl
@[simp] theorem engAt_modGrp (g : Nat) (f : Grp → Grp) (y : Nat) : (s.modGrp g f).engAt y = s.engAt y := rfl
@[simp] theorem trainAt_modGrp (g : Nat) (f : Grp → Grp) (y : Nat) : (s.modGrp g f).trainAt y = s.trainAt y := rfl
@[simp] theorem outAt_modGrp (g : Nat) (f : Grp → Grp) (y : Nat) : (s.modGrp g f).outAt y = s.outAt y := rfl
@[simp] theorem fwAt_modGrp (g : Nat) (f : Grp → Grp) (y : Nat) : (s.modGrp g f).fwAt y = s.fwAt y := rfl
@[simp] theorem byteAt_modGrp (g : Nat) (f : Grp → Grp) (y : Nat) : (s.modGrp g f).byteAt y = s.byteAt y := rfl

@[simp] theorem modDial_variant (n : Nat) (f : Dial → Dial) : (s.modDial n f).variant = s.variant := rfl
@[simp] theorem modDial_time (n : Nat) (f : Dial → Dial) : (s.modDial n f).time = s.time := rfl
@[simp] theorem modDial_pending (n : Nat) (f : Dial → Dial) : (s.modDial n f).pending = s.pending := rfl
@[simp] theorem modDial_freeCtr (n : Nat) (f : Dial → Dial) : (s.modDial n f).freeCtr = s.freeCtr := rfl
@[simp] theorem modDial_mem (n : Nat) (f : Dial → Dial) : (s.modDial n f).mem = s.mem := rfl
@[simp] theorem modDial_ue (n : Nat) (f : Dial → Dial) : (s.modDial n f).ue = s.ue := rfl
@[simp] theorem modDial_ce (n : Nat) (f : Dial → Dial) : (s.modDial n f).ce = s.ce := rfl
@[simp] theorem modDial_scratch (n : Nat) (f : Dial → Dial) : (s.modDial n f).scratch = s.scratch := rfl
@[simp] theorem modDial_ctx (n : Nat) (f : Dial → Dial) : (s.modDial n f).ctx = s.ctx := rfl
@[simp] theorem modDial_eng (n : Nat) (f : Dial → Dial) : (s.modDial n f).eng = s.eng := rfl
@[simp] theorem modDial_train (n : Nat) (f : Dial → Dial) : (s.modDial n f).train = s.train := rfl
@[simp] theorem modDial_win (n : Nat) (f : Dial → Dial) : (s.modDial n f).win = s.win := rfl
@[simp] theorem modDial_inletAt (n : Nat) (f : Dial → Dial) : (s.modDial n f).inletAt = s.inletAt := rfl
@[simp] theorem modDial_outlet (n : Nat) (f : Dial → Dial) : (s.modDial n f).outlet = s.outlet := rfl
@[simp] theorem modDial_grp (n : Nat) (f : Dial → Dial) : (s.modDial n f).grp = s.grp := rfl
@[simp] theorem modDial_sel (n : Nat) (f : Dial → Dial) : (s.modDial n f).sel = s.sel := rfl
@[simp] theorem modDial_cvc (n : Nat) (f : Dial → Dial) : (s.modDial n f).cvc = s.cvc := rfl
@[simp] theorem modDial_trip (n : Nat) (f : Dial → Dial) : (s.modDial n f).trip = s.trip := rfl
@[simp] theorem modDial_fw (n : Nat) (f : Dial → Dial) : (s.modDial n f).fw = s.fw := rfl
@[simp] theorem modDial_quench (n : Nat) (f : Dial → Dial) : (s.modDial n f).quench = s.quench := rfl
@[simp] theorem modDial_fences (n : Nat) (f : Dial → Dial) : (s.modDial n f).fences = s.fences := rfl
@[simp] theorem modDial_rgl (n : Nat) (f : Dial → Dial) : (s.modDial n f).rgl = s.rgl := rfl
@[simp] theorem modDial_slotA (n : Nat) (f : Dial → Dial) : (s.modDial n f).slotA = s.slotA := rfl
@[simp] theorem modDial_slotB (n : Nat) (f : Dial → Dial) : (s.modDial n f).slotB = s.slotB := rfl
@[simp] theorem modDial_upg (n : Nat) (f : Dial → Dial) : (s.modDial n f).upg = s.upg := rfl
@[simp] theorem modDial_gf (n : Nat) (f : Dial → Dial) : (s.modDial n f).gf = s.gf := rfl
@[simp] theorem modDial_esc (n : Nat) (f : Dial → Dial) : (s.modDial n f).esc = s.esc := rfl
@[simp] theorem modDial_rmt (n : Nat) (f : Dial → Dial) : (s.modDial n f).rmt = s.rmt := rfl
@[simp] theorem modDial_link (n : Nat) (f : Dial → Dial) : (s.modDial n f).link = s.link := rfl
@[simp] theorem modDial_tap (n : Nat) (f : Dial → Dial) : (s.modDial n f).tap = s.tap := rfl
@[simp] theorem modDial_dbg (n : Nat) (f : Dial → Dial) : (s.modDial n f).dbg = s.dbg := rfl
@[simp] theorem modDial_power (n : Nat) (f : Dial → Dial) : (s.modDial n f).power = s.power := rfl
@[simp] theorem modDial_lcs (n : Nat) (f : Dial → Dial) : (s.modDial n f).lcs = s.lcs := rfl
@[simp] theorem modDial_pins (n : Nat) (f : Dial → Dial) : (s.modDial n f).pins = s.pins := rfl
@[simp] theorem modDial_host (n : Nat) (f : Dial → Dial) : (s.modDial n f).host = s.host := rfl
@[simp] theorem ctxAt_modDial (n : Nat) (f : Dial → Dial) (y : Nat) : (s.modDial n f).ctxAt y = s.ctxAt y := rfl
@[simp] theorem engAt_modDial (n : Nat) (f : Dial → Dial) (y : Nat) : (s.modDial n f).engAt y = s.engAt y := rfl
@[simp] theorem trainAt_modDial (n : Nat) (f : Dial → Dial) (y : Nat) : (s.modDial n f).trainAt y = s.trainAt y := rfl
@[simp] theorem outAt_modDial (n : Nat) (f : Dial → Dial) (y : Nat) : (s.modDial n f).outAt y = s.outAt y := rfl
@[simp] theorem fwAt_modDial (n : Nat) (f : Dial → Dial) (y : Nat) : (s.modDial n f).fwAt y = s.fwAt y := rfl
@[simp] theorem byteAt_modDial (n : Nat) (f : Dial → Dial) (y : Nat) : (s.modDial n f).byteAt y = s.byteAt y := rfl

@[simp] theorem modCvc_variant (n : Nat) (f : Cvc → Cvc) : (s.modCvc n f).variant = s.variant := rfl
@[simp] theorem modCvc_time (n : Nat) (f : Cvc → Cvc) : (s.modCvc n f).time = s.time := rfl
@[simp] theorem modCvc_pending (n : Nat) (f : Cvc → Cvc) : (s.modCvc n f).pending = s.pending := rfl
@[simp] theorem modCvc_freeCtr (n : Nat) (f : Cvc → Cvc) : (s.modCvc n f).freeCtr = s.freeCtr := rfl
@[simp] theorem modCvc_mem (n : Nat) (f : Cvc → Cvc) : (s.modCvc n f).mem = s.mem := rfl
@[simp] theorem modCvc_ue (n : Nat) (f : Cvc → Cvc) : (s.modCvc n f).ue = s.ue := rfl
@[simp] theorem modCvc_ce (n : Nat) (f : Cvc → Cvc) : (s.modCvc n f).ce = s.ce := rfl
@[simp] theorem modCvc_scratch (n : Nat) (f : Cvc → Cvc) : (s.modCvc n f).scratch = s.scratch := rfl
@[simp] theorem modCvc_ctx (n : Nat) (f : Cvc → Cvc) : (s.modCvc n f).ctx = s.ctx := rfl
@[simp] theorem modCvc_eng (n : Nat) (f : Cvc → Cvc) : (s.modCvc n f).eng = s.eng := rfl
@[simp] theorem modCvc_train (n : Nat) (f : Cvc → Cvc) : (s.modCvc n f).train = s.train := rfl
@[simp] theorem modCvc_win (n : Nat) (f : Cvc → Cvc) : (s.modCvc n f).win = s.win := rfl
@[simp] theorem modCvc_inletAt (n : Nat) (f : Cvc → Cvc) : (s.modCvc n f).inletAt = s.inletAt := rfl
@[simp] theorem modCvc_outlet (n : Nat) (f : Cvc → Cvc) : (s.modCvc n f).outlet = s.outlet := rfl
@[simp] theorem modCvc_grp (n : Nat) (f : Cvc → Cvc) : (s.modCvc n f).grp = s.grp := rfl
@[simp] theorem modCvc_sel (n : Nat) (f : Cvc → Cvc) : (s.modCvc n f).sel = s.sel := rfl
@[simp] theorem modCvc_dial (n : Nat) (f : Cvc → Cvc) : (s.modCvc n f).dial = s.dial := rfl
@[simp] theorem modCvc_pgAt (n : Nat) (f : Cvc → Cvc) : (s.modCvc n f).pgAt = s.pgAt := rfl
@[simp] theorem modCvc_safeQ (n : Nat) (f : Cvc → Cvc) : (s.modCvc n f).safeQ = s.safeQ := rfl
@[simp] theorem modCvc_trip (n : Nat) (f : Cvc → Cvc) : (s.modCvc n f).trip = s.trip := rfl
@[simp] theorem modCvc_fw (n : Nat) (f : Cvc → Cvc) : (s.modCvc n f).fw = s.fw := rfl
@[simp] theorem modCvc_quench (n : Nat) (f : Cvc → Cvc) : (s.modCvc n f).quench = s.quench := rfl
@[simp] theorem modCvc_fences (n : Nat) (f : Cvc → Cvc) : (s.modCvc n f).fences = s.fences := rfl
@[simp] theorem modCvc_rgl (n : Nat) (f : Cvc → Cvc) : (s.modCvc n f).rgl = s.rgl := rfl
@[simp] theorem modCvc_slotA (n : Nat) (f : Cvc → Cvc) : (s.modCvc n f).slotA = s.slotA := rfl
@[simp] theorem modCvc_slotB (n : Nat) (f : Cvc → Cvc) : (s.modCvc n f).slotB = s.slotB := rfl
@[simp] theorem modCvc_upg (n : Nat) (f : Cvc → Cvc) : (s.modCvc n f).upg = s.upg := rfl
@[simp] theorem modCvc_gf (n : Nat) (f : Cvc → Cvc) : (s.modCvc n f).gf = s.gf := rfl
@[simp] theorem modCvc_esc (n : Nat) (f : Cvc → Cvc) : (s.modCvc n f).esc = s.esc := rfl
@[simp] theorem modCvc_rmt (n : Nat) (f : Cvc → Cvc) : (s.modCvc n f).rmt = s.rmt := rfl
@[simp] theorem modCvc_link (n : Nat) (f : Cvc → Cvc) : (s.modCvc n f).link = s.link := rfl
@[simp] theorem modCvc_tap (n : Nat) (f : Cvc → Cvc) : (s.modCvc n f).tap = s.tap := rfl
@[simp] theorem modCvc_dbg (n : Nat) (f : Cvc → Cvc) : (s.modCvc n f).dbg = s.dbg := rfl
@[simp] theorem modCvc_power (n : Nat) (f : Cvc → Cvc) : (s.modCvc n f).power = s.power := rfl
@[simp] theorem modCvc_lcs (n : Nat) (f : Cvc → Cvc) : (s.modCvc n f).lcs = s.lcs := rfl
@[simp] theorem modCvc_pins (n : Nat) (f : Cvc → Cvc) : (s.modCvc n f).pins = s.pins := rfl
@[simp] theorem modCvc_host (n : Nat) (f : Cvc → Cvc) : (s.modCvc n f).host = s.host := rfl
@[simp] theorem ctxAt_modCvc (n : Nat) (f : Cvc → Cvc) (y : Nat) : (s.modCvc n f).ctxAt y = s.ctxAt y := rfl
@[simp] theorem engAt_modCvc (n : Nat) (f : Cvc → Cvc) (y : Nat) : (s.modCvc n f).engAt y = s.engAt y := rfl
@[simp] theorem trainAt_modCvc (n : Nat) (f : Cvc → Cvc) (y : Nat) : (s.modCvc n f).trainAt y = s.trainAt y := rfl
@[simp] theorem outAt_modCvc (n : Nat) (f : Cvc → Cvc) (y : Nat) : (s.modCvc n f).outAt y = s.outAt y := rfl
@[simp] theorem fwAt_modCvc (n : Nat) (f : Cvc → Cvc) (y : Nat) : (s.modCvc n f).fwAt y = s.fwAt y := rfl
@[simp] theorem byteAt_modCvc (n : Nat) (f : Cvc → Cvc) (y : Nat) : (s.modCvc n f).byteAt y = s.byteAt y := rfl

@[simp] theorem modTrip_variant (n : Nat) (f : Trip → Trip) : (s.modTrip n f).variant = s.variant := rfl
@[simp] theorem modTrip_time (n : Nat) (f : Trip → Trip) : (s.modTrip n f).time = s.time := rfl
@[simp] theorem modTrip_pending (n : Nat) (f : Trip → Trip) : (s.modTrip n f).pending = s.pending := rfl
@[simp] theorem modTrip_freeCtr (n : Nat) (f : Trip → Trip) : (s.modTrip n f).freeCtr = s.freeCtr := rfl
@[simp] theorem modTrip_mem (n : Nat) (f : Trip → Trip) : (s.modTrip n f).mem = s.mem := rfl
@[simp] theorem modTrip_ue (n : Nat) (f : Trip → Trip) : (s.modTrip n f).ue = s.ue := rfl
@[simp] theorem modTrip_ce (n : Nat) (f : Trip → Trip) : (s.modTrip n f).ce = s.ce := rfl
@[simp] theorem modTrip_scratch (n : Nat) (f : Trip → Trip) : (s.modTrip n f).scratch = s.scratch := rfl
@[simp] theorem modTrip_ctx (n : Nat) (f : Trip → Trip) : (s.modTrip n f).ctx = s.ctx := rfl
@[simp] theorem modTrip_eng (n : Nat) (f : Trip → Trip) : (s.modTrip n f).eng = s.eng := rfl
@[simp] theorem modTrip_train (n : Nat) (f : Trip → Trip) : (s.modTrip n f).train = s.train := rfl
@[simp] theorem modTrip_win (n : Nat) (f : Trip → Trip) : (s.modTrip n f).win = s.win := rfl
@[simp] theorem modTrip_inletAt (n : Nat) (f : Trip → Trip) : (s.modTrip n f).inletAt = s.inletAt := rfl
@[simp] theorem modTrip_outlet (n : Nat) (f : Trip → Trip) : (s.modTrip n f).outlet = s.outlet := rfl
@[simp] theorem modTrip_grp (n : Nat) (f : Trip → Trip) : (s.modTrip n f).grp = s.grp := rfl
@[simp] theorem modTrip_sel (n : Nat) (f : Trip → Trip) : (s.modTrip n f).sel = s.sel := rfl
@[simp] theorem modTrip_dial (n : Nat) (f : Trip → Trip) : (s.modTrip n f).dial = s.dial := rfl
@[simp] theorem modTrip_pgAt (n : Nat) (f : Trip → Trip) : (s.modTrip n f).pgAt = s.pgAt := rfl
@[simp] theorem modTrip_safeQ (n : Nat) (f : Trip → Trip) : (s.modTrip n f).safeQ = s.safeQ := rfl
@[simp] theorem modTrip_cvc (n : Nat) (f : Trip → Trip) : (s.modTrip n f).cvc = s.cvc := rfl
@[simp] theorem modTrip_fw (n : Nat) (f : Trip → Trip) : (s.modTrip n f).fw = s.fw := rfl
@[simp] theorem modTrip_quench (n : Nat) (f : Trip → Trip) : (s.modTrip n f).quench = s.quench := rfl
@[simp] theorem modTrip_fences (n : Nat) (f : Trip → Trip) : (s.modTrip n f).fences = s.fences := rfl
@[simp] theorem modTrip_rgl (n : Nat) (f : Trip → Trip) : (s.modTrip n f).rgl = s.rgl := rfl
@[simp] theorem modTrip_slotA (n : Nat) (f : Trip → Trip) : (s.modTrip n f).slotA = s.slotA := rfl
@[simp] theorem modTrip_slotB (n : Nat) (f : Trip → Trip) : (s.modTrip n f).slotB = s.slotB := rfl
@[simp] theorem modTrip_upg (n : Nat) (f : Trip → Trip) : (s.modTrip n f).upg = s.upg := rfl
@[simp] theorem modTrip_gf (n : Nat) (f : Trip → Trip) : (s.modTrip n f).gf = s.gf := rfl
@[simp] theorem modTrip_esc (n : Nat) (f : Trip → Trip) : (s.modTrip n f).esc = s.esc := rfl
@[simp] theorem modTrip_rmt (n : Nat) (f : Trip → Trip) : (s.modTrip n f).rmt = s.rmt := rfl
@[simp] theorem modTrip_link (n : Nat) (f : Trip → Trip) : (s.modTrip n f).link = s.link := rfl
@[simp] theorem modTrip_tap (n : Nat) (f : Trip → Trip) : (s.modTrip n f).tap = s.tap := rfl
@[simp] theorem modTrip_dbg (n : Nat) (f : Trip → Trip) : (s.modTrip n f).dbg = s.dbg := rfl
@[simp] theorem modTrip_power (n : Nat) (f : Trip → Trip) : (s.modTrip n f).power = s.power := rfl
@[simp] theorem modTrip_lcs (n : Nat) (f : Trip → Trip) : (s.modTrip n f).lcs = s.lcs := rfl
@[simp] theorem modTrip_pins (n : Nat) (f : Trip → Trip) : (s.modTrip n f).pins = s.pins := rfl
@[simp] theorem modTrip_host (n : Nat) (f : Trip → Trip) : (s.modTrip n f).host = s.host := rfl
@[simp] theorem ctxAt_modTrip (n : Nat) (f : Trip → Trip) (y : Nat) : (s.modTrip n f).ctxAt y = s.ctxAt y := rfl
@[simp] theorem engAt_modTrip (n : Nat) (f : Trip → Trip) (y : Nat) : (s.modTrip n f).engAt y = s.engAt y := rfl
@[simp] theorem trainAt_modTrip (n : Nat) (f : Trip → Trip) (y : Nat) : (s.modTrip n f).trainAt y = s.trainAt y := rfl
@[simp] theorem outAt_modTrip (n : Nat) (f : Trip → Trip) (y : Nat) : (s.modTrip n f).outAt y = s.outAt y := rfl
@[simp] theorem fwAt_modTrip (n : Nat) (f : Trip → Trip) (y : Nat) : (s.modTrip n f).fwAt y = s.fwAt y := rfl
@[simp] theorem byteAt_modTrip (n : Nat) (f : Trip → Trip) (y : Nat) : (s.modTrip n f).byteAt y = s.byteAt y := rfl

@[simp] theorem modMbox_variant (t m : Nat) (f : Mbox → Mbox) : (s.modMbox t m f).variant = s.variant := rfl
@[simp] theorem modMbox_time (t m : Nat) (f : Mbox → Mbox) : (s.modMbox t m f).time = s.time := rfl
@[simp] theorem modMbox_pending (t m : Nat) (f : Mbox → Mbox) : (s.modMbox t m f).pending = s.pending := rfl
@[simp] theorem modMbox_freeCtr (t m : Nat) (f : Mbox → Mbox) : (s.modMbox t m f).freeCtr = s.freeCtr := rfl
@[simp] theorem modMbox_mem (t m : Nat) (f : Mbox → Mbox) : (s.modMbox t m f).mem = s.mem := rfl
@[simp] theorem modMbox_ue (t m : Nat) (f : Mbox → Mbox) : (s.modMbox t m f).ue = s.ue := rfl
@[simp] theorem modMbox_ce (t m : Nat) (f : Mbox → Mbox) : (s.modMbox t m f).ce = s.ce := rfl
@[simp] theorem modMbox_scratch (t m : Nat) (f : Mbox → Mbox) : (s.modMbox t m f).scratch = s.scratch := rfl
@[simp] theorem modMbox_ctx (t m : Nat) (f : Mbox → Mbox) : (s.modMbox t m f).ctx = s.ctx := rfl
@[simp] theorem modMbox_eng (t m : Nat) (f : Mbox → Mbox) : (s.modMbox t m f).eng = s.eng := rfl
@[simp] theorem modMbox_win (t m : Nat) (f : Mbox → Mbox) : (s.modMbox t m f).win = s.win := rfl
@[simp] theorem modMbox_inletAt (t m : Nat) (f : Mbox → Mbox) : (s.modMbox t m f).inletAt = s.inletAt := rfl
@[simp] theorem modMbox_outlet (t m : Nat) (f : Mbox → Mbox) : (s.modMbox t m f).outlet = s.outlet := rfl
@[simp] theorem modMbox_grp (t m : Nat) (f : Mbox → Mbox) : (s.modMbox t m f).grp = s.grp := rfl
@[simp] theorem modMbox_sel (t m : Nat) (f : Mbox → Mbox) : (s.modMbox t m f).sel = s.sel := rfl
@[simp] theorem modMbox_dial (t m : Nat) (f : Mbox → Mbox) : (s.modMbox t m f).dial = s.dial := rfl
@[simp] theorem modMbox_pgAt (t m : Nat) (f : Mbox → Mbox) : (s.modMbox t m f).pgAt = s.pgAt := rfl
@[simp] theorem modMbox_safeQ (t m : Nat) (f : Mbox → Mbox) : (s.modMbox t m f).safeQ = s.safeQ := rfl
@[simp] theorem modMbox_cvc (t m : Nat) (f : Mbox → Mbox) : (s.modMbox t m f).cvc = s.cvc := rfl
@[simp] theorem modMbox_trip (t m : Nat) (f : Mbox → Mbox) : (s.modMbox t m f).trip = s.trip := rfl
@[simp] theorem modMbox_fw (t m : Nat) (f : Mbox → Mbox) : (s.modMbox t m f).fw = s.fw := rfl
@[simp] theorem modMbox_quench (t m : Nat) (f : Mbox → Mbox) : (s.modMbox t m f).quench = s.quench := rfl
@[simp] theorem modMbox_fences (t m : Nat) (f : Mbox → Mbox) : (s.modMbox t m f).fences = s.fences := rfl
@[simp] theorem modMbox_rgl (t m : Nat) (f : Mbox → Mbox) : (s.modMbox t m f).rgl = s.rgl := rfl
@[simp] theorem modMbox_slotA (t m : Nat) (f : Mbox → Mbox) : (s.modMbox t m f).slotA = s.slotA := rfl
@[simp] theorem modMbox_slotB (t m : Nat) (f : Mbox → Mbox) : (s.modMbox t m f).slotB = s.slotB := rfl
@[simp] theorem modMbox_upg (t m : Nat) (f : Mbox → Mbox) : (s.modMbox t m f).upg = s.upg := rfl
@[simp] theorem modMbox_gf (t m : Nat) (f : Mbox → Mbox) : (s.modMbox t m f).gf = s.gf := rfl
@[simp] theorem modMbox_esc (t m : Nat) (f : Mbox → Mbox) : (s.modMbox t m f).esc = s.esc := rfl
@[simp] theorem modMbox_rmt (t m : Nat) (f : Mbox → Mbox) : (s.modMbox t m f).rmt = s.rmt := rfl
@[simp] theorem modMbox_link (t m : Nat) (f : Mbox → Mbox) : (s.modMbox t m f).link = s.link := rfl
@[simp] theorem modMbox_tap (t m : Nat) (f : Mbox → Mbox) : (s.modMbox t m f).tap = s.tap := rfl
@[simp] theorem modMbox_dbg (t m : Nat) (f : Mbox → Mbox) : (s.modMbox t m f).dbg = s.dbg := rfl
@[simp] theorem modMbox_power (t m : Nat) (f : Mbox → Mbox) : (s.modMbox t m f).power = s.power := rfl
@[simp] theorem modMbox_lcs (t m : Nat) (f : Mbox → Mbox) : (s.modMbox t m f).lcs = s.lcs := rfl
@[simp] theorem modMbox_pins (t m : Nat) (f : Mbox → Mbox) : (s.modMbox t m f).pins = s.pins := rfl
@[simp] theorem modMbox_host (t m : Nat) (f : Mbox → Mbox) : (s.modMbox t m f).host = s.host := rfl
@[simp] theorem ctxAt_modMbox (t m : Nat) (f : Mbox → Mbox) (y : Nat) : (s.modMbox t m f).ctxAt y = s.ctxAt y := rfl
@[simp] theorem engAt_modMbox (t m : Nat) (f : Mbox → Mbox) (y : Nat) : (s.modMbox t m f).engAt y = s.engAt y := rfl
@[simp] theorem outAt_modMbox (t m : Nat) (f : Mbox → Mbox) (y : Nat) : (s.modMbox t m f).outAt y = s.outAt y := rfl
@[simp] theorem fwAt_modMbox (t m : Nat) (f : Mbox → Mbox) (y : Nat) : (s.modMbox t m f).fwAt y = s.fwAt y := rfl
@[simp] theorem byteAt_modMbox (t m : Nat) (f : Mbox → Mbox) (y : Nat) : (s.modMbox t m f).byteAt y = s.byteAt y := rfl

@[simp] theorem modFw_variant (w : Nat) (f : FW → FW) : (s.modFw w f).variant = s.variant := rfl
@[simp] theorem modFw_time (w : Nat) (f : FW → FW) : (s.modFw w f).time = s.time := rfl
@[simp] theorem modFw_pending (w : Nat) (f : FW → FW) : (s.modFw w f).pending = s.pending := rfl
@[simp] theorem modFw_freeCtr (w : Nat) (f : FW → FW) : (s.modFw w f).freeCtr = s.freeCtr := rfl
@[simp] theorem modFw_mem (w : Nat) (f : FW → FW) : (s.modFw w f).mem = s.mem := rfl
@[simp] theorem modFw_ue (w : Nat) (f : FW → FW) : (s.modFw w f).ue = s.ue := rfl
@[simp] theorem modFw_ce (w : Nat) (f : FW → FW) : (s.modFw w f).ce = s.ce := rfl
@[simp] theorem modFw_scratch (w : Nat) (f : FW → FW) : (s.modFw w f).scratch = s.scratch := rfl
@[simp] theorem modFw_ctx (w : Nat) (f : FW → FW) : (s.modFw w f).ctx = s.ctx := rfl
@[simp] theorem modFw_eng (w : Nat) (f : FW → FW) : (s.modFw w f).eng = s.eng := rfl
@[simp] theorem modFw_train (w : Nat) (f : FW → FW) : (s.modFw w f).train = s.train := rfl
@[simp] theorem modFw_win (w : Nat) (f : FW → FW) : (s.modFw w f).win = s.win := rfl
@[simp] theorem modFw_inletAt (w : Nat) (f : FW → FW) : (s.modFw w f).inletAt = s.inletAt := rfl
@[simp] theorem modFw_outlet (w : Nat) (f : FW → FW) : (s.modFw w f).outlet = s.outlet := rfl
@[simp] theorem modFw_grp (w : Nat) (f : FW → FW) : (s.modFw w f).grp = s.grp := rfl
@[simp] theorem modFw_sel (w : Nat) (f : FW → FW) : (s.modFw w f).sel = s.sel := rfl
@[simp] theorem modFw_dial (w : Nat) (f : FW → FW) : (s.modFw w f).dial = s.dial := rfl
@[simp] theorem modFw_pgAt (w : Nat) (f : FW → FW) : (s.modFw w f).pgAt = s.pgAt := rfl
@[simp] theorem modFw_safeQ (w : Nat) (f : FW → FW) : (s.modFw w f).safeQ = s.safeQ := rfl
@[simp] theorem modFw_cvc (w : Nat) (f : FW → FW) : (s.modFw w f).cvc = s.cvc := rfl
@[simp] theorem modFw_trip (w : Nat) (f : FW → FW) : (s.modFw w f).trip = s.trip := rfl
@[simp] theorem modFw_quench (w : Nat) (f : FW → FW) : (s.modFw w f).quench = s.quench := rfl
@[simp] theorem modFw_fences (w : Nat) (f : FW → FW) : (s.modFw w f).fences = s.fences := rfl
@[simp] theorem modFw_rgl (w : Nat) (f : FW → FW) : (s.modFw w f).rgl = s.rgl := rfl
@[simp] theorem modFw_slotA (w : Nat) (f : FW → FW) : (s.modFw w f).slotA = s.slotA := rfl
@[simp] theorem modFw_slotB (w : Nat) (f : FW → FW) : (s.modFw w f).slotB = s.slotB := rfl
@[simp] theorem modFw_upg (w : Nat) (f : FW → FW) : (s.modFw w f).upg = s.upg := rfl
@[simp] theorem modFw_gf (w : Nat) (f : FW → FW) : (s.modFw w f).gf = s.gf := rfl
@[simp] theorem modFw_esc (w : Nat) (f : FW → FW) : (s.modFw w f).esc = s.esc := rfl
@[simp] theorem modFw_rmt (w : Nat) (f : FW → FW) : (s.modFw w f).rmt = s.rmt := rfl
@[simp] theorem modFw_link (w : Nat) (f : FW → FW) : (s.modFw w f).link = s.link := rfl
@[simp] theorem modFw_tap (w : Nat) (f : FW → FW) : (s.modFw w f).tap = s.tap := rfl
@[simp] theorem modFw_dbg (w : Nat) (f : FW → FW) : (s.modFw w f).dbg = s.dbg := rfl
@[simp] theorem modFw_power (w : Nat) (f : FW → FW) : (s.modFw w f).power = s.power := rfl
@[simp] theorem modFw_lcs (w : Nat) (f : FW → FW) : (s.modFw w f).lcs = s.lcs := rfl
@[simp] theorem modFw_pins (w : Nat) (f : FW → FW) : (s.modFw w f).pins = s.pins := rfl
@[simp] theorem modFw_host (w : Nat) (f : FW → FW) : (s.modFw w f).host = s.host := rfl
@[simp] theorem ctxAt_modFw (w : Nat) (f : FW → FW) (y : Nat) : (s.modFw w f).ctxAt y = s.ctxAt y := rfl
@[simp] theorem engAt_modFw (w : Nat) (f : FW → FW) (y : Nat) : (s.modFw w f).engAt y = s.engAt y := rfl
@[simp] theorem trainAt_modFw (w : Nat) (f : FW → FW) (y : Nat) : (s.modFw w f).trainAt y = s.trainAt y := rfl
@[simp] theorem outAt_modFw (w : Nat) (f : FW → FW) (y : Nat) : (s.modFw w f).outAt y = s.outAt y := rfl
@[simp] theorem byteAt_modFw (w : Nat) (f : FW → FW) (y : Nat) : (s.modFw w f).byteAt y = s.byteAt y := rfl

@[simp] theorem setByte_variant (a : Nat) (b : Byte) : (s.setByte a b).variant = s.variant := rfl
@[simp] theorem setByte_time (a : Nat) (b : Byte) : (s.setByte a b).time = s.time := rfl
@[simp] theorem setByte_pending (a : Nat) (b : Byte) : (s.setByte a b).pending = s.pending := rfl
@[simp] theorem setByte_freeCtr (a : Nat) (b : Byte) : (s.setByte a b).freeCtr = s.freeCtr := rfl
@[simp] theorem setByte_ue (a : Nat) (b : Byte) : (s.setByte a b).ue = s.ue := rfl
@[simp] theorem setByte_ce (a : Nat) (b : Byte) : (s.setByte a b).ce = s.ce := rfl
@[simp] theorem setByte_scratch (a : Nat) (b : Byte) : (s.setByte a b).scratch = s.scratch := rfl
@[simp] theorem setByte_ctx (a : Nat) (b : Byte) : (s.setByte a b).ctx = s.ctx := rfl
@[simp] theorem setByte_eng (a : Nat) (b : Byte) : (s.setByte a b).eng = s.eng := rfl
@[simp] theorem setByte_train (a : Nat) (b : Byte) : (s.setByte a b).train = s.train := rfl
@[simp] theorem setByte_win (a : Nat) (b : Byte) : (s.setByte a b).win = s.win := rfl
@[simp] theorem setByte_inletAt (a : Nat) (b : Byte) : (s.setByte a b).inletAt = s.inletAt := rfl
@[simp] theorem setByte_outlet (a : Nat) (b : Byte) : (s.setByte a b).outlet = s.outlet := rfl
@[simp] theorem setByte_grp (a : Nat) (b : Byte) : (s.setByte a b).grp = s.grp := rfl
@[simp] theorem setByte_sel (a : Nat) (b : Byte) : (s.setByte a b).sel = s.sel := rfl
@[simp] theorem setByte_dial (a : Nat) (b : Byte) : (s.setByte a b).dial = s.dial := rfl
@[simp] theorem setByte_pgAt (a : Nat) (b : Byte) : (s.setByte a b).pgAt = s.pgAt := rfl
@[simp] theorem setByte_safeQ (a : Nat) (b : Byte) : (s.setByte a b).safeQ = s.safeQ := rfl
@[simp] theorem setByte_cvc (a : Nat) (b : Byte) : (s.setByte a b).cvc = s.cvc := rfl
@[simp] theorem setByte_trip (a : Nat) (b : Byte) : (s.setByte a b).trip = s.trip := rfl
@[simp] theorem setByte_fw (a : Nat) (b : Byte) : (s.setByte a b).fw = s.fw := rfl
@[simp] theorem setByte_quench (a : Nat) (b : Byte) : (s.setByte a b).quench = s.quench := rfl
@[simp] theorem setByte_fences (a : Nat) (b : Byte) : (s.setByte a b).fences = s.fences := rfl
@[simp] theorem setByte_rgl (a : Nat) (b : Byte) : (s.setByte a b).rgl = s.rgl := rfl
@[simp] theorem setByte_slotA (a : Nat) (b : Byte) : (s.setByte a b).slotA = s.slotA := rfl
@[simp] theorem setByte_slotB (a : Nat) (b : Byte) : (s.setByte a b).slotB = s.slotB := rfl
@[simp] theorem setByte_upg (a : Nat) (b : Byte) : (s.setByte a b).upg = s.upg := rfl
@[simp] theorem setByte_gf (a : Nat) (b : Byte) : (s.setByte a b).gf = s.gf := rfl
@[simp] theorem setByte_esc (a : Nat) (b : Byte) : (s.setByte a b).esc = s.esc := rfl
@[simp] theorem setByte_rmt (a : Nat) (b : Byte) : (s.setByte a b).rmt = s.rmt := rfl
@[simp] theorem setByte_link (a : Nat) (b : Byte) : (s.setByte a b).link = s.link := rfl
@[simp] theorem setByte_tap (a : Nat) (b : Byte) : (s.setByte a b).tap = s.tap := rfl
@[simp] theorem setByte_dbg (a : Nat) (b : Byte) : (s.setByte a b).dbg = s.dbg := rfl
@[simp] theorem setByte_power (a : Nat) (b : Byte) : (s.setByte a b).power = s.power := rfl
@[simp] theorem setByte_lcs (a : Nat) (b : Byte) : (s.setByte a b).lcs = s.lcs := rfl
@[simp] theorem setByte_pins (a : Nat) (b : Byte) : (s.setByte a b).pins = s.pins := rfl
@[simp] theorem setByte_host (a : Nat) (b : Byte) : (s.setByte a b).host = s.host := rfl
@[simp] theorem ctxAt_setByte (a : Nat) (b : Byte) (y : Nat) : (s.setByte a b).ctxAt y = s.ctxAt y := rfl
@[simp] theorem engAt_setByte (a : Nat) (b : Byte) (y : Nat) : (s.setByte a b).engAt y = s.engAt y := rfl
@[simp] theorem trainAt_setByte (a : Nat) (b : Byte) (y : Nat) : (s.setByte a b).trainAt y = s.trainAt y := rfl
@[simp] theorem outAt_setByte (a : Nat) (b : Byte) (y : Nat) : (s.setByte a b).outAt y = s.outAt y := rfl
@[simp] theorem fwAt_setByte (a : Nat) (b : Byte) (y : Nat) : (s.setByte a b).fwAt y = s.fwAt y := rfl

@[simp] theorem answer_variant (r : BitVec 2) : (s.answer r).variant = s.variant := rfl
@[simp] theorem answer_time (r : BitVec 2) : (s.answer r).time = s.time := rfl
@[simp] theorem answer_pending (r : BitVec 2) : (s.answer r).pending = s.pending := rfl
@[simp] theorem answer_freeCtr (r : BitVec 2) : (s.answer r).freeCtr = s.freeCtr := rfl
@[simp] theorem answer_mem (r : BitVec 2) : (s.answer r).mem = s.mem := rfl
@[simp] theorem answer_ue (r : BitVec 2) : (s.answer r).ue = s.ue := rfl
@[simp] theorem answer_ce (r : BitVec 2) : (s.answer r).ce = s.ce := rfl
@[simp] theorem answer_scratch (r : BitVec 2) : (s.answer r).scratch = s.scratch := rfl
@[simp] theorem answer_ctx (r : BitVec 2) : (s.answer r).ctx = s.ctx := rfl
@[simp] theorem answer_eng (r : BitVec 2) : (s.answer r).eng = s.eng := rfl
@[simp] theorem answer_train (r : BitVec 2) : (s.answer r).train = s.train := rfl
@[simp] theorem answer_win (r : BitVec 2) : (s.answer r).win = s.win := rfl
@[simp] theorem answer_inletAt (r : BitVec 2) : (s.answer r).inletAt = s.inletAt := rfl
@[simp] theorem answer_outlet (r : BitVec 2) : (s.answer r).outlet = s.outlet := rfl
@[simp] theorem answer_grp (r : BitVec 2) : (s.answer r).grp = s.grp := rfl
@[simp] theorem answer_sel (r : BitVec 2) : (s.answer r).sel = s.sel := rfl
@[simp] theorem answer_dial (r : BitVec 2) : (s.answer r).dial = s.dial := rfl
@[simp] theorem answer_pgAt (r : BitVec 2) : (s.answer r).pgAt = s.pgAt := rfl
@[simp] theorem answer_safeQ (r : BitVec 2) : (s.answer r).safeQ = s.safeQ := rfl
@[simp] theorem answer_cvc (r : BitVec 2) : (s.answer r).cvc = s.cvc := rfl
@[simp] theorem answer_trip (r : BitVec 2) : (s.answer r).trip = s.trip := rfl
@[simp] theorem answer_fw (r : BitVec 2) : (s.answer r).fw = s.fw := rfl
@[simp] theorem answer_quench (r : BitVec 2) : (s.answer r).quench = s.quench := rfl
@[simp] theorem answer_fences (r : BitVec 2) : (s.answer r).fences = s.fences := rfl
@[simp] theorem answer_rgl (r : BitVec 2) : (s.answer r).rgl = s.rgl := rfl
@[simp] theorem answer_slotA (r : BitVec 2) : (s.answer r).slotA = s.slotA := rfl
@[simp] theorem answer_slotB (r : BitVec 2) : (s.answer r).slotB = s.slotB := rfl
@[simp] theorem answer_upg (r : BitVec 2) : (s.answer r).upg = s.upg := rfl
@[simp] theorem answer_gf (r : BitVec 2) : (s.answer r).gf = s.gf := rfl
@[simp] theorem answer_esc (r : BitVec 2) : (s.answer r).esc = s.esc := rfl
@[simp] theorem answer_rmt (r : BitVec 2) : (s.answer r).rmt = s.rmt := rfl
@[simp] theorem answer_link (r : BitVec 2) : (s.answer r).link = s.link := rfl
@[simp] theorem answer_tap (r : BitVec 2) : (s.answer r).tap = s.tap := rfl
@[simp] theorem answer_dbg (r : BitVec 2) : (s.answer r).dbg = s.dbg := rfl
@[simp] theorem answer_power (r : BitVec 2) : (s.answer r).power = s.power := rfl
@[simp] theorem answer_lcs (r : BitVec 2) : (s.answer r).lcs = s.lcs := rfl
@[simp] theorem answer_pins (r : BitVec 2) : (s.answer r).pins = s.pins := rfl
@[simp] theorem ctxAt_answer (r : BitVec 2) (y : Nat) : (s.answer r).ctxAt y = s.ctxAt y := rfl
@[simp] theorem engAt_answer (r : BitVec 2) (y : Nat) : (s.answer r).engAt y = s.engAt y := rfl
@[simp] theorem trainAt_answer (r : BitVec 2) (y : Nat) : (s.answer r).trainAt y = s.trainAt y := rfl
@[simp] theorem outAt_answer (r : BitVec 2) (y : Nat) : (s.answer r).outAt y = s.outAt y := rfl
@[simp] theorem fwAt_answer (r : BitVec 2) (y : Nat) : (s.answer r).fwAt y = s.fwAt y := rfl
@[simp] theorem byteAt_answer (r : BitVec 2) (y : Nat) : (s.answer r).byteAt y = s.byteAt y := rfl

@[simp] theorem answerRead_variant (v : Word) : (s.answerRead v).variant = s.variant := rfl
@[simp] theorem answerRead_time (v : Word) : (s.answerRead v).time = s.time := rfl
@[simp] theorem answerRead_pending (v : Word) : (s.answerRead v).pending = s.pending := rfl
@[simp] theorem answerRead_freeCtr (v : Word) : (s.answerRead v).freeCtr = s.freeCtr := rfl
@[simp] theorem answerRead_mem (v : Word) : (s.answerRead v).mem = s.mem := rfl
@[simp] theorem answerRead_ue (v : Word) : (s.answerRead v).ue = s.ue := rfl
@[simp] theorem answerRead_ce (v : Word) : (s.answerRead v).ce = s.ce := rfl
@[simp] theorem answerRead_scratch (v : Word) : (s.answerRead v).scratch = s.scratch := rfl
@[simp] theorem answerRead_ctx (v : Word) : (s.answerRead v).ctx = s.ctx := rfl
@[simp] theorem answerRead_eng (v : Word) : (s.answerRead v).eng = s.eng := rfl
@[simp] theorem answerRead_train (v : Word) : (s.answerRead v).train = s.train := rfl
@[simp] theorem answerRead_win (v : Word) : (s.answerRead v).win = s.win := rfl
@[simp] theorem answerRead_inletAt (v : Word) : (s.answerRead v).inletAt = s.inletAt := rfl
@[simp] theorem answerRead_outlet (v : Word) : (s.answerRead v).outlet = s.outlet := rfl
@[simp] theorem answerRead_grp (v : Word) : (s.answerRead v).grp = s.grp := rfl
@[simp] theorem answerRead_sel (v : Word) : (s.answerRead v).sel = s.sel := rfl
@[simp] theorem answerRead_dial (v : Word) : (s.answerRead v).dial = s.dial := rfl
@[simp] theorem answerRead_pgAt (v : Word) : (s.answerRead v).pgAt = s.pgAt := rfl
@[simp] theorem answerRead_safeQ (v : Word) : (s.answerRead v).safeQ = s.safeQ := rfl
@[simp] theorem answerRead_cvc (v : Word) : (s.answerRead v).cvc = s.cvc := rfl
@[simp] theorem answerRead_trip (v : Word) : (s.answerRead v).trip = s.trip := rfl
@[simp] theorem answerRead_fw (v : Word) : (s.answerRead v).fw = s.fw := rfl
@[simp] theorem answerRead_quench (v : Word) : (s.answerRead v).quench = s.quench := rfl
@[simp] theorem answerRead_fences (v : Word) : (s.answerRead v).fences = s.fences := rfl
@[simp] theorem answerRead_rgl (v : Word) : (s.answerRead v).rgl = s.rgl := rfl
@[simp] theorem answerRead_slotA (v : Word) : (s.answerRead v).slotA = s.slotA := rfl
@[simp] theorem answerRead_slotB (v : Word) : (s.answerRead v).slotB = s.slotB := rfl
@[simp] theorem answerRead_upg (v : Word) : (s.answerRead v).upg = s.upg := rfl
@[simp] theorem answerRead_gf (v : Word) : (s.answerRead v).gf = s.gf := rfl
@[simp] theorem answerRead_esc (v : Word) : (s.answerRead v).esc = s.esc := rfl
@[simp] theorem answerRead_rmt (v : Word) : (s.answerRead v).rmt = s.rmt := rfl
@[simp] theorem answerRead_link (v : Word) : (s.answerRead v).link = s.link := rfl
@[simp] theorem answerRead_tap (v : Word) : (s.answerRead v).tap = s.tap := rfl
@[simp] theorem answerRead_dbg (v : Word) : (s.answerRead v).dbg = s.dbg := rfl
@[simp] theorem answerRead_power (v : Word) : (s.answerRead v).power = s.power := rfl
@[simp] theorem answerRead_lcs (v : Word) : (s.answerRead v).lcs = s.lcs := rfl
@[simp] theorem answerRead_pins (v : Word) : (s.answerRead v).pins = s.pins := rfl
@[simp] theorem ctxAt_answerRead (v : Word) (y : Nat) : (s.answerRead v).ctxAt y = s.ctxAt y := rfl
@[simp] theorem engAt_answerRead (v : Word) (y : Nat) : (s.answerRead v).engAt y = s.engAt y := rfl
@[simp] theorem trainAt_answerRead (v : Word) (y : Nat) : (s.answerRead v).trainAt y = s.trainAt y := rfl
@[simp] theorem outAt_answerRead (v : Word) (y : Nat) : (s.answerRead v).outAt y = s.outAt y := rfl
@[simp] theorem fwAt_answerRead (v : Word) (y : Nat) : (s.answerRead v).fwAt y = s.fwAt y := rfl
@[simp] theorem byteAt_answerRead (v : Word) (y : Nat) : (s.answerRead v).byteAt y = s.byteAt y := rfl

end Sys2Proof.Machine
end

