-- ==== Sys2Proof/Laws/Keeps.lean ====
section
/-! SUPPORT. What every operation on the state keeps (`Keeps`): that it is a preorder, how it passes through records, choices and
folds, and that the operations on memory keep the canonical form. -/

namespace Sys2Proof.Machine
variable {r s t : State}

theorem Keeps.refl (s : State) : Keeps s s := ⟨rfl, rfl, rfl, id, id, id, fun h => ⟨h, Nat.le_refl _⟩, id⟩

theorem Keeps.trans {u : State} (h : Keeps s t) (g : Keeps t u) : Keeps s u :=
  ⟨g.queue.trans h.queue, g.variant.trans h.variant, g.time.trans h.time, g.safe ∘ h.safe, g.safeLow ∘ h.safeLow, g.locked ∘ h.locked,
   fun f => ⟨(g.life (h.life f).1).1, Nat.le_trans (h.life f).2 (g.life (h.life f).1).2⟩, g.memory ∘ h.memory⟩

/-- A state that differs from `s` only in fields that `Keeps` does not speak of, or that differ as it allows. -/
theorem Keeps.of_parts (h : Keeps r s) (h1 : t.pending = s.pending) (h2 : t.variant = s.variant) (h3 : t.time = s.time)
    (h4 : s.gf.safe = true → t.gf.safe = true) (h5 : s.pins.safeN = false → t.pins.safeN = false)
    (h6 : s.rmt.startedSecured = true → t.rmt.startedSecured = true)
    (h7 : t.lcs.busy = s.lcs.busy ∧ t.lcs.st = s.lcs.st) (h8 : t.mem = s.mem) : Keeps r t :=
  h.trans ⟨h1, h2, h3, h4, h5, h6, by simp only [Lcs.forward, h7.1, h7.2]; exact fun h => ⟨h, Nat.le_refl _⟩, by rw [h8]; exact id⟩

/-- A record update of fields that `Keeps` does not speak of, or that change as it allows. -/
theorem keeps_mk (h : Keeps r s) {freeCtr ue ce scratch ctx eng train win inletAt outlet grp sel dial cvc trip pgAt safeQ fw quench
    fences rgl slotA slotB upg gf esc rmt link tap dbg power lcs pins host}
    (h4 : s.gf.safe = true → gf.safe = true) (h5 : s.pins.safeN = false → pins.safeN = false)
    (h6 : s.rmt.startedSecured = true → rmt.startedSecured = true) (h7 : lcs.busy = s.lcs.busy ∧ lcs.st = s.lcs.st) :
    Keeps r (State.mk s.variant s.time s.pending freeCtr s.mem ue ce scratch ctx eng train win inletAt outlet grp sel dial cvc trip
      pgAt safeQ fw quench fences rgl slotA slotB upg gf esc rmt link tap dbg power lcs pins host) :=
  h.of_parts rfl rfl rfl h4 h5 h6 h7 rfl

/-- A state whose lifecycle record alone differs, and goes forward. -/
theorem keeps_lcs (h : Keeps r s) {l : Lcs} (hl : s.lcs.forward → l.forward ∧ s.lcs.st.code ≤ l.st.code) :
    Keeps r { s with lcs := l } :=
  h.trans ⟨rfl, rfl, rfl, id, id, id, hl, id⟩

/-- A cut of fuse programming leaves the old state or the one it was going to. -/
theorem forward_cut (x : Lcs) (new part : Bool) (h : x.forward) :
    (x.cut new part).forward ∧ x.st.code ≤ (x.cut new part).st.code := by
  unfold Lcs.cut
  split
  · next st hb =>
    split
    · exact ⟨(fun _ hy => by cases hy), Nat.le_of_lt (h st hb)⟩
    · exact ⟨(fun _ hy => by cases hy), Nat.le_refl _⟩
  · exact ⟨(fun _ hy => by cases hy), Nat.le_refl _⟩
  · exact ⟨h, Nat.le_refl _⟩

/-- A transition that the lifecycle allows goes to a state of a higher code. -/
theorem forward_transition {st : LState} {token : List Byte} (h : s.transition st token = true) : s.lcs.st.code < st.code := by
  unfold State.transition at h
  split at h <;> simp_all [LState.code]
  cases hs : s.lcs.st <;> simp_all

theorem keeps_ite {c : Prop} [Decidable c] {a b : State} (ha : Keeps r a) (hb : Keeps r b) : Keeps r (if c then a else b) := by
  split <;> assumption

theorem keeps_ite2 {α : Type} {c : Prop} [Decidable c] {a b : State × α} (ha : Keeps r a.1) (hb : Keeps r b.1) :
    Keeps r (if c then a else b).1 := by
  split <;> assumption

theorem keeps_ite3 {α : Type} {c : Prop} [Decidable c] {a b : α × State} (ha : Keeps r a.2) (hb : Keeps r b.2) :
    Keeps r (if c then a else b).2 := by
  split <;> assumption

theorem keeps_iteRes {c : Prop} [Decidable c] {a b : IRes} (ha : Keeps r a.state) (hb : Keeps r b.state) :
    Keeps r (if c then a else b).state := by
  split <;> assumption

theorem keeps_foldl {α : Type} {f : State → α → State} (hf : ∀ s a, Keeps r s → Keeps r (f s a)) (l : List α) (h : Keeps r s) :
    Keeps r (l.foldl f s) := by
  induction l generalizing s with
  | nil => exact h
  | cons a l ih => exact ih (hf s a h)

/-- As `keeps_foldl` where the folded value carries something beside the state. -/
theorem keeps_foldl2 {α β : Type} {f : State × β → α → State × β} (hf : ∀ p a, Keeps r p.1 → Keeps r (f p a).1) (l : List α)
    {p : State × β} (h : Keeps r p.1) : Keeps r (l.foldl f p).1 := by
  induction l generalizing p with
  | nil => exact h
  | cons a l ih => exact ih (hf p a h)

theorem keeps_doneRes {c : Ctx} {n : Nat} (h : Keeps r s) : Keeps r (IRes.done s c n).state := h

theorem keeps_flowRes {c : Ctx} {t : Word} {n : Nat} (h : Keeps r s) : Keeps r (IRes.flow s c t n).state := h

theorem keeps_waitRes {c : Ctx} {n : Nat} (h : Keeps r s) : Keeps r (IRes.wait s c n).state := h

theorem keeps_faultRes {c : Ctx} {f : Flt} (h : Keeps r s) : Keeps r (IRes.fault s c f).state := h

theorem keeps_endedRes (h : Keeps r s) : Keeps r (IRes.ended s).state := h

/-- Where a choice leads to. -/
theorem keeps_getD {o : Option State} (ho : ∀ t, o = some t → Keeps r t) (h : Keeps r s) : Keeps r (o.getD s) := by
  cases o with
  | none => exact h
  | some t => exact ho t rfl

/-! ### Memory -/

/-- A state whose memory alone differs, in canonical form. -/
theorem keeps_mem (h : Keeps r s) {m : List Host.Cell} {u c : List Nat} (hm : Memory.wf s.mem = true → Memory.wf m = true) :
    Keeps r { s with mem := m, ue := u, ce := c } :=
  h.trans ⟨rfl, rfl, rfl, id, id, id, fun h => ⟨h, Nat.le_refl _⟩, hm⟩

theorem keeps_setByte (h : Keeps r s) (a : Nat) (b : Byte) : Keeps r (s.setByte a b) :=
  h.trans ⟨rfl, rfl, rfl, id, id, id, fun h => ⟨h, Nat.le_refl _⟩, fun w => Tab.wf_set _ a b w⟩

theorem keeps_putBytes (h : Keeps r s) (a n v : Nat) : Keeps r (s.putBytes a n v) := by
  induction n generalizing s a v with
  | zero => exact h
  | succ n ih => exact ih (keeps_setByte h a _) _ _

theorem keeps_putList (h : Keeps r s) (a : Nat) (l : List Byte) : Keeps r (s.putList a l) := by
  induction l generalizing s a with
  | nil => exact h
  | cons b l ih => exact ih (keeps_setByte h a b) _

theorem keeps_wrWord (h : Keeps r s) (a n v : Nat) : Keeps r (s.wrWord a n v).1 := by
  unfold State.wrWord
  split
  · exact h
  · split
    · exact (keeps_putBytes h a 8 v).of_parts rfl rfl rfl id id id ⟨rfl, rfl⟩ rfl
    · split
      · exact h
      · exact (keeps_putBytes h a n v).of_parts rfl rfl rfl id id id ⟨rfl, rfl⟩ rfl

/-- Leaving cells out keeps the canonical form. -/
theorem wf_filter {m : List Host.Cell} (p : Host.Cell → Bool) (h : Memory.wf m = true) : Memory.wf (m.filter p) = true :=
  Tab.wf_sublist _ List.filter_sublist h

theorem keeps_wipe (h : Keeps r s) (a n : Nat) : Keeps r (s.wipe a n) := keeps_mem h (wf_filter _)

/-- The cells below, new cells within and the cells from a bound on make a canonical memory. -/
theorem wf_splice {m l : List Host.Cell} {a b : Nat} (h : Memory.wf m = true) (hab : a ≤ b)
    (hl : l.Pairwise (fun p q => p.1 < q.1)) (hr : ∀ p ∈ l, a ≤ p.1 ∧ p.1 < b ∧ p.2 ≠ 0) :
    Memory.wf (m.takeWhile (fun c => decide (c.1 < a)) ++ l ++ m.dropWhile (fun c => decide (c.1 < b))) = true := by
  have w := (Tab.wfFrom_iff (fun _ => (0 : Byte)) (lo := 0)).1 h
  have lo : ∀ p ∈ m.takeWhile (fun c => decide (c.1 < a)), p.1 < a := by
    intro p hp
    simpa using List.all_eq_true.1 (List.all_takeWhile (p := fun c : Host.Cell => decide (c.1 < a))) p hp
  have hi : ∀ p ∈ m.dropWhile (fun c => decide (c.1 < b)), b ≤ p.1 := by
    have : ∀ (m : List Host.Cell), m.Pairwise (fun p q => p.1 < q.1) →
        ∀ p ∈ m.dropWhile (fun c => decide (c.1 < b)), b ≤ p.1 := by
      intro m
      induction m with
      | nil => intro _ p hp; cases hp
      | cons c m ih =>
        intro hm p hp
        rw [List.pairwise_cons] at hm
        by_cases hc : c.1 < b
        · simp only [List.dropWhile_cons, hc, decide_true, if_true] at hp
          exact ih hm.2 p hp
        · simp only [List.dropWhile_cons, hc, decide_false, Bool.false_eq_true, if_false, List.mem_cons] at hp
          rcases hp with rfl | hp
          · omega
          · have := hm.1 p hp; omega
    exact this m w.1
  refine (Tab.wfFrom_iff _).2 ⟨?_, ?_⟩
  · rw [List.pairwise_append, List.pairwise_append]
    refine ⟨⟨w.1.sublist (List.takeWhile_sublist _), hl, fun p hp q hq => ?_⟩, w.1.sublist (List.dropWhile_sublist _), fun p hp q hq => ?_⟩
    · have := lo p hp; have := (hr q hq).1; omega
    · have := hi q hq
      rcases List.mem_append.1 hp with hp | hp
      · have := lo p hp; omega
      · have := (hr p hp).2.1; omega
  · intro p hp
    refine ⟨Nat.zero_le _, ?_⟩
    rcases List.mem_append.1 hp with hp | hp
    · rcases List.mem_append.1 hp with hp | hp
      · exact (w.2 p ((List.takeWhile_sublist _).subset hp)).2
      · exact (hr p hp).2.2
    · exact (w.2 p ((List.dropWhile_sublist _).subset hp)).2

theorem keeps_putRange (h : Keeps r s) (a : Nat) (l : List Byte) : Keeps r (s.putRange a l) := by
  refine keeps_mem h (fun w => wf_splice w (Nat.le_add_right a l.length) ?_ ?_)
  · refine List.Pairwise.filter _ ?_
    rw [List.pairwise_map, List.pairwise_iff_getElem]
    intro i j hi hj hij
    simp only [List.getElem_zipIdx]
    omega
  · intro p hp
    rw [List.mem_filter, List.mem_map] at hp
    obtain ⟨⟨q, hq, rfl⟩, h0⟩ := hp
    have := List.mem_zipIdx hq
    refine ⟨this.1, by omega, by simpa using h0⟩

/-- A copy of cells to another place, in order. -/
theorem keeps_copyCells (h : Keeps r s) (k : Nat) (m : MachE) : Keeps r (s.copyCells k m) := by
  refine h.trans ⟨rfl, rfl, rfl, id, id, id, fun h => ⟨h, Nat.le_refl _⟩, fun w =>
    wf_splice (wf_filter _ w) (Nat.le_add_right _ 0x10000) ?_ ?_⟩
  · have w' := (Tab.wfFrom_iff _).1 w
    rw [List.pairwise_map]
    refine (List.Pairwise.filter _ w'.1).imp_of_mem ?_
    intro p q hp hq hpq
    rw [List.mem_filter] at hp hq
    have h1 := of_decide_eq_true hp.2
    have h2 := of_decide_eq_true hq.2
    dsimp only
    omega
  · intro p hp
    rw [List.mem_map] at hp
    obtain ⟨q, hq, rfl⟩ := hp
    rw [List.mem_filter] at hq
    have h1 := of_decide_eq_true hq.2
    have h2 := ((Tab.wfFrom_iff _).1 w).2 q hq.1
    dsimp only
    exact ⟨by omega, by omega, h2.2⟩

end Sys2Proof.Machine
end

