-- ==== Sys2Proof/Laws/KeepsFaults.lean ====
section
/-! SUPPORT. What the accessors, the fault reactions and the train control registers keep (`Keeps`), one law per operation. -/

namespace Sys2Proof.Machine
variable {r s : State}

theorem keeps_setCtx {s : State} (h : Keeps r s) (id : Nat) (c : Ctx) : Keeps r (State.setCtx s id c) := by
  unfold State.setCtx
  repeat' (first | with_reducible assumption | exact ⟨rfl, rfl⟩ | intro _ | with_reducible apply keeps_mk)

theorem keeps_setEng {s : State} (h : Keeps r s) (k : Nat) (e : Engine) : Keeps r (State.setEng s k e) := by
  unfold State.setEng
  repeat' (first | with_reducible assumption | exact id | exact ⟨rfl, rfl⟩ | with_reducible apply keeps_mk)

theorem keeps_modEng {s : State} (h : Keeps r s) (k : Nat) (f : Engine → Engine) : Keeps r (State.modEng s k f) := by
  unfold State.modEng
  repeat' (first | with_reducible assumption | with_reducible apply keeps_setEng)

theorem keeps_setTrain {s : State} (h : Keeps r s) (t : Nat) (x : Train) : Keeps r (State.setTrain s t x) := by
  unfold State.setTrain
  repeat' (first | with_reducible assumption | exact id | exact ⟨rfl, rfl⟩ | with_reducible apply keeps_mk)

theorem keeps_modTrain {s : State} (h : Keeps r s) (t : Nat) (f : Train → Train) : Keeps r (State.modTrain s t f) := by
  unfold State.modTrain
  repeat' (first | with_reducible assumption | with_reducible apply keeps_setTrain)

theorem keeps_modCtx {s : State} (h : Keeps r s) (id : Nat) (f : Ctx → Ctx) : Keeps r (State.modCtx s id f) := by
  unfold State.modCtx
  repeat' (first | with_reducible assumption | with_reducible apply keeps_setCtx)

theorem keeps_modOut {s : State} (h : Keeps r s) (n : Nat) (f : Outlet → Outlet) : Keeps r (State.modOut s n f) := by
  unfold State.modOut
  repeat' (first | with_reducible assumption | exact id | exact ⟨rfl, rfl⟩ | with_reducible apply keeps_mk)

theorem keeps_modGrp {s : State} (h : Keeps r s) (g : Nat) (f : Grp → Grp) : Keeps r (State.modGrp s g f) := by
  unfold State.modGrp
  repeat' (first | with_reducible assumption | exact id | exact ⟨rfl, rfl⟩ | with_reducible apply keeps_mk)

theorem keeps_modDial {s : State} (h : Keeps r s) (n : Nat) (f : Dial → Dial) : Keeps r (State.modDial s n f) := by
  unfold State.modDial
  repeat' (first | with_reducible assumption | exact id | exact ⟨rfl, rfl⟩ | with_reducible apply keeps_mk)

theorem keeps_modCvc {s : State} (h : Keeps r s) (c : Nat) (f : Cvc → Cvc) : Keeps r (State.modCvc s c f) := by
  unfold State.modCvc
  repeat' (first | with_reducible assumption | exact id | exact ⟨rfl, rfl⟩ | with_reducible apply keeps_mk)

theorem keeps_modTrip {s : State} (h : Keeps r s) (n : Nat) (f : Trip → Trip) : Keeps r (State.modTrip s n f) := by
  unfold State.modTrip
  repeat' (first | with_reducible assumption | exact id | exact ⟨rfl, rfl⟩ | with_reducible apply keeps_mk)

theorem keeps_modMbox {s : State} (h : Keeps r s) (t : Nat) (m : Nat) (f : Mbox → Mbox) : Keeps r (State.modMbox s t m f) := by
  unfold State.modMbox
  repeat' (first | with_reducible assumption | with_reducible apply keeps_modTrain)

theorem keeps_draw {s : State} (h : Keeps r s)  : Keeps r (State.draw s).2 := by
  unfold State.draw
  repeat' (first | with_reducible assumption | exact id | exact ⟨rfl, rfl⟩ | with_reducible apply keeps_mk)

theorem keeps_setSlot {s : State} (h : Keeps r s) (gen : Bool) (x : ImgSlot) : Keeps r (State.setSlot s gen x) := by
  unfold State.setSlot
  repeat' (first | with_reducible assumption | with_reducible apply keeps_ite | exact id | exact ⟨rfl, rfl⟩ | with_reducible apply keeps_mk)

theorem keeps_modFw {s : State} (h : Keeps r s) (w : Nat) (f : FW → FW) : Keeps r (State.modFw s w f) := by
  unfold State.modFw
  repeat' (first | with_reducible assumption | exact id | exact ⟨rfl, rfl⟩ | with_reducible apply keeps_mk)

theorem keeps_record {s : State} (h : Keeps r s) (ev : Ev) : Keeps r (State.record s ev) := by
  unfold State.record
  repeat' (first | with_reducible assumption | with_reducible apply keeps_modFw | exact ⟨rfl, rfl⟩ | intro _ | split | with_reducible apply keeps_mk)

theorem keeps_raiseInfo {s : State} (h : Keeps r s) (ev : Ev) : Keeps r (State.raiseInfo s ev) := by
  unfold State.raiseInfo
  repeat' (first | with_reducible assumption | with_reducible apply keeps_record | with_reducible apply keeps_ite)

theorem keeps_flushOvf {s : State} (h : Keeps r s)  : Keeps r (State.flushOvf s) := by
  unfold State.flushOvf
  repeat' (first | with_reducible assumption | with_reducible apply keeps_ite | exact id | exact ⟨rfl, rfl⟩ | with_reducible apply keeps_mk)

theorem keeps_emit {s : State} (h : Keeps r s) (p : List Byte) : Keeps r (State.emit s p) := by
  unfold State.emit
  repeat' (first | with_reducible assumption | with_reducible apply keeps_flushOvf | with_reducible apply keeps_raiseInfo | exact ⟨rfl, rfl⟩ | intro _ | split | with_reducible apply keeps_mk)

theorem keeps_flushFbr {s : State} (h : Keeps r s) (k : Nat) : Keeps r (State.flushFbr s k) := by
  unfold State.flushFbr
  repeat' (first | with_reducible assumption | with_reducible apply keeps_modEng | with_reducible apply keeps_emit | with_reducible apply keeps_ite)

theorem keeps_traceBranch {s : State} (h : Keeps r s) (k : Nat) (c : Ctx) (taken : Bool) : Keeps r (State.traceBranch s k c taken) := by
  unfold State.traceBranch
  repeat' (first | with_reducible assumption | with_reducible apply keeps_modEng | with_reducible apply keeps_flushFbr | with_reducible apply keeps_ite)

theorem keeps_traceWord {s : State} (h : Keeps r s) (k : Nat) (c : Ctx) (typ : Nat) (v : Word) : Keeps r (State.traceWord s k c typ v) := by
  unfold State.traceWord
  repeat' (first | with_reducible assumption | with_reducible apply keeps_flushFbr | with_reducible apply keeps_emit | with_reducible apply keeps_ite)

theorem keeps_traceEnd {s : State} (h : Keeps r s) (k : Nat) (c : Ctx) (reason : Nat) : Keeps r (State.traceEnd s k c reason) := by
  unfold State.traceEnd
  repeat' (first | with_reducible assumption | with_reducible apply keeps_flushFbr | with_reducible apply keeps_emit | with_reducible apply keeps_ite)

theorem keeps_overrideAll {s : State} (h : Keeps r s)  : Keeps r (State.overrideAll s) := by
  unfold State.overrideAll
  repeat' (first | with_reducible assumption | with_reducible apply keeps_modOut | with_reducible apply keeps_foldl | intro _)

theorem keeps_sendStop {s : State} (h : Keeps r s) (k : Nat) : Keeps r (State.sendStop s k) := by
  unfold State.sendStop
  repeat' (first | with_reducible assumption | with_reducible apply keeps_modEng)

theorem keeps_undoSub {s : State} (h : Keeps r s) (t : Nat) (u : Subst) : Keeps r (State.undoSub s t u) := by
  unfold State.undoSub
  exact keeps_ite h (keeps_ite (keeps_modEng h _ _) (keeps_modTrain (keeps_modEng h _ _) _ _))

theorem keeps_stopSubs {s : State} (h : Keeps r s) (t : Nat) : Keeps r (State.stopSubs s t) := by
  unfold State.stopSubs
  exact keeps_ite (keeps_modTrain (keeps_foldl (fun _ _ h => keeps_undoSub h _ _) _ h) _ _) h

theorem keeps_safeReact {s : State} (h : Keeps r s) (w : Nat) (src : Nat) (integ : Bool) : Keeps r (State.safeReact s w src integ) := by
  unfold State.safeReact
  exact keeps_ite h (keeps_foldl (fun _ _ h => keeps_stopSubs h _) _ (keeps_foldl (fun _ _ h => keeps_sendStop h _) _
    (keeps_overrideAll (keeps_mk h (fun _ => rfl) (fun _ => rfl) id ⟨rfl, rfl⟩))))

theorem keeps_holdRail {s : State} (h : Keeps r s) (t : Nat) : Keeps r (State.holdRail s t) := by
  unfold State.holdRail
  with_reducible exact keeps_modTrain h _ _

theorem keeps_holdSome {s : State} (h : Keeps r s) : Keeps r (State.holdSome s) := by
  unfold State.holdSome
  exact keeps_foldl (fun _ _ h => keeps_ite (keeps_holdRail h _) h) _ (keeps_draw h)

theorem keeps_degradeAct {s : State} (h : Keeps r s) (ev : Ev) : Keeps r (State.degradeAct s ev) := by
  unfold State.degradeAct
  repeat' (first | with_reducible assumption | with_reducible apply keeps_holdRail | with_reducible apply keeps_holdSome | with_reducible apply keeps_modEng | with_reducible apply keeps_modTrain | exact ⟨rfl, rfl⟩ | intro _ | split | with_reducible apply keeps_mk)

theorem keeps_raiseLow {s : State} (h : Keeps r s) (ev : Ev) : Keeps r (State.raiseLow s ev) := by
  unfold State.raiseLow
  repeat' (first | with_reducible assumption | with_reducible apply keeps_record | with_reducible apply keeps_degradeAct | with_reducible apply keeps_safeReact | with_reducible apply keeps_ite | split)

theorem keeps_openQuench {s : State} (h : Keeps r s) (x : Target) (grps : List Nat) : Keeps r (State.openQuench s x grps) := by
  unfold State.openQuench
  repeat' (first | with_reducible assumption | exact id | exact ⟨rfl, rfl⟩ | with_reducible apply keeps_mk)

theorem keeps_cutEngine {s : State} (h : Keeps r s) (k : Nat) : Keeps r (State.cutEngine s k) := by
  unfold State.cutEngine
  repeat' (first | with_reducible assumption | refine (fun (_ : Keeps r _) => ?_) | with_reducible apply keeps_traceEnd | with_reducible apply keeps_modEng | with_reducible apply keeps_modCtx | with_reducible apply keeps_foldl | intro _ | split)

theorem keeps_noSpare {s : State} (h : Keeps r s) (t : Nat) : Keeps r (State.noSpare s t) := by
  unfold State.noSpare
  repeat' (first | with_reducible assumption | with_reducible apply keeps_raiseLow)

theorem keeps_unserve {s : State} (h : Keeps r s) (t : Nat) (p : Nat) : Keeps r (State.unserve s t p) := by
  unfold State.unserve
  repeat' (first | with_reducible assumption | with_reducible apply keeps_modTrain)

theorem keeps_beginSub {s : State} (h : Keeps r s) (t : Nat) (p : Nat) (src : Nat) (d : Nat) (loaded : Bool) : Keeps r (State.beginSub s t p src d loaded) := by
  unfold State.beginSub
  repeat' (first | with_reducible assumption | with_reducible apply keeps_modEng | with_reducible apply keeps_modTrain | with_reducible apply keeps_raiseLow)

theorem keeps_raiseSubst {s : State} (h : Keeps r s) : Keeps r (State.raiseSubst s) := by
  unfold State.raiseSubst
  exact keeps_foldl (fun _ _ h => keeps_foldl (fun _ _ h => keeps_raiseLow h _) _ h) _ h

theorem keeps_substitute {s : State} (h : Keeps r s) (t : Nat) (e : Nat) (pos : Option Nat) : Keeps r (State.substitute s t e pos) := by
  unfold State.substitute
  repeat' (first | with_reducible assumption | with_reducible apply keeps_beginSub | with_reducible apply keeps_modTrain | with_reducible apply keeps_noSpare | with_reducible apply keeps_unserve | extract_lets +onlyGivenNames x | split)

theorem keeps_fenceEngine {s : State} (h : Keeps r s) (k : Nat) (retestable : Bool) : Keeps r (State.fenceEngine s k retestable) := by
  unfold State.fenceEngine
  repeat' (first | with_reducible assumption | with_reducible apply keeps_cutEngine | with_reducible apply keeps_modEng | with_reducible apply keeps_openQuench | with_reducible apply keeps_substitute | with_reducible apply keeps_ite)

theorem keeps_fenceTrain {s : State} (h : Keeps r s) (t : Nat) : Keeps r (State.fenceTrain s t) := by
  unfold State.fenceTrain
  repeat' (first | with_reducible assumption | with_reducible apply keeps_cutEngine | with_reducible apply keeps_modEng | with_reducible apply keeps_modTrain | with_reducible apply keeps_openQuench | with_reducible apply keeps_foldl | exact ⟨rfl, rfl⟩ | intro _ | split | with_reducible apply keeps_mk)

theorem keeps_stopQueue {s : State} (h : Keeps r s) (t : Nat) (q : Nat) : Keeps r (State.stopQueue s t q) := by
  unfold State.stopQueue
  repeat' (first | with_reducible assumption | with_reducible apply keeps_modTrain)

theorem keeps_fence {s : State} (h : Keeps r s) (x : Target) (retestable : Bool) : Keeps r (State.fence s x retestable) := by
  unfold State.fence
  repeat' (first | with_reducible assumption | with_reducible apply keeps_fenceEngine | with_reducible apply keeps_fenceTrain | with_reducible apply keeps_stopQueue | with_reducible apply keeps_openQuench | exact ⟨rfl, rfl⟩ | intro _ | split | with_reducible apply keeps_mk)

theorem keeps_raise {s : State} (h : Keeps r s) (ev : Ev) : Keeps r (State.raise s ev) := by
  unfold State.raise
  repeat' (first | with_reducible assumption | with_reducible apply keeps_record | with_reducible apply keeps_degradeAct | with_reducible apply keeps_fence | with_reducible apply keeps_safeReact | with_reducible apply keeps_ite | split)

theorem keeps_raiseMemUE {s : State} (h : Keeps r s) (a : Nat) : Keeps r (State.raiseMemUE s a) := by
  unfold State.raiseMemUE
  repeat' (first | with_reducible assumption | with_reducible apply keeps_raise)

theorem keeps_noteWord {s : State} (h : Keeps r s) (a : Nat) : Keeps r (State.noteWord s a) := by
  unfold State.noteWord
  repeat' (first | with_reducible assumption | with_reducible apply keeps_raiseInfo | with_reducible apply keeps_draw | split)

theorem keeps_noteCE {s : State} (h : Keeps r s) (a : Nat) (n : Nat) : Keeps r (State.noteCE s a n) := by
  unfold State.noteCE
  repeat' (first | with_reducible assumption | with_reducible apply keeps_noteWord | split)

theorem keeps_strRead {s : State} (h : Keeps r s) (a : Nat) : Keeps r (State.strRead s a).2 := by
  unfold State.strRead
  repeat' (first | with_reducible assumption | with_reducible apply keeps_draw | with_reducible apply keeps_raiseMemUE | with_reducible apply keeps_noteCE | with_reducible apply keeps_ite3)

theorem keeps_pubRead {s : State} (h : Keeps r s) (gen : Bool) (lctx : Nat) (w : Nat) : Keeps r (State.pubRead s gen lctx w).2 := by
  unfold State.pubRead
  repeat' (first | with_reducible assumption | with_reducible apply keeps_noteWord | extract_lets +onlyGivenNames x | split)

theorem keeps_noteWords {s : State} (h : Keeps r s) (l : List Nat) : Keeps r (State.noteWords s l) := by
  unfold State.noteWords
  exact keeps_foldl (fun _ _ h => keeps_noteWord h _) _ h

theorem keeps_copyIn {s : State} (h : Keeps r s) (k : Nat) (m : MachE) : Keeps r (State.copyIn s k m) :=
  keeps_copyCells (keeps_noteWords h _) k m

theorem keeps_write {s : State} (h : Keeps r s) (a : Nat) (n : Nat) (v : Nat) : Keeps r (State.write s a n v) := by
  unfold State.write
  repeat' (first | with_reducible assumption | with_reducible apply keeps_noteCE | with_reducible apply keeps_wrWord | with_reducible apply keeps_raiseMemUE | with_reducible apply keeps_ite)

theorem keeps_place {s : State} (h : Keeps r s) (a : Nat) (l : List Byte) : Keeps r (State.place s a l) := by
  unfold State.place
  repeat' (first | with_reducible assumption | with_reducible apply keeps_noteWord | with_reducible apply keeps_putRange | with_reducible apply keeps_raiseMemUE | with_reducible apply keeps_foldl | intro _)

theorem keeps_strPost {s : State} (h : Keeps r s) (t : Nat) (mach : Bool) (v : Word) : Keeps r (State.strPost s t mach v) := by
  unfold State.strPost
  repeat' (first | with_reducible assumption | with_reducible apply keeps_modTrain | with_reducible apply keeps_raiseInfo | with_reducible apply keeps_ite)

theorem keeps_strRestart {s : State} (h : Keeps r s) (t : Nat) (v : Word) : Keeps r (State.strRestart s t v) := by
  unfold State.strRestart
  refine keeps_foldl (fun s q h => ?_) _ h
  refine keeps_ite ?_ h
  have h0 : Keeps r { s with fences := s.fences.filter (fun y => y != Target.queue t q)
                             quench := s.quench.filter (fun y => y.target != Target.queue t q) } := keeps_mk h id id id ⟨rfl, rfl⟩
  have h1 := keeps_modTrain h0 t (fun x => { x with str := { x.str with stop := x.str.stop &&& ~~~(1#16 <<< q) } })
  dsimp only
  split
  · exact keeps_ite h1 (keeps_write (keeps_strRead h1 _) _ _ _)
  · exact h1

theorem keeps_overwriteStore {s : State} (h : Keeps r s) (k : Nat) : Keeps r (State.overwriteStore s k) := by
  unfold State.overwriteStore
  extract_lets n
  exact keeps_putRange (keeps_mk h id id id ⟨rfl, rfl⟩) _ _

theorem keeps_enterTest {s : State} (h : Keeps r s) (k : Nat) : Keeps r (State.enterTest s k) := by
  exact keeps_modEng (keeps_overwriteStore h k) _ _

theorem keeps_trbRetest {s : State} (h : Keeps r s) (t : Nat) (v : Word) : Keeps r (State.trbRetest s t v) := by
  unfold State.trbRetest
  refine keeps_foldl (fun s q h => ?_) _ h
  extract_lets k x tr
  exact keeps_ite (keeps_modEng (keeps_enterTest (keeps_mk h id id id ⟨rfl, rfl⟩) _) _ _) h

theorem keeps_trainCtlRead_some {s : State} {t : Nat} {x : Nat} {mach : Bool} {quiet : Bool} {p : Word × State} (e : State.trainCtlRead s t x mach quiet = some p) (h : Keeps r s) : Keeps r p.2 := by
  revert e
  unfold State.trainCtlRead
  repeat' (first | with_reducible assumption | with_reducible apply keeps_modTrain | (intro e; cases e) | split)

theorem keeps_trainCtlWrite_some {s : State} {t : Nat} {x : Nat} {mach : Bool} {v : Word} {s' : State} (e : State.trainCtlWrite s t x mach v = some s') (h : Keeps r s) : Keeps r s' := by
  revert e
  unfold State.trainCtlWrite
  repeat' (first | with_reducible assumption | with_reducible apply keeps_modTrain | with_reducible apply keeps_strPost | with_reducible apply keeps_strRestart | with_reducible apply keeps_trbRetest | (intro e; cases e) | split)

end Sys2Proof.Machine
end

