-- ==== Sys2Proof/Laws/KeepsEngine.lean ====
section
/-! SUPPORT. What accesses, entries, the instructions and the engine events keep (`Keeps`), one law per operation. -/

namespace Sys2Proof.Machine
variable {r s : State}

theorem keeps_res {s : State} (h : Keeps r s) (x : Stop) (k : Nat) (c : Ctx) : Keeps r (Stop.res x k s c).state := by
  unfold Stop.res
  repeat' (first | with_reducible assumption | with_reducible apply keeps_modEng | with_reducible apply keeps_waitRes | with_reducible apply keeps_faultRes | split)

theorem keeps_retireEntry {s : State} (h : Keeps r s) (e : SBE) : Keeps r (State.retireEntry s e) := by
  unfold State.retireEntry
  repeat' (first | with_reducible assumption | with_reducible apply keeps_wrWord | with_reducible apply keeps_raiseMemUE | with_reducible apply keeps_noteCE | with_reducible apply keeps_ite)

theorem keeps_retireOne {s : State} (h : Keeps r s) (k : Nat) : Keeps r (State.retireOne s k) := by
  unfold State.retireOne
  repeat' (first | with_reducible assumption | with_reducible apply keeps_modEng | with_reducible apply keeps_retireEntry | split)

theorem keeps_pass {s : State} (h : Keeps r s) (k : Nat) (l : List Beat) : Keeps r (State.pass s k l) := by
  unfold State.pass
  repeat' (first | with_reducible assumption | with_reducible apply keeps_modEng)

theorem keeps_settle {s : State} (h : Keeps r s) (k : Nat) : Keeps r (State.settle s k) := by
  unfold State.settle
  repeat' (first | with_reducible assumption | with_reducible apply keeps_retireOne | with_reducible apply keeps_foldl | intro _)

theorem keeps_untilRoom (k n m : Nat) (h : Keeps r s) (b : Nat) : Keeps r (State.untilRoom k n m s b).1 := by
  induction m generalizing s b with
  | zero => exact h
  | succ m ih => exact keeps_ite2 h (ih (keeps_settle (keeps_pass h _ _) _) _)

theorem keeps_elapse {s : State} (h : Keeps r s) (k : Nat) (l : List Beat) : Keeps r (State.elapse s k l) :=
  keeps_settle (keeps_pass h k l) k

theorem keeps_loadBeats {s : State} (h : Keeps r s) (w : Who) (l : List Beat) : Keeps r (State.loadBeats s w l) :=
  keeps_elapse (keeps_ite (keeps_elapse h _ _) h) _ _

theorem keeps_readSample {s : State} (h : Keeps r s) (k : Nat) (c : Ctx) (ch : Nat) : Keeps r (State.readSample s k c ch).2.2.1 := by
  unfold State.readSample
  repeat' (first | with_reducible assumption | with_reducible apply keeps_raise | with_reducible apply keeps_ite)

theorem keeps_cvcReject {s : State} (h : Keeps r s) (n : Nat) : Keeps r (State.cvcReject s n) := by
  unfold State.cvcReject
  repeat' (first | with_reducible assumption | with_reducible apply keeps_raise)

theorem keeps_cvcStore {s : State} (h : Keeps r s) (n : Nat) (v : Word) : Keeps r (State.cvcStore s n v) := by
  unfold State.cvcStore
  repeat' (first | with_reducible assumption | with_reducible apply keeps_modCvc | with_reducible apply keeps_cvcReject | with_reducible apply keeps_ite)

theorem keeps_stagingStore {s : State} (h : Keeps r s) (k : Nat) (ch : Nat) (v : Word) (checker : Bool) : Keeps r (State.stagingStore s k ch v checker) := by
  unfold State.stagingStore
  repeat' (first | with_reducible assumption | with_reducible apply keeps_modOut | with_reducible apply keeps_modEng | with_reducible apply keeps_ite)

theorem keeps_stimWrite {s : State} (h : Keeps r s) (p : Nat) (v : Word) (src : Byte) : Keeps r (State.stimWrite s p v src) := by
  unfold State.stimWrite
  repeat' (first | with_reducible assumption | with_reducible apply keeps_emit | with_reducible apply keeps_ite)

theorem keeps_ectlLoad {s : State} (h : Keeps r s) (k : Nat) (x : Nat) : Keeps r (State.ectlLoad s k x).2 := by
  unfold State.ectlLoad
  repeat' (first | with_reducible assumption | with_reducible apply keeps_draw | split)

theorem keeps_ectlStore {s : State} (h : Keeps r s) (k : Nat) (x : Nat) (v : Word) : Keeps r (State.ectlStore s k x v) := by
  unfold State.ectlStore
  repeat' (first | with_reducible assumption | with_reducible apply keeps_stimWrite | with_reducible apply keeps_ite)

theorem keeps_tctlLoad {s : State} (h : Keeps r s) (k : Nat) (x : Nat) (quiet : Bool) : Keeps r (State.tctlLoad s k x quiet).2 := by
  unfold State.tctlLoad
  repeat' (first | with_reducible assumption | with_reducible apply keeps_draw | split | refine keeps_trainCtlRead_some (by assumption) ?_)

theorem keeps_requestHalt {s : State} (h : Keeps r s) (k : Nat) (cause : BitVec 3) : Keeps r (State.requestHalt s k cause) := by
  unfold State.requestHalt
  repeat' (first | with_reducible assumption | with_reducible apply keeps_modEng | with_reducible apply keeps_raiseInfo | with_reducible apply keeps_ite)

theorem keeps_watch {s : State} (h : Keeps r s) (w : Who) (exec : Bool) (store : Bool) (a : Nat) (n : Nat) (vals : List Word) : Keeps r (State.watch s w exec store a n vals) := by
  unfold State.watch
  repeat' (first | with_reducible assumption | with_reducible apply keeps_modEng | with_reducible apply keeps_emit | with_reducible apply keeps_foldl | exact ⟨rfl, rfl⟩ | intro _ | split | with_reducible apply keeps_mk)

theorem keeps_watchData {s : State} (h : Keeps r s) (w : Who) (store : Bool) (a : Nat) (n : Nat) (vals : List Word) : Keeps r (State.watchData s w store a n vals) := by
  unfold State.watchData
  repeat' (first | with_reducible assumption | with_reducible apply keeps_watch | with_reducible apply keeps_modEng | with_reducible apply keeps_requestHalt | exact ⟨rfl, rfl⟩ | intro _ | split | with_reducible apply keeps_mk)

/-- The state that a load leaves keeps what `r` says. -/
def Ld.Kept (r : State) : Ld → Prop
  | .val s _ _ _ | .ue s _ _ | .wait s => Keeps r s
  | .bnd | .flt _ => True

theorem keeps_winLoad {s : State} (h : Keeps r s) (w : Who) (c : Ctx) (rg : Rgn) (a n cost : Nat) :
    (State.winLoad s w c rg a n cost).Kept r := by
  unfold State.winLoad
  extract_lets s1 o v x y z
  have h1 : Keeps r s1 := keeps_elapse h _ _
  cases rg with
  | sample => exact keeps_readSample h1 _ _ _
  | pub =>
    dsimp only
    split
    · split
      · exact h1
      · exact keeps_noteCE h1 _ _
    · exact h1
  | ectl => exact keeps_ectlLoad h1 _ _
  | tctl => exact keeps_tctlLoad h1 _ _ _
  | staging => exact h1
  | cvc => exact h1
  | mbox => exact h1
  | _ => trivial

theorem keeps_memRead {s : State} {a key n : Nat} {x : State × Nat} (e : State.memRead s a key n = .ok x) (h : Keeps r s) :
    Keeps r x.1 := by
  unfold State.memRead at e
  split at e
  · cases e; exact h
  · split at e
    · cases e
    · cases e; exact keeps_noteCE h _ _

theorem keeps_memLoad {s : State} (h : Keeps r s) (w : Who) (c : Ctx) (rg : Rgn) (a key n : Nat) :
    (State.memLoad s w c rg a key n).Kept r := by
  unfold State.memLoad
  extract_lets cost s1
  have h1 : Keeps r s1 := keeps_loadBeats h _ _
  split
  · next heq => exact keeps_memRead heq h1
  · exact h1

theorem keeps_begin {s : State} (h : Keeps r s) (k : Nat) (b : Begun) : Keeps r (State.begin s k b) := by
  unfold State.begin
  repeat' (first | with_reducible assumption | with_reducible apply keeps_modEng)

theorem keeps_load {s : State} (h : Keeps r s) (w : Who) (c : Ctx) (a n : Nat) : (State.load s w c a n).Kept r := by
  unfold State.load
  split
  · trivial
  · split
    · split
      · trivial
      · dsimp only
        split
        · exact keeps_begin h _ _
        · split
          · exact keeps_loadBeats h _ _
          · exact keeps_memLoad h _ _ _ _ _ _
    · split
      · trivial
      · split
        · trivial
        · exact keeps_winLoad h _ _ _ _ _ _

theorem keeps_load_val {s : State} {w : Who} {c : Ctx} {a : Nat} {n : Nat} {s' : State} {c0 : Ctx} {v0 n0 : Nat} (e : State.load s w c a n = .val s' c0 v0 n0) (h : Keeps r s) : Keeps r s' := by
  have := keeps_load h w c a n
  rwa [e] at this

theorem keeps_load_ue {s : State} {w : Who} {c : Ctx} {a : Nat} {n : Nat} {s' : State} {f : Flt} {n0 : Nat} (e : State.load s w c a n = .ue s' f n0) (h : Keeps r s) : Keeps r s' := by
  have := keeps_load h w c a n
  rwa [e] at this

theorem keeps_load_wait {s : State} {w : Who} {c : Ctx} {a : Nat} {n : Nat} {s' : State} (e : State.load s w c a n = .wait s') (h : Keeps r s) : Keeps r s' := by
  have := keeps_load h w c a n
  rwa [e] at this

theorem keeps_store_ok {s : State} {w : Who} {a : Nat} {n : Nat} {v : Nat} {s' : State} (e : State.store s w a n v = .ok s') (h : Keeps r s) : Keeps r s' := by
  revert e
  unfold State.store
  repeat' (first | with_reducible assumption | with_reducible apply keeps_setEng | with_reducible apply keeps_stagingStore | with_reducible apply keeps_modEng | with_reducible apply keeps_cvcStore | with_reducible apply keeps_modMbox | with_reducible apply keeps_ectlStore | with_reducible apply keeps_getD | extract_lets +onlyGivenNames x | (intro e; refine keeps_trainCtlWrite_some e ?_) | (intro e; cases e) | split)

theorem keeps_store_wait {s : State} {w : Who} {a : Nat} {n : Nat} {v : Nat} {s' : State} (e : State.store s w a n v = .wait s') (h : Keeps r s) : Keeps r s' := by
  revert e
  unfold State.store
  repeat' (first | with_reducible assumption | with_reducible apply keeps_modEng | with_reducible apply keeps_begin | extract_lets +onlyGivenNames x | exact id | (intro e; cases e) | split)

theorem keeps_setBank {s : State} (h : Keeps r s) (k : Nat) (c : Ctx) : Keeps r (State.setBank s k c) := by
  unfold State.setBank
  repeat' (first | with_reducible assumption | with_reducible apply keeps_setCtx | with_reducible apply keeps_modEng | split)

theorem keeps_addBeats {s : State} (h : Keeps r s) (k : Nat) (n : Nat) : Keeps r (State.addBeats s k n) := by
  unfold State.addBeats
  repeat' (first | with_reducible assumption | with_reducible apply keeps_modCtx | split)

theorem keeps_reportCE {s : State} (h : Keeps r s) (k : Nat) : Keeps r (State.reportCE s k) := by
  unfold State.reportCE
  repeat' (first | with_reducible assumption | with_reducible apply keeps_draw | with_reducible apply keeps_raiseInfo)

theorem keeps_upset {p : Batch} (h : Keeps r p.1) : Keeps r p.upset.1 := keeps_draw h

theorem keeps_report (h : Keeps r s) (k : Nat) (c : Ctx) (l : List Nat) : Keeps r (Batch.report k c l s) :=
  keeps_ite (keeps_reportCE h k) h

theorem keeps_spillDataWord (k : Nat) {p : Batch} (h : Keeps r p.1) : Keeps r (spillDataWord k p).1 :=
  keeps_ite2 h (keeps_ite2 (keeps_upset h) (keeps_report (keeps_wrWord h _ _ _) _ _ _))

theorem keeps_spillRetWord (k : Nat) {p : Batch} (h : Keeps r p.1) : Keeps r (spillRetWord k p).1 :=
  keeps_ite2 h (keeps_ite2 (keeps_upset h) (keeps_report (keeps_wrWord h _ _ _) _ _ _))

theorem keeps_fillDataWord (k : Nat) {p : Batch} (h : Keeps r p.1) : Keeps r (fillDataWord k p).1 :=
  keeps_ite2 h (keeps_ite2 h (keeps_noteCE h _ _))

theorem keeps_fillRetWord (k : Nat) {p : Batch} (h : Keeps r p.1) : Keeps r (fillRetWord k p).1 :=
  keeps_ite2 h (keeps_ite2 h (keeps_noteCE h _ _))

theorem keeps_fuseeBatch (op : FuseeOp) (k : Nat) (h : Keeps r s) (c : Ctx) : Keeps r (fuseeBatch op k s c).1 := by
  cases op with
  | spillData => exact keeps_foldl2 (fun p _ hp => keeps_spillDataWord k hp) _ (p := (s, c, none)) h
  | spillReturn => exact keeps_foldl2 (fun p _ hp => keeps_spillRetWord k hp) _ (p := (s, c, none)) h
  | fillData => exact keeps_foldl2 (fun p _ hp => keeps_fillDataWord k hp) _ (p := (s, c, none)) h
  | fillReturn => exact keeps_foldl2 (fun p _ hp => keeps_fillRetWord k hp) _ (p := (s, c, none)) h

theorem keeps_makeRetRoom (k n m : Nat) {p : Batch} (h : Keeps r p.1) (b : Nat) : Keeps r (makeRetRoom k n m p b).1.1 := by
  induction m generalizing p b with
  | zero => exact h
  | succ m ih =>
    unfold makeRetRoom
    split
    · exact ih (keeps_fuseeBatch _ k (keeps_untilRoom k 4 16 h b) _) _
    · exact h

theorem keeps_enterMachine {s : State} (h : Keeps r s) (k : Nat) (slot : Nat) (f : Flt) (x : EntryInfo) : Keeps r (State.enterMachine s k slot f x) := by
  unfold State.enterMachine
  repeat' (first | with_reducible assumption | with_reducible apply keeps_traceEnd | with_reducible apply keeps_setCtx | with_reducible apply keeps_modEng | with_reducible apply keeps_raise | with_reducible apply keeps_ite)

theorem keeps_enterSuper {s : State} (h : Keeps r s) (k : Nat) (slot : Nat) (f : Flt) (x : EntryInfo) : Keeps r (State.enterSuper s k slot f x) := by
  unfold State.enterSuper
  repeat' (first | with_reducible assumption | with_reducible apply keeps_makeRetRoom | with_reducible apply keeps_setCtx | with_reducible apply keeps_modEng | with_reducible apply keeps_enterMachine | with_reducible apply keeps_ite | split)

theorem keeps_machineFault {s : State} (h : Keeps r s) (k : Nat) (f : Flt) : Keeps r (State.machineFault s k f) := by
  unfold State.machineFault
  repeat' (first | with_reducible assumption | with_reducible apply keeps_modEng | with_reducible apply keeps_raise | with_reducible apply keeps_ite)

theorem keeps_endStep {s : State} (h : Keeps r s) (k : Nat) : Keeps r (State.endStep s k) := by
  unfold State.endStep
  repeat' (first | with_reducible assumption | with_reducible apply keeps_modEng | with_reducible apply keeps_requestHalt | with_reducible apply keeps_ite)

theorem keeps_enter {s : State} (h : Keeps r s) (k : Nat) (f : Flt) (x : EntryInfo) : Keeps r (State.enter s k f x) := by
  unfold State.enter
  repeat' (first | with_reducible assumption | with_reducible apply keeps_enterMachine | with_reducible apply keeps_enterSuper | with_reducible apply keeps_machineFault | split)

theorem keeps_takeFault {s : State} (h : Keeps r s) (k : Nat) (f : Flt) (x : EntryInfo) : Keeps r (State.takeFault s k f x) := by
  unfold State.takeFault
  repeat' (first | with_reducible assumption | with_reducible apply keeps_enter | with_reducible apply keeps_modEng | with_reducible apply keeps_pass | with_reducible apply keeps_settle | with_reducible apply keeps_endStep)

theorem keeps_fetchFault {s : State} (h : Keeps r s) (k : Nat) (f : Flt) (pc : Word) : Keeps r (State.fetchFault s k f pc) := by
  unfold State.fetchFault
  exact keeps_takeFault (keeps_draw h) _ _ _

theorem keeps_emptyBeats {s : State} (h : Keeps r s) (k : Nat) (l : List Beat) : Keeps r (State.emptyBeats s k l) := by
  unfold State.emptyBeats
  repeat' (first | with_reducible assumption | with_reducible apply keeps_addBeats | with_reducible apply keeps_modEng | with_reducible apply keeps_pass | with_reducible apply keeps_settle)

theorem keeps_wantLine {s : State} (h : Keeps r s) (k : Nat) (a : Nat) : Keeps r (State.wantLine s k a) := by
  unfold State.wantLine
  repeat' (first | with_reducible assumption | with_reducible apply keeps_modEng)

theorem keeps_dropLine {s : State} (h : Keeps r s) (k : Nat) (a : Nat) : Keeps r (State.dropLine s k a) := by
  unfold State.dropLine
  repeat' (first | with_reducible assumption | with_reducible apply keeps_modEng | with_reducible apply keeps_reportCE | with_reducible apply keeps_wantLine)

theorem keeps_execHalt {s : State} (h : Keeps r s) (k : Nat) (w : Who) (pc : Nat) (t : Word) (i : Nat) : Keeps r (State.execHalt s k w pc t i) := by
  unfold State.execHalt
  repeat' (first | with_reducible assumption | with_reducible apply keeps_watch | with_reducible apply keeps_modEng | with_reducible apply keeps_requestHalt)

theorem keeps_preFetch_some {s : State} {k : Nat} {c : Ctx} {e : Engine} {w : Who} {s' : State} (e : State.preFetch s k c e w = some s') (h : Keeps r s) : Keeps r s' := by
  unfold State.preFetch at e
  extract_lets pc line addr at e
  repeat' (split at e)
  · cases e; exact keeps_raise (keeps_emptyBeats (keeps_modEng h _ _) _ _) _
  · cases e; exact keeps_fetchFault h _ _ _
  · cases e; exact keeps_emptyBeats (keeps_modEng h _ _) _ _
  · cases e; exact keeps_fetchFault h _ _ _
  · cases e; exact keeps_fetchFault h _ _ _
  · cases e; exact keeps_wantLine h _ _
  · cases e; exact keeps_dropLine h _ _
  · cases e; exact keeps_fetchFault h _ _ _
  · cases e; exact keeps_fetchFault h _ _ _
  · obtain ⟨i, _, rfl⟩ := Option.map_eq_some_iff.1 e
    exact keeps_execHalt h _ _ _ _ _
  · cases e

theorem keeps_preIssue_some {s : State} {k : Nat} {s' : State} (e : State.preIssue s k = some s') (h : Keeps r s) : Keeps r s' := by
  revert e
  unfold State.preIssue
  repeat' (first | with_reducible assumption | with_reducible apply keeps_setBank | with_reducible apply keeps_takeFault | extract_lets +onlyGivenNames x | (intro e; refine keeps_preFetch_some e ?_) | (intro e; injection e; subst_vars) | split)

theorem keeps_finishAs (k : Nat) (w : BitVec 16) (second : Bool) {x : IRes} (h : Keeps r x.state) : Keeps r (finishAs k w second x) := by
  unfold finishAs
  extract_lets b
  refine keeps_ite h ?_
  cases x with
  | done s c n => exact keeps_endStep (keeps_addBeats (keeps_pass (keeps_modEng (keeps_setBank h _ _) _ _) _ _) _ _) _
  | flow s c t n => exact keeps_endStep (keeps_addBeats (keeps_pass (keeps_modEng (keeps_setBank h _ _) _ _) _ _) _ _) _
  | wait s c n =>
    dsimp only
    split
    · exact keeps_endStep (keeps_addBeats (keeps_pass (keeps_modEng (keeps_setBank h _ _) _ _) _ _) _ _) _
    · exact keeps_addBeats (keeps_pass (keeps_modEng (keeps_setBank h _ _) _ _) _ _) _ _
  | fault s c f => exact keeps_takeFault (keeps_setBank h _ _) _ _ _
  | ended s => exact h

theorem keeps_finish (k : Nat) (w : BitVec 16) (second : Bool) {x : IRes} (h : Keeps r x.state) : Keeps r (finish k w second x) := by
  exact keeps_settle (keeps_finishAs k w second h) k

theorem keeps_charge {s : State} (h : Keeps r s) (w : Who) (c : Ctx) (n : Nat) : Keeps r (charge s w c n).1 := by
  unfold charge
  repeat' (first | with_reducible assumption | with_reducible apply keeps_addBeats | with_reducible apply keeps_ite2)

theorem keeps_touchLine {s : State} (h : Keeps r s) (k : Nat) (c : Ctx) : Keeps r (State.touchLine s k c) := by
  unfold State.touchLine
  repeat' (first | with_reducible assumption | with_reducible apply keeps_modEng | with_reducible apply keeps_noteWord | split)

theorem keeps_eccGate (k : Nat) (w : BitVec 16) (h : Keeps r s) (c : Ctx) {x : IRes} (hx : Keeps r x.state) :
    Keeps r (eccGate k w s c x).state := by
  unfold eccGate
  refine keeps_iteRes hx ?_
  have hue : Keeps r (IRes.fault s.draw.2 c (.ecc s.draw.1)).state := keeps_draw h
  cases x with
  | fault s1 c1 f => exact keeps_iteRes hue hx
  | wait s1 c1 n => exact keeps_iteRes hx (keeps_iteRes hue (keeps_ite (keeps_reportCE hx k) hx))
  | done s1 c1 n => exact keeps_iteRes hue (keeps_ite (keeps_reportCE hx k) hx)
  | flow s1 c1 a n => exact keeps_iteRes hue (keeps_ite (keeps_reportCE hx k) hx)
  | ended s1 => exact keeps_iteRes hue (keeps_ite (keeps_reportCE hx k) hx)

theorem keeps_execute {body : Body} (hb : ∀ s w c, Keeps r s → Keeps r (body s w c).state) (k : Nat) (w : BitVec 16) (ok : Bool)
    (h : Keeps r s) : Keeps r (s.execute k w ok body) := by
  unfold State.execute
  extract_lets c s1 who d hit second s2 s3
  have h1 : Keeps r s1 := keeps_modEng (keeps_touchLine h k c) k _
  have h2 : Keeps r s2 := keeps_ite (keeps_watch h1 _ _ _ _ _ _) h1
  have h3 : Keeps r s3 := keeps_ite (keeps_requestHalt h2 _ _) h2
  exact keeps_ite (keeps_finish _ _ _ h3) (keeps_finish _ _ _ (keeps_eccGate _ _ h3 _ (hb _ _ _ h3)))

theorem keeps_pushRead {s : State} (h : Keeps r s) (v : Word) (w : Who) (c : Ctx) (cost : Nat) : Keeps r (pushRead v s w c cost).state := by
  unfold pushRead
  repeat' (first | with_reducible assumption | with_reducible apply keeps_res | with_reducible apply keeps_begin | with_reducible apply keeps_doneRes | split)

theorem keeps_stackBody {f : State → Who → Ctx → State × Ctx} (hf : ∀ s w c, Keeps r s → Keeps r (f s w c).1) (pop push cost : Nat)
    (w : Who) (c : Ctx) (h : Keeps r s) : Keeps r (stackBody pop push cost f s w c).state := by
  unfold stackBody
  split
  · exact keeps_res h _ _ _
  · split
    · exact keeps_res h _ _ _
    · exact hf s w c h

theorem keeps_dataBody (pop push cost : Nat) (f : Ctx → List Word → AluOut) (w : Who) (c : Ctx) (h : Keeps r s) :
    Keeps r (dataBody pop push cost f s w c).state := keeps_stackBody (fun _ _ _ h => h) pop push cost w c h

theorem keeps_shuffleBody (pop push : Nat) (f : List Word → List Word) (w : Who) (c : Ctx) (h : Keeps r s) :
    Keeps r (shuffleBody pop push f s w c).state := keeps_stackBody (fun _ _ _ h => h) pop push 1 w c h

theorem keeps_ldkBody (u : Nat) (w : Who) (c : Ctx) (h : Keeps r s) : Keeps r (ldkBody u s w c).state := by
  unfold ldkBody
  repeat' (first | with_reducible assumption | with_reducible apply keeps_res | with_reducible apply keeps_noteCE | with_reducible apply keeps_watchData | with_reducible apply keeps_iteRes | with_reducible apply keeps_doneRes | with_reducible apply keeps_faultRes | split)

theorem keeps_toRBody  (w : Who) (c : Ctx) (h : Keeps r s) : Keeps r (toRBody s w c).state := by
  unfold toRBody
  repeat' (first | with_reducible assumption | with_reducible apply keeps_res | with_reducible apply keeps_doneRes | split)

theorem keeps_fromRBody (pop : Bool) (push : Bool) (w : Who) (c : Ctx) (h : Keeps r s) : Keeps r (fromRBody pop push s w c).state := by
  unfold fromRBody
  repeat' (first | with_reducible assumption | with_reducible apply keeps_res | with_reducible apply keeps_doneRes | with_reducible apply keeps_faultRes | split)

theorem keeps_pickBody (x : Nat) (w : Who) (c : Ctx) (h : Keeps r s) : Keeps r (pickBody x s w c).state := by
  unfold pickBody
  repeat' (first | with_reducible assumption | with_reducible apply keeps_pushRead | with_reducible apply keeps_res | with_reducible apply keeps_noteCE | with_reducible apply keeps_faultRes | extract_lets +onlyGivenNames x | split)

theorem keeps_pokeBody (x : Nat) (w : Who) (c : Ctx) (h : Keeps r s) : Keeps r (pokeBody x s w c).state := by
  unfold pokeBody
  repeat' (first | with_reducible assumption | with_reducible apply keeps_res | with_reducible apply keeps_write | with_reducible apply keeps_doneRes | with_reducible apply keeps_faultRes | extract_lets +onlyGivenNames x | split)

theorem keeps_aluBody (op : AluOp) (w : Who) (c : Ctx) (h : Keeps r s) : Keeps r (aluBody op s w c).state := by
  unfold aluBody
  repeat' (first | with_reducible assumption | with_reducible apply keeps_dataBody)

theorem keeps_satBody (op : SatOp) (w : Who) (c : Ctx) (h : Keeps r s) : Keeps r (satBody op s w c).state := by
  unfold satBody
  repeat' (first | with_reducible assumption | with_reducible apply keeps_dataBody)

theorem keeps_mulBody (op : MulOp) (w : Who) (c : Ctx) (h : Keeps r s) : Keeps r (mulBody op s w c).state := by
  unfold mulBody
  repeat' (first | with_reducible assumption | with_reducible apply keeps_dataBody)

theorem keeps_divBody (signed : Bool) (n : Nat) (w : Who) (c : Ctx) (h : Keeps r s) : Keeps r (divBody signed n s w c).state := by
  unfold divBody
  repeat' (first | with_reducible assumption | with_reducible apply keeps_res | with_reducible apply keeps_begin | with_reducible apply keeps_elapse | with_reducible apply keeps_doneRes | with_reducible apply keeps_waitRes | with_reducible apply keeps_faultRes | extract_lets +onlyGivenNames x | split)

theorem keeps_bitBody (op : BitOp) (w : Who) (c : Ctx) (h : Keeps r s) : Keeps r (bitBody op s w c).state := by
  unfold bitBody
  repeat' (first | with_reducible assumption | with_reducible apply keeps_dataBody)

theorem keeps_macBody (pop : Nat) (acc : Int) (sgn : Int) (w : Who) (c : Ctx) (h : Keeps r s) : Keeps r (macBody pop acc sgn s w c).state := by
  unfold macBody
  repeat' (first | with_reducible assumption | with_reducible apply keeps_res | with_reducible apply keeps_doneRes | split)

theorem keeps_qrdBody (clr : Bool) (w : Who) (c : Ctx) (h : Keeps r s) : Keeps r (qrdBody clr s w c).state := by
  unfold qrdBody
  repeat' (first | with_reducible assumption | with_reducible apply keeps_stackBody | intro _)

theorem keeps_step {s : State} (h : Keeps r s) (op : XOp) (w : Who) (c : Ctx) : Keeps r (XOp.step op s w c).1 := by
  unfold XOp.step
  repeat' (first | with_reducible assumption | with_reducible apply keeps_noteCE | with_reducible apply keeps_watchData)

theorem keeps_portUE {s : State} (h : Keeps r s) (key : Option Nat) : Keeps r (State.portUE s key) := by
  unfold State.portUE
  repeat' (first | with_reducible assumption | with_reducible apply keeps_raiseMemUE | split)

theorem keeps_xRun (op : XOp) (w : Who) (n : Nat) (h : Keeps r s) (c : Ctx) : Keeps r (xRun op w n s c).1 := by
  induction n generalizing s c with
  | zero => exact h
  | succ n ih =>
    unfold xRun
    refine keeps_ite2 h ?_
    split
    · exact keeps_portUE (keeps_ite (keeps_elapse h _ _) h) _
    · have h1 := keeps_elapse (keeps_step h op w c) w.k [.port]
      exact keeps_ite2 h1 (ih h1 _)

theorem keeps_xmacBody (op : XOp) (n : Nat) (w : Who) (c : Ctx) (h : Keeps r s) : Keeps r (xmacBody op n s w c).state := by
  unfold xmacBody
  extract_lets e setup
  refine keeps_iteRes h (keeps_iteRes (keeps_elapse h _ _) (keeps_iteRes h (keeps_iteRes h ?_)))
  have hr := keeps_xRun op w (if e.dbg.stepping then 1 else n) (keeps_elapse h w.k (List.replicate setup .idle)) c
  dsimp only
  split
  · exact keeps_charge hr _ _ _
  · exact keeps_iteRes hr (keeps_begin hr _ _)

theorem keeps_loadBody (an : Nat) (wd : BitVec 2) (sx : Bool) (instr : BitVec 16) (place : Ctx → Option (Word × Word)) (w : Who) (c : Ctx) (h : Keeps r s) : Keeps r (loadBody an wd sx instr place s w c).state := by
  unfold loadBody
  split
  · exact h
  · dsimp only
    split
    · exact h
    · next heq =>
      split
      · exact keeps_res h _ _ _
      · exact keeps_charge (keeps_load_ue heq h) _ _ _
    · next heq => exact keeps_load_wait heq h
    · split
      · exact keeps_res h _ _ _
      · exact keeps_iteRes (keeps_begin h _ _) (keeps_waitRes (keeps_modEng h _ _))
    · next heq =>
      split
      · exact keeps_res h _ _ _
      · exact keeps_watchData (keeps_load_val heq h) _ _ _ _ _

theorem keeps_storeBody (an : Nat) (wd : BitVec 2) (place : Ctx → Option (Word × Word)) (w : Who) (c : Ctx) (h : Keeps r s) : Keeps r (storeBody an wd place s w c).state := by
  unfold storeBody
  repeat' (first | with_reducible assumption | with_reducible apply keeps_res | with_reducible apply keeps_watchData | with_reducible apply keeps_doneRes | with_reducible apply keeps_faultRes | extract_lets +onlyGivenNames x | split | refine keeps_store_ok (by assumption) ?_ | refine keeps_store_wait (by assumption) ?_)

theorem keeps_saveWords (k : Nat) (free : Bool) (l : List (Nat × Nat)) (h : Keeps r s) (b : Nat) :
    Keeps r (State.saveWords k free l s b).1 := by
  induction l generalizing s b with
  | nil => exact h
  | cons x l ih =>
    obtain ⟨key, v⟩ := x
    unfold State.saveWords
    extract_lets put d
    have hd : Keeps r d.1 := keeps_ite2 h (keeps_untilRoom k 1 16 h b)
    refine ih (keeps_settle (keeps_pass (keeps_getD (fun t ht => ?_) hd) _ _) _) _
    obtain ⟨e, _, rfl⟩ := Option.map_eq_some_iff.1 ht
    exact keeps_setEng hd k e

theorem keeps_savemBody (m : BitVec 8) (w : Who) (c : Ctx) (h : Keeps r s) : Keeps r (savemBody m s w c).state := by
  unfold savemBody
  split
  · exact keeps_res h _ _ _
  · extract_lets words
    split
    · exact h
    · exact keeps_foldl (fun _ _ hs => keeps_watchData hs _ _ _ _ _) _ (keeps_saveWords _ _ _ (keeps_settle (keeps_pass h _ _) _) _)

theorem keeps_loadLine {s : State} {e : Engine} {a key : Nat} {x : State × Nat} (q : State.loadLine s e a key = .ok x) (h : Keeps r s) :
    Keeps r x.1 := by
  unfold State.loadLine at q
  split at q
  · cases q; exact h
  · exact keeps_memRead q h

theorem keeps_loadLines {e : Engine} {l : List (Nat × Nat)} {acc : List Nat} (h : Keeps r s) : Keeps r (s.loadLines e l acc).1 := by
  induction l generalizing s acc with
  | nil => exact h
  | cons x l ih =>
    unfold State.loadLines
    split
    · next heq => exact ih (keeps_loadLine heq h)
    · exact h

theorem keeps_loadmBody (m : BitVec 8) (w : Who) (c : Ctx) (h : Keeps r s) : Keeps r (loadmBody m s w c).state := by
  unfold loadmBody
  split
  · exact keeps_res h _ _ _
  · dsimp only
    refine keeps_iteRes (keeps_elapse h _ _) ?_
    split
    · exact h
    · have h1 : ∀ b : Bool, Keeps r (if b = true then State.untilRoom w.k 4 16 s 0 else (s, 0)).1 :=
        fun b => keeps_ite2 (keeps_untilRoom w.k 4 16 h 0) h
      split
      · exact keeps_charge (keeps_loadLines (keeps_loadBeats (keeps_charge (h1 _) _ _ _) _ _)) _ _ _
      · exact keeps_foldl (fun _ _ hs => keeps_watchData hs _ _ _ _ _) _
          (keeps_loadLines (keeps_loadBeats (keeps_charge (h1 _) _ _ _) _ _))

theorem keeps_move {s : State} (h : Keeps r s) (m : Mv) (w : Who) (c : Ctx) (a : Nat) (b : Nat) (v : Nat) : Keeps r (Mv.move m s w c a b v) := by
  unfold Mv.move
  repeat' (first | with_reducible assumption | with_reducible apply keeps_noteCE | with_reducible apply keeps_watchData | with_reducible apply keeps_write | with_reducible apply keeps_ite)

theorem keeps_mvRun (m : Mv) (w : Who) (v n : Nat) (h : Keeps r s) (c : Ctx) (b : Nat) : Keeps r (m.run w v n s c b).1 := by
  induction n generalizing s c b with
  | zero => exact h
  | succ n ih =>
    unfold Mv.run
    refine keeps_ite2 h ?_
    split
    · exact keeps_ite2 (keeps_elapse h _ _) h
    · exact keeps_ite2 (keeps_elapse (keeps_move h _ _ _ _ _ _) _ _) (ih (keeps_elapse (keeps_move h _ _ _ _ _ _) _ _) _ _)

theorem keeps_moveBody (m : Mv) (n : Nat) (w : Who) (c : Ctx) (h : Keeps r s) : Keeps r (moveBody m n s w c).state := by
  unfold moveBody
  repeat' (first | with_reducible assumption | with_reducible apply keeps_res | with_reducible apply keeps_begin | with_reducible apply keeps_elapse | with_reducible apply keeps_mvRun | with_reducible apply keeps_charge | with_reducible apply keeps_ite | with_reducible apply keeps_doneRes | with_reducible apply keeps_waitRes | with_reducible apply keeps_faultRes | extract_lets +onlyGivenNames x | split)

theorem keeps_otherFlow {s : State} (h : Keeps r s) (k : Nat) : Keeps r (State.otherFlow s k) := by
  unfold State.otherFlow
  repeat' (first | with_reducible assumption | with_reducible apply keeps_modEng)

theorem keeps_tbJump {s : State} (h : Keeps r s) (w : Who) (pc : Word) (tgt : Word) : Keeps r (State.tbJump s w pc tgt).1 := by
  unfold State.tbJump
  repeat' (first | with_reducible assumption | with_reducible apply keeps_modEng)

theorem keeps_jmpBody (s13 : BitVec 13) (w : Who) (c : Ctx) (h : Keeps r s) : Keeps r (jmpBody s13 s w c).state := by
  unfold jmpBody
  repeat' (first | with_reducible assumption | with_reducible apply keeps_modEng | with_reducible apply keeps_tbJump | with_reducible apply keeps_iteRes | with_reducible apply keeps_flowRes | with_reducible apply keeps_faultRes)

theorem keeps_bccBody (ccc : Nat) (s10 : BitVec 10) (w : Who) (c : Ctx) (h : Keeps r s) : Keeps r (bccBody ccc s10 s w c).state := by
  unfold bccBody
  repeat' (first | with_reducible assumption | with_reducible apply keeps_res | with_reducible apply keeps_traceBranch | with_reducible apply keeps_modEng | with_reducible apply keeps_tbJump | with_reducible apply keeps_iteRes | with_reducible apply keeps_doneRes | with_reducible apply keeps_flowRes | with_reducible apply keeps_faultRes | split)

theorem keeps_callBody (m : BitVec 3) (s10 : BitVec 10) (w : Who) (c : Ctx) (h : Keeps r s) : Keeps r (callBody m s10 s w c).state := by
  unfold callBody
  repeat' (first | with_reducible assumption | with_reducible apply keeps_res | with_reducible apply keeps_otherFlow | with_reducible apply keeps_tbJump | with_reducible apply keeps_flowRes | with_reducible apply keeps_faultRes | extract_lets +onlyGivenNames x | split)

theorem keeps_traceTarget {s : State} (h : Keeps r s) (w : Who) (c : Ctx) (a : Word) : Keeps r (State.traceTarget s w c a) := by
  unfold State.traceTarget
  repeat' (first | with_reducible assumption | with_reducible apply keeps_traceWord | with_reducible apply keeps_ite)

theorem keeps_calltBody (m : BitVec 3) (w : Who) (c : Ctx) (h : Keeps r s) : Keeps r (calltBody m s w c).state := by
  unfold calltBody
  repeat' (first | with_reducible assumption | with_reducible apply keeps_res | with_reducible apply keeps_otherFlow | with_reducible apply keeps_traceTarget | with_reducible apply keeps_flowRes | with_reducible apply keeps_faultRes | extract_lets +onlyGivenNames x | split)

theorem keeps_jmptBody  (w : Who) (c : Ctx) (h : Keeps r s) : Keeps r (jmptBody s w c).state := by
  unfold jmptBody
  repeat' (first | with_reducible assumption | with_reducible apply keeps_res | with_reducible apply keeps_otherFlow | with_reducible apply keeps_traceTarget | with_reducible apply keeps_flowRes | with_reducible apply keeps_faultRes | split)

theorem keeps_retBody  (w : Who) (c : Ctx) (h : Keeps r s) : Keeps r (retBody s w c).state := by
  unfold retBody
  repeat' (first | with_reducible assumption | with_reducible apply keeps_res | with_reducible apply keeps_otherFlow | with_reducible apply keeps_traceTarget | with_reducible apply keeps_flowRes | with_reducible apply keeps_faultRes | extract_lets +onlyGivenNames x | split)

theorem keeps_clearStaging {s : State} (h : Keeps r s) (n : Nat) : Keeps r (State.clearStaging s n) := by
  unfold State.clearStaging
  repeat' (first | with_reducible assumption | with_reducible apply keeps_modOut)

theorem keeps_recordUpset {s : State} (h : Keeps r s) (k : Nat) (slot : Nat) : Keeps r (State.recordUpset s k slot) := by
  unfold State.recordUpset
  repeat' (first | with_reducible assumption | with_reducible apply keeps_draw | with_reducible apply keeps_fetchFault | with_reducible apply keeps_reportCE | with_reducible apply keeps_ite)

theorem keeps_release {s : State} (h : Keeps r s) (k : Nat) (slot : Nat) (budget : Nat) (kind : Nat) (endAt : Nat) : Keeps r (State.release s k slot budget kind endAt) := by
  unfold State.release
  repeat' (first | with_reducible assumption | with_reducible apply keeps_clearStaging | with_reducible apply keeps_setCtx | with_reducible apply keeps_modEng | with_reducible apply keeps_pass | with_reducible apply keeps_emit | with_reducible apply keeps_settle | with_reducible apply keeps_recordUpset | with_reducible apply keeps_foldl | intro _ | split)

theorem keeps_retire {s : State} (h : Keeps r s) (k : Nat) (slot : Nat) : Keeps r (State.retire s k slot) := by
  unfold State.retire
  repeat' (first | with_reducible assumption | with_reducible apply keeps_setCtx | with_reducible apply keeps_ite)

theorem keeps_overrun {s : State} (h : Keeps r s) (k : Nat) : Keeps r (State.overrun s k) := by
  unfold State.overrun
  repeat' (first | with_reducible assumption | with_reducible apply keeps_modCtx | with_reducible apply keeps_raise | exact ⟨rfl, rfl⟩ | intro _ | split | with_reducible apply keeps_mk)

theorem keeps_toEscapement {s : State} (h : Keeps r s) (k : Nat) : Keeps r (State.toEscapement s k) := by
  unfold State.toEscapement
  repeat' (first | with_reducible assumption | with_reducible apply keeps_retire | with_reducible apply keeps_modEng | split)

theorem keeps_stopCtx {s : State} (h : Keeps r s) (k : Nat) (slot : Nat) (reason : Nat) : Keeps r (State.stopCtx s k slot reason) := by
  unfold State.stopCtx
  repeat' (first | with_reducible assumption | with_reducible apply keeps_traceEnd | with_reducible apply keeps_modCtx | with_reducible apply keeps_toEscapement)

theorem keeps_restoreFail {s : State} (h : Keeps r s) (t : Nat) (arg : Nat) : Keeps r (State.restoreFail s t arg) := by
  unfold State.restoreFail
  repeat' (first | with_reducible assumption | with_reducible apply keeps_raiseLow)

theorem keeps_restoreCtx {s : State} (h : Keeps r s) (dst : Nat) (old : Ctx) (subst : Bool) : Keeps r (State.restoreCtx s dst old subst) := by
  unfold State.restoreCtx
  repeat' (first | with_reducible assumption | with_reducible apply keeps_setCtx | with_reducible apply keeps_noteWords | with_reducible apply keeps_restoreFail | split)

theorem keeps_pend {s : State} (h : Keeps r s) (gen : Bool) (lctx : Nat) (bit : Nat) : Keeps r (State.pend s gen lctx bit) := by
  unfold State.pend
  repeat' (first | with_reducible assumption | with_reducible apply keeps_modCtx | split)

theorem keeps_pendAll {s : State} (h : Keeps r s) (kind : Nat) (index : Nat) : Keeps r (State.pendAll s kind index) := by
  unfold State.pendAll
  repeat' (first | with_reducible assumption | with_reducible apply keeps_pend | with_reducible apply keeps_foldl | intro _)

theorem keeps_yieldBody  (w : Who) (c : Ctx) (h : Keeps r s) : Keeps r (yieldBody s w c).state := by
  unfold yieldBody
  repeat' (first | with_reducible assumption | with_reducible apply keeps_elapse | with_reducible apply keeps_setBank | with_reducible apply keeps_overrun | with_reducible apply keeps_traceEnd | with_reducible apply keeps_toEscapement | with_reducible apply keeps_endStep | with_reducible apply keeps_waitRes | with_reducible apply keeps_begin | with_reducible apply keeps_faultRes | with_reducible apply keeps_endedRes | (extract_lets +onlyGivenNames x; refine (fun (_ : Keeps r x) => ?_) ?_; clear_value x; rotate_left; subst x; rotate_right) | split)

theorem keeps_syncBody  (w : Who) (c : Ctx) (h : Keeps r s) : Keeps r (syncBody s w c).state := by
  unfold syncBody
  repeat' (first | with_reducible assumption | with_reducible apply keeps_pass | with_reducible apply keeps_settle | with_reducible apply keeps_begin | with_reducible apply keeps_ite | with_reducible apply keeps_iteRes | with_reducible apply keeps_doneRes | with_reducible apply keeps_waitRes)

theorem keeps_repBody  (w : Who) (c : Ctx) (h : Keeps r s) : Keeps r (repBody s w c).state := by
  unfold repBody
  repeat' (first | with_reducible assumption | with_reducible apply keeps_wantLine | with_reducible apply keeps_dropLine | with_reducible apply keeps_traceWord | with_reducible apply keeps_ite | with_reducible apply keeps_iteRes | with_reducible apply keeps_doneRes | with_reducible apply keeps_waitRes | with_reducible apply keeps_faultRes)

theorem keeps_bkptBody (t : BitVec 4) (w : Who) (c : Ctx) (h : Keeps r s) : Keeps r (bkptBody t s w c).state := by
  unfold bkptBody
  repeat' (first | with_reducible assumption | with_reducible apply keeps_requestHalt | with_reducible apply keeps_iteRes | with_reducible apply keeps_waitRes | with_reducible apply keeps_faultRes)

theorem keeps_retiMachine {s : State} (h : Keeps r s) (k : Nat) (slot : Nat) (m : Ctx) : Keeps r (State.retiMachine s k slot m) := by
  unfold State.retiMachine
  repeat' (first | with_reducible assumption | with_reducible apply keeps_addBeats | with_reducible apply keeps_overrun | with_reducible apply keeps_modEng | with_reducible apply keeps_setCtx | with_reducible apply keeps_toEscapement | with_reducible apply keeps_traceWord | extract_lets +onlyGivenNames x | split)

theorem keeps_retiBody  (w : Who) (c : Ctx) (h : Keeps r s) : Keeps r (retiBody s w c).state := by
  unfold retiBody
  repeat' (first | with_reducible assumption | with_reducible apply keeps_pass | with_reducible apply keeps_retiMachine | with_reducible apply keeps_endStep | with_reducible apply keeps_res | with_reducible apply keeps_setBank | with_reducible apply keeps_modEng | with_reducible apply keeps_faultRes | with_reducible apply keeps_endedRes | (extract_lets +onlyGivenNames x; refine (fun (_ : Keeps r x) => ?_) ?_; clear_value x; rotate_left; subst x; rotate_right) | extract_lets +onlyGivenNames x | split | (clear_value *; split))

theorem keeps_csrrBody (n : Nat) (w : Who) (c : Ctx) (h : Keeps r s) : Keeps r (csrrBody n s w c).state := by
  unfold csrrBody
  repeat' (first | with_reducible assumption | with_reducible apply keeps_pushRead | with_reducible apply keeps_res | with_reducible apply keeps_doneRes | with_reducible apply keeps_faultRes | split | (clear_value *; split))

theorem keeps_mact {s : State} (h : Keeps r s) (k : Nat) (m : Ctx) (v : Word) : Keeps r (State.mact s k m v) := by
  unfold State.mact
  repeat' (first | with_reducible assumption | with_reducible apply keeps_pass | with_reducible apply keeps_addBeats | with_reducible apply keeps_overrun | with_reducible apply keeps_modEng | with_reducible apply keeps_restoreCtx | with_reducible apply keeps_setCtx | with_reducible apply keeps_toEscapement | exact ⟨rfl, rfl⟩ | intro _ | split | with_reducible apply keeps_mk)

theorem keeps_csrEffect {s : State} (h : Keeps r s) (w : Who) (c : Ctx) (n : Nat) (v : Word) : Keeps r (csrEffect s w c n v).state := by
  unfold csrEffect
  repeat' (first | with_reducible assumption | with_reducible apply keeps_mact | with_reducible apply keeps_endStep | with_reducible apply keeps_raise | with_reducible apply keeps_modEng | with_reducible apply keeps_iteRes | with_reducible apply keeps_doneRes | with_reducible apply keeps_faultRes | with_reducible apply keeps_endedRes | split)

theorem keeps_csrwBody (n : Nat) (w : Who) (c : Ctx) (h : Keeps r s) : Keeps r (csrwBody n s w c).state := by
  unfold csrwBody
  repeat' (first | with_reducible assumption | with_reducible apply keeps_res | with_reducible apply keeps_csrEffect | with_reducible apply keeps_faultRes | split)

theorem keeps_inlBody (ch : Nat) (status : Bool) (w : Who) (c : Ctx) (h : Keeps r s) : Keeps r (inlBody ch status s w c).state := by
  unfold inlBody
  repeat' (first | with_reducible assumption | with_reducible apply keeps_res | with_reducible apply keeps_readSample | with_reducible apply keeps_doneRes | with_reducible apply keeps_faultRes | split)

theorem keeps_mbPostBody (m : Nat) (w : Who) (c : Ctx) (h : Keeps r s) : Keeps r (mbPostBody m s w c).state := by
  unfold mbPostBody
  repeat' (first | with_reducible assumption | with_reducible apply keeps_res | with_reducible apply keeps_modMbox | with_reducible apply keeps_begin | with_reducible apply keeps_pend | with_reducible apply keeps_iteRes | with_reducible apply keeps_doneRes | with_reducible apply keeps_waitRes | with_reducible apply keeps_faultRes | (extract_lets +onlyGivenNames x; refine (fun (_ : Keeps r x) => ?_) ?_; clear_value x; rotate_left; subst x; rotate_right) | split)

theorem keeps_mbTakeBody (m : Nat) (w : Who) (c : Ctx) (h : Keeps r s) : Keeps r (mbTakeBody m s w c).state := by
  unfold mbTakeBody
  repeat' (first | with_reducible assumption | with_reducible apply keeps_res | with_reducible apply keeps_modMbox | with_reducible apply keeps_doneRes | with_reducible apply keeps_faultRes | extract_lets +onlyGivenNames x | split)

/-- Where an outcome leads to. -/
def Leads (r : State) : Res → Prop
  | .next t => Keeps r t
  | _ => True

theorem leads_engineEvent {f : State → State} (h : Keeps r s) (hf : ∀ s, Keeps r s → Keeps r (f s)) (k : Nat) (c : Bool) :
    Leads r (engineEvent k s c f) := by
  unfold engineEvent
  split
  · trivial
  · exact keeps_ite (hf s h) h

theorem keeps_runFusee {s : State} (h : Keeps r s) (k : Nat) (op : FuseeOp) : Keeps r (State.runFusee s k op) := by
  unfold State.runFusee
  repeat' (first | with_reducible assumption | with_reducible apply keeps_fuseeBatch | with_reducible apply keeps_setBank | with_reducible apply keeps_emptyBeats | with_reducible apply keeps_modEng | with_reducible apply keeps_takeFault | extract_lets +onlyGivenNames x | split)

theorem keeps_hostBeats {s : State} (h : Keeps r s) (k : Nat) : Keeps r (State.hostBeats s k) := by
  unfold State.hostBeats
  repeat' (first | with_reducible assumption | with_reducible apply keeps_draw | with_reducible apply keeps_addBeats | with_reducible apply keeps_modEng)

theorem keeps_fillLine {s : State} (h : Keeps r s) (k : Nat) (a : Nat) (data : BitVec 256) (err : Bool) : Keeps r (State.fillLine s k a data err) := by
  unfold State.fillLine
  repeat' (first | with_reducible assumption | with_reducible apply keeps_modEng | with_reducible apply keeps_fetchFault | with_reducible apply keeps_noteWord | with_reducible apply keeps_emptyBeats | with_reducible apply keeps_hostBeats | with_reducible apply keeps_foldl | extract_lets +onlyGivenNames x | intro _ | split)

theorem keeps_boundaryLoaded {s : State} (h : Keeps r s) (k : Nat) (b : BLoad) (data : Word64) (err : Bool) : Keeps r (State.boundaryLoaded s k b data err) := by
  unfold State.boundaryLoaded
  repeat' (first | with_reducible assumption | with_reducible apply keeps_modEng | with_reducible apply keeps_hostBeats | with_reducible apply keeps_takeFault | with_reducible apply keeps_setCtx | with_reducible apply keeps_watchData | with_reducible apply keeps_endStep | exact ⟨rfl, rfl⟩ | intro _ | split | with_reducible apply keeps_mk)

theorem keeps_storeError {s : State} (h : Keeps r s) (k : Nat) (b : BQE) : Keeps r (State.storeError s k b) := by
  unfold State.storeError
  repeat' (first | with_reducible assumption | with_reducible apply keeps_modCtx | with_reducible apply keeps_raiseLow | with_reducible apply keeps_ite)

theorem keeps_expire {s : State} (h : Keeps r s) (k : Nat) (id : Nat) (arg : Nat) : Keeps r (State.expire s k id arg) := by
  unfold State.expire
  repeat' (first | with_reducible assumption | with_reducible apply keeps_modCtx | with_reducible apply keeps_raise | with_reducible apply keeps_ite)

theorem keeps_terminal {s : State} (h : Keeps r s) (k : Nat) (slot : Nat) (code : Nat) : Keeps r (State.terminal s k slot code) := by
  unfold State.terminal
  repeat' (first | with_reducible assumption | with_reducible apply keeps_modCtx | with_reducible apply keeps_takeFault | with_reducible apply keeps_endStep)

end Sys2Proof.Machine
end

