-- ==== Sys2Proof/Laws/KeepsUnits.lean ====
section
/-! SUPPORT. What the units beside the engines keep (`Keeps`), one law per operation. -/

namespace Sys2Proof.Machine
variable {r s : State}

theorem keeps_writeSafe {s : State} (h : Keeps r s) (n : Nat) (v : Word) : Keeps r (State.writeSafe s n v) := by
  unfold State.writeSafe
  repeat' (first | with_reducible assumption | with_reducible apply keeps_modOut | exact ⟨rfl, rfl⟩ | (intro hh; exact hh) | with_reducible apply keeps_mk)

theorem keeps_safeWrite {s : State} (h : Keeps r s)  : Keeps r (State.safeWrite s) := by
  unfold State.safeWrite
  repeat' (first | with_reducible assumption | with_reducible apply keeps_modOut | exact ⟨rfl, rfl⟩ | (intro hh; exact hh) | split | with_reducible apply keeps_mk)

theorem keeps_override {s : State} (h : Keeps r s) (l : List (Nat × Word)) : Keeps r (State.override s l) :=
  keeps_foldl (fun _ _ h => keeps_modOut h _ _) _ h

theorem keeps_untrip {s : State} (h : Keeps r s) (l : List (Nat × Word)) : Keeps r (State.untrip s l) :=
  keeps_ite h (keeps_foldl (fun _ _ h => keeps_modOut h _ _) _ h)

theorem keeps_tripChange {f : State → State} (h : Keeps r s) (hf : ∀ s, Keeps r s → Keeps r (f s)) : Keeps r (s.tripChange f) :=
  keeps_override (keeps_untrip (hf s h) _) _

theorem keeps_tripEdge {s : State} (h : Keeps r s) (n : Nat) : Keeps r (State.tripEdge s n) := by
  unfold State.tripEdge
  repeat' (first | with_reducible assumption | with_reducible apply keeps_modTrip | with_reducible apply keeps_pendAll | with_reducible apply keeps_ite)

theorem keeps_tripEdges {s : State} (h : Keeps r s)  : Keeps r (State.tripEdges s) := by
  unfold State.tripEdges
  repeat' (first | with_reducible assumption | with_reducible apply keeps_tripEdge | with_reducible apply keeps_foldl | intro _)

theorem keeps_tripClear {s : State} (h : Keeps r s) (n : Nat) : Keeps r (State.tripClear s n) := by
  unfold State.tripClear
  repeat' (first | with_reducible assumption | with_reducible apply keeps_modTrip | with_reducible apply keeps_ite)

theorem keeps_tripCfg {s : State} (h : Keeps r s) (n : Nat) (v : Word) : Keeps r (State.tripCfg s n v) := by
  unfold State.tripCfg
  repeat' (first | with_reducible assumption | with_reducible apply keeps_tripChange | with_reducible apply keeps_modTrip | with_reducible apply keeps_tripEdge | intro _)

theorem keeps_tripClearWord {s : State} (h : Keeps r s) (base : Nat) (v : Word) : Keeps r (State.tripClearWord s base v) := by
  unfold State.tripClearWord
  repeat' (first | with_reducible assumption | refine (fun (_ : Keeps r _) => ?_) | with_reducible apply keeps_tripChange | with_reducible apply keeps_tripClear | with_reducible apply keeps_tripEdge | with_reducible apply keeps_ite | with_reducible apply keeps_foldl | intro _)

theorem keeps_tripPeriod {s : State} (h : Keeps r s) (p : Nat) : Keeps r (State.tripPeriod s p) := by
  unfold State.tripPeriod
  repeat' (first | with_reducible assumption | refine (fun (_ : Keeps r _) => ?_) | with_reducible apply keeps_tripChange | with_reducible apply keeps_tripClear | with_reducible apply keeps_tripEdge | with_reducible apply keeps_foldl | exact ⟨rfl, rfl⟩ | intro _ | split | with_reducible apply keeps_mk)

theorem keeps_skipRelease {s : State} (h : Keeps r s) (k : Nat) (slot : Nat) : Keeps r (State.skipRelease s k slot) := by
  unfold State.skipRelease
  repeat' (first | with_reducible assumption | with_reducible apply keeps_modEng)

theorem keeps_unskip {s : State} (h : Keeps r s) (k : Nat) (slot : Nat) : Keeps r (State.unskip s k slot) := by
  unfold State.unskip
  repeat' (first | with_reducible assumption | with_reducible apply keeps_modEng)

theorem keeps_releaseAt {s : State} (h : Keeps r s) (k : Nat) (slot : Nat) (rg : LateRel) : Keeps r (State.releaseAt s k slot rg) := by
  unfold State.releaseAt
  repeat' (first | with_reducible assumption | with_reducible apply keeps_skipRelease | with_reducible apply keeps_unskip | with_reducible apply keeps_modEng | with_reducible apply keeps_release | with_reducible apply keeps_sendStop | extract_lets +onlyGivenNames x | split)

theorem keeps_eventRelease_some {s : State} {t : Nat} {p : Nat} {x : TabEnt} {s' : State} (e : State.eventRelease s t p x = some s') (h : Keeps r s) : Keeps r s' := by
  revert e
  unfold State.eventRelease
  repeat' (first | with_reducible assumption | with_reducible apply keeps_skipRelease | with_reducible apply keeps_unskip | with_reducible apply keeps_release | extract_lets +onlyGivenNames x | (intro e; cases e) | split)

theorem keeps_sendStaged {s : State} (h : Keeps r s) (l : List (Nat × Word)) : Keeps r (State.sendStaged s l) := by
  unfold State.sendStaged
  repeat' (first | with_reducible assumption | with_reducible apply keeps_modOut | with_reducible apply keeps_foldl | intro _)

theorem keeps_sendSafe {s : State} (h : Keeps r s) (l : List (Nat × Word)) (level : Bool) : Keeps r (State.sendSafe s l level) := by
  unfold State.sendSafe
  repeat' (first | with_reducible assumption | with_reducible apply keeps_modOut | with_reducible apply keeps_foldl | intro _)

theorem keeps_publish {s : State} (h : Keeps r s) (gen : Bool) (lctx : Nat) : Keeps r (State.publish s gen lctx) := by
  unfold State.publish
  split
  · exact h
  · exact keeps_write (keeps_mk (keeps_pubRead h _ _ _) id id id ⟨rfl, rfl⟩) _ _ _

theorem keeps_publishGrp {s : State} (h : Keeps r s) (g : Nat) (l : List (Bool × CtxE)) : Keeps r (State.publishGrp s g l) := by
  unfold State.publishGrp
  repeat' (first | with_reducible assumption | with_reducible apply keeps_publish | with_reducible apply keeps_foldl | intro _)

theorem keeps_dialWord {s : State} (h : Keeps r s) (d : Dial) (i : Nat) : Keeps r (State.dialWord s d i).2 := by
  unfold State.dialWord
  repeat' (first | with_reducible assumption | with_reducible apply keeps_pubRead | split)

theorem keeps_dialWords (h : Keeps r s) (d : Dial) (n : Nat) : Keeps r (s.dialWords d n).2 := by
  induction n with
  | zero => exact h
  | succ n ih => exact keeps_dialWord ih d n

theorem keeps_snapshots {s : State} (h : Keeps r s) (g : Nat) (held : Bool) : Keeps r (State.snapshots s g held) := by
  unfold State.snapshots
  repeat' (first | with_reducible assumption | refine (fun (_ : Keeps r _) => ?_) | with_reducible apply keeps_modDial | with_reducible apply keeps_ite | with_reducible apply keeps_foldl | intro _)

theorem keeps_takeSnapshot {s : State} (h : Keeps r s) (n : Nat) : Keeps r (State.takeSnapshot s n) := by
  unfold State.takeSnapshot
  extract_lets d
  split
  · exact keeps_modDial (keeps_dialWords h _ _) _ _
  · exact h

theorem keeps_dialSelect {s : State} (h : Keeps r s) (n : Nat) (v : Word) : Keeps r (State.dialSelect s n v) := by
  unfold State.dialSelect
  repeat' (first | with_reducible assumption | with_reducible apply keeps_modDial)

theorem keeps_dialSeq {s : State} (h : Keeps r s) (n : Nat) (quiet : Bool) : Keeps r (State.dialSeq s n quiet).2 := by
  unfold State.dialSeq
  repeat' (first | with_reducible assumption | with_reducible apply keeps_modDial | with_reducible apply keeps_ite3)

theorem keeps_countOutcome {s : State} (h : Keeps r s) (g : Nat) (v : Verdict) : Keeps r (State.countOutcome s g v) := by
  unfold State.countOutcome
  repeat' (first | with_reducible assumption | with_reducible apply keeps_modGrp | exact ⟨rfl, rfl⟩ | intro _ | split | with_reducible apply keeps_mk)

theorem keeps_raiseOutcome {s : State} (h : Keeps r s) (g : Nat) (v : Verdict) : Keeps r (State.raiseOutcome s g v) := by
  unfold State.raiseOutcome
  repeat' (first | with_reducible apply keeps_raiseLow | with_reducible apply_assumption | split)

theorem keeps_outletsOut {s : State} (h : Keeps r s) (v : Verdict) (tripped : Bool) (l : List (Nat × Word)) : Keeps r (State.outletsOut s v tripped l) := by
  unfold State.outletsOut
  repeat' (first | with_reducible assumption | with_reducible apply keeps_sendStaged | with_reducible apply keeps_sendSafe | with_reducible apply keeps_clearStaging | with_reducible apply keeps_foldl | intro _ | split)

theorem keeps_commit {s : State} (h : Keeps r s) (g : Nat) (gen : Bool) (e : GroupE) : Keeps r (State.commit s g gen e) := by
  unfold State.commit
  repeat' (first | with_reducible assumption | with_reducible apply keeps_outletsOut | with_reducible apply keeps_countOutcome | with_reducible apply keeps_publishGrp | with_reducible apply keeps_snapshots | with_reducible apply keeps_emit | with_reducible apply keeps_raiseOutcome | with_reducible apply keeps_ite)

theorem keeps_clearMarks {s : State} (h : Keeps r s) (ch : Nat) : Keeps r (State.clearMarks s ch) := by
  unfold State.clearMarks
  repeat' (first | with_reducible assumption | with_reducible apply keeps_modCtx | with_reducible apply keeps_modEng | with_reducible apply keeps_foldl | intro _ | split)

theorem keeps_commandsDone {s : State} (h : Keeps r s) (rg : Word64) : Keeps r (State.commandsDone s rg) := by
  unfold State.commandsDone
  repeat' (first | with_reducible assumption | with_reducible apply keeps_modCvc | with_reducible apply keeps_ite | with_reducible apply keeps_foldl | intro _)

theorem keeps_writeRecord {s : State} (h : Keeps r s) (rg : Word64) (trains : Nat) : Keeps r (State.writeRecord s rg trains) := by
  unfold State.writeRecord
  repeat' (first | with_reducible assumption | with_reducible apply keeps_foldl | exact ⟨rfl, rfl⟩ | intro _ | split | with_reducible apply keeps_mk)

theorem keeps_acceptRecord {s : State} (h : Keeps r s) (rg : Word64) : Keeps r (State.acceptRecord s rg) := by
  unfold State.acceptRecord
  repeat' (first | with_reducible assumption | with_reducible apply keeps_raise | with_reducible apply keeps_writeRecord | with_reducible apply keeps_clearMarks | with_reducible apply keeps_commandsDone | with_reducible apply keeps_ite | exact id | exact ⟨rfl, rfl⟩ | with_reducible apply keeps_mk)

theorem keeps_command {s : State} (h : Keeps r s) (c : Nat) (v : Word) : Keeps r (State.command s c v) := by
  unfold State.command
  repeat' (first | with_reducible assumption | with_reducible apply keeps_cvcStore | with_reducible apply keeps_ite)

theorem keeps_cmdHost {s : State} (h : Keeps r s) (c : Nat) : Keeps r (State.cmdHost s c) := by
  unfold State.cmdHost
  repeat' (first | with_reducible assumption | with_reducible apply keeps_raise)

theorem keeps_cvcReport {s : State} (h : Keeps r s) (c : Nat) (st : BitVec 4) : Keeps r (State.cvcReport s c st) := by
  unfold State.cvcReport
  repeat' (first | with_reducible assumption | with_reducible apply keeps_modCvc | with_reducible apply keeps_cmdHost | with_reducible apply keeps_ite)

theorem keeps_cvcCalibrated {s : State} (h : Keeps r s) (c : Nat) : Keeps r (State.cvcCalibrated s c) := by
  unfold State.cvcCalibrated
  repeat' (first | with_reducible assumption | with_reducible apply keeps_modCvc | with_reducible apply keeps_cmdHost | with_reducible apply keeps_ite)

theorem keeps_cvcFailed {s : State} (h : Keeps r s) (c : Nat) : Keeps r (State.cvcFailed s c) := by
  unfold State.cvcFailed
  repeat' (first | with_reducible assumption | with_reducible apply keeps_modCvc | with_reducible apply keeps_cmdHost | with_reducible apply keeps_ite)

theorem keeps_answer {s : State} (h : Keeps r s) (resp : BitVec 2) : Keeps r (State.answer s resp) := by
  unfold State.answer
  repeat' (first | with_reducible assumption | exact id | exact ⟨rfl, rfl⟩ | with_reducible apply keeps_mk)

theorem keeps_answerRead {s : State} (h : Keeps r s) (v : Word) : Keeps r (State.answerRead s v) := by
  unfold State.answerRead
  repeat' (first | with_reducible assumption | exact id | exact ⟨rfl, rfl⟩ | with_reducible apply keeps_mk)

theorem keeps_hostDo {f : State → State} (h : Keeps r s) (hf : ∀ s, Keeps r s → Keeps r (f s)) (a : HAcc) (off : Nat) :
    Keeps r (s.hostDo a off f) := by
  unfold State.hostDo
  exact keeps_ite (keeps_answer h 2) (keeps_ite (keeps_answer h 0) (keeps_answer (hf s h) 0))

theorem keeps_hostGet {f : State → Word × State} (h : Keeps r s) (hf : ∀ s, Keeps r s → Keeps r (f s).2) : Keeps r (s.hostGet f) := by
  unfold State.hostGet
  exact keeps_ite (keeps_answerRead h 0) (keeps_answerRead (hf s h) _)

theorem keeps_forceAll {s : State} (h : Keeps r s) (w : Nat) (l : List Nat) : Keeps r (State.forceAll s w l) := by
  unfold State.forceAll
  repeat' (first | with_reducible assumption | with_reducible apply keeps_raise | with_reducible apply keeps_foldl | intro _)

theorem keeps_fwForce {s : State} (h : Keeps r s) (w : Nat) (v : Word) : Keeps r (State.fwForce s w v) := by
  unfold State.fwForce
  repeat' (first | with_reducible assumption | with_reducible apply keeps_forceAll)

theorem keeps_integError {s : State} (h : Keeps r s) (w : Nat) : Keeps r (State.integError s w) := by
  unfold State.integError
  repeat' (first | with_reducible assumption | with_reducible apply keeps_modFw | with_reducible apply keeps_safeReact)

theorem keeps_gfCtl {s : State} (h : Keeps r s) (v : Word) : Keeps r (State.gfCtl s v) := by
  unfold State.gfCtl
  repeat' (first | with_reducible assumption | with_reducible apply keeps_integError | exact ⟨rfl, rfl⟩ | intro _ | split | with_reducible apply keeps_mk)

theorem keeps_fwCapRead {s : State} (h : Keeps r s) (w : Nat) (quiet : Bool) : Keeps r (State.fwCapRead s w quiet).2 := by
  unfold State.fwCapRead
  repeat' (first | with_reducible assumption | with_reducible apply keeps_modFw | with_reducible apply keeps_ite)

theorem keeps_fwCntRead {s : State} (h : Keeps r s) (w : Nat) (quiet : Bool) : Keeps r (State.fwCntRead s w quiet).2 := by
  unfold State.fwCntRead
  repeat' (first | with_reducible assumption | with_reducible apply keeps_modFw | with_reducible apply keeps_ite)

theorem keeps_copyFailed {s : State} (h : Keeps r s) (t : Nat) (m : MachE) : Keeps r (State.copyFailed s t m) := by
  unfold State.copyFailed
  repeat' (first | with_reducible assumption | with_reducible apply keeps_noteWords | with_reducible apply keeps_raiseMemUE | with_reducible apply keeps_restoreFail | split)

theorem keeps_clearBore {s : State} (h : Keeps r s) (k : Nat) : Keeps r (State.clearBore s k) := by
  unfold State.clearBore
  repeat' (first | with_reducible assumption | with_reducible apply keeps_setCtx | with_reducible apply keeps_modEng | with_reducible apply keeps_foldl | intro _ | split)

theorem keeps_loadPos_some {s : State} {k : Nat} {p : Nat} {s' : State} (e : State.loadPos s k p = .ok s') (h : Keeps r s) : Keeps r s' := by
  revert e
  unfold State.loadPos
  repeat' (first | with_reducible assumption | with_reducible apply keeps_copyIn | with_reducible apply keeps_modEng | (intro e; cases e) | split)

theorem keeps_moveCtx {s : State} (h : Keeps r s) (src : Nat) (dst : Nat) (slot : Nat) (subst : Bool) : Keeps r (State.moveCtx s src dst slot subst) := by
  unfold State.moveCtx
  repeat' (first | with_reducible assumption | with_reducible apply keeps_setCtx | with_reducible apply keeps_restoreCtx | with_reducible apply keeps_modCtx | with_reducible apply keeps_modEng | with_reducible apply keeps_ite)

theorem keeps_seatUnserved {s : State} (h : Keeps r s) (t : Nat) (p : Nat) (src : Nat) (dst : Nat) : Keeps r (State.seatUnserved s t p src dst) := by
  unfold State.seatUnserved
  repeat' (first | with_reducible assumption | with_reducible apply keeps_setCtx | with_reducible apply keeps_modTrain | with_reducible apply keeps_foldl | extract_lets +onlyGivenNames x | intro _ | (clear_value *; split))

theorem keeps_subFailed {s : State} (h : Keeps r s) (t : Nat) (u : Subst) (m : MachE) : Keeps r (State.subFailed s t u m) := by
  unfold State.subFailed
  repeat' (first | with_reducible assumption | with_reducible apply keeps_modEng | with_reducible apply keeps_modTrain | with_reducible apply keeps_unserve | with_reducible apply keeps_copyFailed)

theorem keeps_handover {s : State} (h : Keeps r s) (t : Nat) (u : Subst) : Keeps r (State.handover s t u) := by
  unfold State.handover
  extract_lets k s1 s2 s3
  have h1 : Keeps r s1 := keeps_foldl (fun _ _ h => keeps_moveCtx h _ _ _ _) _ h
  exact keeps_mk (keeps_modTrain (keeps_seatUnserved (keeps_modEng h1 _ _) _ _ _ _) _ _) id id id ⟨rfl, rfl⟩

theorem keeps_subst {s : State} (h : Keeps r s) (t : Nat) (u : Subst) : Keeps r (State.subst s t u) := by
  unfold State.subst
  repeat' (first | with_reducible assumption | with_reducible apply keeps_handover | with_reducible apply keeps_clearBore | with_reducible apply keeps_subFailed | split | refine keeps_loadPos_some (by assumption) ?_ | (intro e; refine keeps_loadPos_some e ?_))

theorem keeps_rotate {s : State} (h : Keeps r s) (t : Nat) : Keeps r (State.rotate s t) := by
  unfold State.rotate
  repeat' (first | with_reducible assumption | with_reducible apply keeps_clearBore | with_reducible apply keeps_modEng | with_reducible apply keeps_modTrain | split)

theorem keeps_rotDone {s : State} (h : Keeps r s) (t : Nat) (rg : Rot) : Keeps r (State.rotDone s t rg) := by
  unfold State.rotDone
  repeat' (first | with_reducible assumption | with_reducible apply keeps_modEng | with_reducible apply keeps_seatUnserved | with_reducible apply keeps_modTrain | with_reducible apply keeps_beginSub | with_reducible apply keeps_enterTest | split)

theorem keeps_masterLoaded {s : State} (h : Keeps r s) (t : Nat) (rg : Rot) : Keeps r (State.masterLoaded s t rg) := by
  unfold State.masterLoaded
  repeat' (first | with_reducible assumption | with_reducible apply keeps_modTrain | with_reducible apply keeps_rotDone | with_reducible apply keeps_modEng | with_reducible apply keeps_copyFailed | with_reducible apply keeps_ite | split | refine keeps_loadPos_some (by assumption) ?_)

theorem keeps_migrate {s : State} (h : Keeps r s) (t : Nat) (rg : Rot) (slot : Nat) : Keeps r (State.migrate s t rg slot) := by
  unfold State.migrate
  repeat' (first | with_reducible assumption | with_reducible apply keeps_modEng | with_reducible apply keeps_moveCtx | with_reducible apply keeps_modTrain | with_reducible apply keeps_rotDone | with_reducible apply keeps_ite)

theorem keeps_assign {s : State} (h : Keeps r s) (t : Nat) (e : Nat) : Keeps r (State.assign s t e) := by
  unfold State.assign
  repeat' (first | with_reducible assumption | with_reducible apply keeps_beginSub | with_reducible apply keeps_modTrain | with_reducible apply keeps_modEng | with_reducible apply keeps_ite | split)

theorem keeps_testOver {s : State} (h : Keeps r s) (k : Nat) : Keeps r (State.testOver s k) := by
  unfold State.testOver
  repeat' (first | with_reducible assumption | with_reducible apply keeps_modEng | with_reducible apply keeps_assign)

theorem keeps_testFailed {s : State} (h : Keeps r s) (k : Nat) : Keeps r (State.testFailed s k) := by
  unfold State.testFailed
  repeat' (first | with_reducible assumption | with_reducible apply keeps_raise | with_reducible apply keeps_fenceEngine | with_reducible apply keeps_ite)

theorem keeps_testPassed {s : State} (h : Keeps r s) (k : Nat) : Keeps r (State.testPassed s k) := by
  unfold State.testPassed
  repeat' (first | with_reducible assumption | with_reducible apply keeps_wipe | with_reducible apply keeps_testOver | with_reducible apply keeps_copyFailed | with_reducible apply keeps_testFailed | with_reducible apply keeps_copyIn | with_reducible apply keeps_ite | split)

theorem keeps_modSwp {s : State} (h : Keeps r s) (t : Nat) (f : Sweep → Sweep) : Keeps r (State.modSwp s t f) := by
  unfold State.modSwp
  repeat' (first | with_reducible assumption | with_reducible apply keeps_modTrain)

theorem keeps_modStr {s : State} (h : Keeps r s) (t : Nat) (f : Streamer → Streamer) : Keeps r (State.modStr s t f) := by
  unfold State.modStr
  repeat' (first | with_reducible assumption | with_reducible apply keeps_modTrain)

theorem keeps_scrub {s : State} (h : Keeps r s) (t : Nat) (key : Nat) : Keeps r (State.scrub s t key) := by
  unfold State.scrub
  repeat' (first | with_reducible assumption | refine (fun (_ : Keeps r _) => ?_) | with_reducible apply keeps_noteCE | with_reducible apply keeps_modSwp | with_reducible apply keeps_foldl | exact ⟨rfl, rfl⟩ | intro _ | split | with_reducible apply keeps_mk)

theorem keeps_sweepFail {s : State} (h : Keeps r s) (t : Nat) (area : Nat) (line : Nat) (key : Nat) : Keeps r (State.sweepFail s t area line key) := by
  unfold State.sweepFail
  repeat' (first | with_reducible assumption | with_reducible apply keeps_modSwp | with_reducible apply keeps_raise | with_reducible apply keeps_ite)

theorem keeps_sweepLine {s : State} (h : Keeps r s) (t : Nat) (area : Nat) (line : Nat) (key : Nat) (rg : SweepResult) : Keeps r (State.sweepLine s t area line key rg) := by
  unfold State.sweepLine
  repeat' (first | with_reducible assumption | with_reducible apply keeps_modSwp | with_reducible apply keeps_raiseMemUE | with_reducible apply keeps_scrub | with_reducible apply keeps_sweepFail | with_reducible apply keeps_raiseInfo | with_reducible apply keeps_ite | split)

theorem keeps_eccFail {s : State} (h : Keeps r s) (t : Nat) (area : Nat) (bank : Nat) : Keeps r (State.eccFail s t area bank) := by
  unfold State.eccFail
  repeat' (first | with_reducible assumption | with_reducible apply keeps_draw | with_reducible apply keeps_modSwp | with_reducible apply keeps_raise | with_reducible apply keeps_ite)

theorem keeps_writeList (n : Nat) (h : Keeps r s) (a : Nat) (l : List Byte) : Keeps r (State.writeList n s a l) := by
  induction n generalizing s a l with
  | zero => exact h
  | succ n ih =>
    cases l with
    | nil => exact h
    | cons b l => exact ih (keeps_write h _ _ _) _ _

theorem keeps_writeAll {s : State} (h : Keeps r s) (a : Nat) (l : List Byte) : Keeps r (State.writeAll s a l) := by
  exact keeps_writeList _ h _ _

theorem keeps_strMove {s : State} (h : Keeps r s) (t : Nat) (e : QueueE) (rg : StrReq) (wr : Word) (bytes : List Byte) : Keeps r (State.strMove s t e rg wr bytes) := by
  unfold State.strMove
  repeat' (first | with_reducible assumption | with_reducible apply keeps_writeAll | with_reducible apply keeps_write | with_reducible apply keeps_modStr | with_reducible apply keeps_ite)

theorem keeps_serveChunk {s : State} (h : Keeps r s) (t : Nat) (q : Nat) (e : QueueE) (rg : StrReq) (wr : Word) (n : Nat) (resp : ChunkResponse) : Keeps r (State.serveChunk s t q e rg wr n resp) := by
  unfold State.serveChunk
  repeat' (first | with_reducible assumption | with_reducible apply keeps_modStr | with_reducible apply keeps_raise | with_reducible apply keeps_strMove | split)

theorem keeps_badPointers {s : State} (h : Keeps r s) (t : Nat) (q : Nat) : Keeps r (State.badPointers s t q) := by
  unfold State.badPointers
  repeat' (first | with_reducible assumption | with_reducible apply keeps_stopQueue | with_reducible apply keeps_modStr | with_reducible apply keeps_raise)

theorem keeps_serveTurn {d : State} (hd : Keeps r d) (h : Keeps r s) (t q : Nat) (e : QueueE) (x : StrReq) (resp : ChunkResponse)
    (wr : Word) (free : Option Nat) : Keeps r (d.serveTurn s t q e x resp wr free) := by
  unfold State.serveTurn
  split
  · exact keeps_badPointers hd _ _
  · exact h
  · exact keeps_serveChunk hd _ _ _ _ _ _ _

theorem keeps_serve {s : State} (h : Keeps r s) (t : Nat) (q : Nat) (e : QueueE) (rg : StrReq) (resp : ChunkResponse) : Keeps r (State.serve s t q e rg resp) := by
  exact keeps_serveTurn (keeps_strRead (keeps_strRead h _) _) h _ _ _ _ _ _ _

theorem keeps_modPace {s : State} (h : Keeps r s) (t : Nat) (f : Pace → Pace) : Keeps r (State.modPace s t f) := by
  unfold State.modPace
  repeat' (first | with_reducible assumption | with_reducible apply keeps_modTrain)

theorem keeps_gauge {s : State} (h : Keeps r s) (t : Nat) (n : Nat) (n2 : Nat) : Keeps r (State.gauge s t n n2) := by
  unfold State.gauge
  repeat' (first | with_reducible assumption | with_reducible apply keeps_modPace | with_reducible apply keeps_raise | with_reducible apply keeps_ite)

theorem keeps_paceFaults {s : State} (h : Keeps r s) (t : Nat) (mea : Nat) (rail : Nat) : Keeps r (State.paceFaults s t mea rail) := by
  unfold State.paceFaults
  repeat' (first | with_reducible assumption | with_reducible apply keeps_raise | with_reducible apply keeps_raiseLow | with_reducible apply keeps_ite)

theorem keeps_paceWindow {s : State} (h : Keeps r s) (t : Nat) (n : Nat) (n2 : Nat) : Keeps r (State.paceWindow s t n n2) := by
  unfold State.paceWindow
  repeat' (first | with_reducible assumption | with_reducible apply keeps_modPace | with_reducible apply keeps_paceFaults | with_reducible apply keeps_gauge)

theorem keeps_forceOutlets {s : State} (h : Keeps r s)  : Keeps r (State.forceOutlets s) := by
  unfold State.forceOutlets
  repeat' (first | with_reducible assumption | with_reducible apply keeps_modOut | with_reducible apply keeps_foldl | intro _)

theorem keeps_blwPace {s : State} (h : Keeps r s) (t : Nat) (quiet : Bool) : Keeps r (State.blwPace s t quiet).2 := by
  unfold State.blwPace
  repeat' (first | with_reducible assumption | with_reducible apply keeps_modPace | with_reducible apply keeps_ite)

end Sys2Proof.Machine
end

