-- ==== Sys2Proof/Laws/KeepsHost.lean ====
section
/-! SUPPORT. What power, regulator, upgrade, debug, link and host port keep (`Keeps`), one law per operation. -/

namespace Sys2Proof.Machine
variable {r s : State}

theorem keeps_resetOutlets {s : State} (h : Keeps r s)  : Keeps r (State.resetOutlets s) := by
  unfold State.resetOutlets
  repeat' (first | with_reducible assumption | with_reducible apply keeps_sendStop | with_reducible apply keeps_overrideAll | with_reducible apply keeps_foldl | exact ⟨rfl, rfl⟩ | exact fun _ => rfl | intro _ | split | with_reducible apply keeps_mk)

theorem keeps_cutFuses {s : State} (h : Keeps r s)  : Keeps r (State.cutFuses s) := by
  unfold State.cutFuses
  refine keeps_ite h ?_
  exact keeps_lcs (keeps_draw h) (forward_cut _ _ _)

theorem keeps_beginReset {s : State} (h : Keeps r s) (held : Bool) : Keeps r (State.beginReset s held) := by
  unfold State.beginReset
  repeat' (first | with_reducible assumption | with_reducible apply keeps_cutFuses | with_reducible apply keeps_resetOutlets | exact ⟨rfl, rfl⟩ | exact fun _ => rfl | (intro hh; exact hh) | with_reducible apply keeps_mk)

theorem keeps_toPhase {s : State} (h : Keeps r s) (n : BitVec 3) : Keeps r (State.toPhase s n) := by
  unfold State.toPhase
  repeat' (first | with_reducible assumption | exact id | exact ⟨rfl, rfl⟩ | with_reducible apply keeps_mk)

theorem keeps_enginesOff {s : State} (h : Keeps r s)  : Keeps r (State.enginesOff s) := by
  unfold State.enginesOff
  repeat' (first | with_reducible assumption | with_reducible apply keeps_modEng | with_reducible apply keeps_foldl | intro _)

theorem keeps_retain {s : State} (h : Keeps r s)  : Keeps r (State.retain s) := by
  unfold State.retain
  repeat' (first | with_reducible assumption | with_reducible apply keeps_enginesOff | exact ⟨rfl, rfl⟩ | intro _ | split | with_reducible apply keeps_mk)

theorem keeps_ramp {s : State} (h : Keeps r s)  : Keeps r (State.ramp s) := by
  unfold State.ramp
  exact keeps_foldl (fun _ _ hs => keeps_modPace (keeps_draw hs) _ _) _ (keeps_mk h id id id ⟨rfl, rfl⟩)

theorem keeps_wake {s : State} (h : Keeps r s)  : Keeps r (State.wake s) := by
  have h1 : Keeps r { s with power := { s.power with ret := false } } := keeps_mk h id id id ⟨rfl, rfl⟩
  exact keeps_ite (keeps_ramp h1) h1

theorem keeps_wipeSealed {s : State} (h : Keeps r s)  : Keeps r (State.wipeSealed s) := by
  unfold State.wipeSealed
  repeat' (first | with_reducible assumption | with_reducible apply keeps_wipe | with_reducible apply keeps_foldl | intro _)

theorem keeps_lcsTo {s : State} (h : Keeps r s) (unlock : BitVec 16) (st : LState) (token : List Byte) : Keeps r (State.lcsTo s unlock st token) := by
  unfold State.lcsTo
  split
  · next hc =>
    refine keeps_lcs h (fun _ => ⟨fun y hy => ?_, Nat.le_refl _⟩)
    cases hy
    simp only [Bool.and_eq_true] at hc
    exact forward_transition hc.2
  · exact keeps_lcs h (fun hf => ⟨hf, Nat.le_refl _⟩)

theorem keeps_progKey {s : State} (h : Keeps r s) (unlock : BitVec 16) : Keeps r (State.progKey s unlock) := by
  unfold State.progKey
  exact keeps_ite (keeps_lcs h (fun _ => ⟨(fun _ hy => by cases hy), Nat.le_refl _⟩)) (keeps_lcs h (fun hf => ⟨hf, Nat.le_refl _⟩))

theorem keeps_toReturned {s : State} (h : Keeps r s) (unlock : BitVec 16) (token : List Byte) : Keeps r (State.toReturned s unlock token) := by
  have h1 : Keeps r { s with rgl := if s.tokenRead unlock then s.rgl.reads 136 else s.rgl } := keeps_mk h id id id ⟨rfl, rfl⟩
  have h2 := keeps_lcsTo h1 unlock .returned token
  exact keeps_mk h2 id id id ⟨rfl, rfl⟩

theorem keeps_drawBytes (n : Nat) (h : Keeps r s) : Keeps r (State.drawBytes n s).2 := by
  induction n generalizing s with
  | zero => exact h
  | succ n ih => exact ih (keeps_draw h)

theorem keeps_modRgl {s : State} (h : Keeps r s) (f : Rgl → Rgl) : Keeps r (State.modRgl s f) := by
  unfold State.modRgl
  repeat' (first | with_reducible assumption | exact id | exact ⟨rfl, rfl⟩ | with_reducible apply keeps_mk)

theorem keeps_rglDone {s : State} (h : Keeps r s) (result : BitVec 2) : Keeps r (State.rglDone s result) := by
  unfold State.rglDone
  repeat' (first | with_reducible assumption | with_reducible apply keeps_modRgl)

theorem keeps_rglRefuse {s : State} (h : Keeps r s) (x : Rfs) : Keeps r (State.rglRefuse s x) := by
  unfold State.rglRefuse
  repeat' (first | with_reducible assumption | with_reducible apply keeps_rglDone | with_reducible apply keeps_modRgl | with_reducible apply keeps_raiseInfo)

theorem keeps_rglPlain {s : State} (h : Keeps r s)  : Keeps r (State.rglPlain s) := by
  unfold State.rglPlain
  repeat' (first | with_reducible assumption | with_reducible apply keeps_draw | with_reducible apply keeps_rglDone)

theorem keeps_rglCmd {f : State → State} (h : Keeps r s) (hf : ∀ s, Keeps r s → Keeps r (f s)) (b : Bool) :
    Keeps r (s.rglCmd b f) := by
  unfold State.rglCmd
  exact keeps_ite (keeps_modRgl h _) (keeps_ite (keeps_rglRefuse h _) (hf s h))

theorem keeps_dropRetired {s : State} (h : Keeps r s) (gen : Bool) : Keeps r (State.dropRetired s gen) := by
  unfold State.dropRetired
  repeat' (first | with_reducible assumption | refine (fun (_ : Keeps r _) => ?_) | with_reducible apply keeps_setCtx | with_reducible apply keeps_foldl | intro _ | split)

theorem keeps_emptySlot {s : State} (h : Keeps r s) (gen : Bool) : Keeps r (State.emptySlot s gen) := by
  unfold State.emptySlot
  exact keeps_mk (keeps_setSlot (keeps_dropRetired h _) _ _) id id id ⟨rfl, rfl⟩

theorem keeps_cmdCheck {s : State} (h : Keeps r s)  : Keeps r (State.cmdCheck s) := by
  unfold State.cmdCheck
  repeat' (first | with_reducible assumption | with_reducible apply keeps_rglCmd | with_reducible apply keeps_modRgl | intro _)

theorem keeps_cmdLoad {s : State} (h : Keeps r s) (slot : Bool) : Keeps r (State.cmdLoad s slot) := by
  unfold State.cmdLoad
  repeat' (first | with_reducible assumption | with_reducible apply keeps_rglCmd | with_reducible apply keeps_rglRefuse | with_reducible apply keeps_emptySlot | with_reducible apply keeps_modRgl | intro _ | split)

theorem keeps_abort {s : State} (h : Keeps r s)  : Keeps r (State.abort s) := by
  unfold State.abort
  repeat' (first | with_reducible assumption | with_reducible apply keeps_rglDone | with_reducible apply keeps_modRgl | intro _ | split)

theorem keeps_cmdDiscard {s : State} (h : Keeps r s) (slot : Bool) : Keeps r (State.cmdDiscard s slot) := by
  unfold State.cmdDiscard
  repeat' (first | with_reducible assumption | with_reducible apply keeps_rglCmd | with_reducible apply keeps_emptySlot | with_reducible apply keeps_rglPlain | with_reducible apply keeps_rglRefuse | intro _ | split)

theorem keeps_writeCopies {s : State} (h : Keeps r s) (i : Image) : Keeps r (State.writeCopies s i) := by
  unfold State.writeCopies
  repeat' (first | with_reducible assumption | with_reducible apply keeps_place | with_reducible apply keeps_foldl | intro _)

theorem keeps_writeCode {s : State} (h : Keeps r s) (i : Image) : Keeps r (State.writeCode s i) := by
  unfold State.writeCode
  repeat' (first | with_reducible assumption | with_reducible apply keeps_place | with_reducible apply keeps_foldl | intro _)

theorem keeps_writeBlocks {s : State} (h : Keeps r s) (gen : Bool) (i : Image) : Keeps r (State.writeBlocks s gen i) := by
  unfold State.writeBlocks
  repeat' (first | with_reducible assumption | with_reducible apply keeps_putRange | with_reducible apply keeps_foldl | exact ⟨rfl, rfl⟩ | intro _ | split | with_reducible apply keeps_mk)

theorem keeps_writeQueues {s : State} (h : Keeps r s) (i : Image) : Keeps r (State.writeQueues s i) := by
  unfold State.writeQueues
  repeat' (first | with_reducible assumption | with_reducible apply keeps_putRange | with_reducible apply keeps_foldl | intro _)

theorem keeps_writeSeverities {s : State} (h : Keeps r s) (i : Image) : Keeps r (State.writeSeverities s i) := by
  unfold State.writeSeverities
  repeat' (first | with_reducible assumption | with_reducible apply keeps_modFw | with_reducible apply keeps_foldl | intro _ | split)

theorem keeps_writeTrips {s : State} (h : Keeps r s) (i : Image) : Keeps r (State.writeTrips s i) := by
  unfold State.writeTrips
  repeat' (first | with_reducible assumption | with_reducible apply keeps_modTrip | with_reducible apply keeps_tripCfg | with_reducible apply keeps_foldl | intro _)

theorem keeps_clearCommands {s : State} (h : Keeps r s) (i : Image) : Keeps r (State.clearCommands s i) := by
  unfold State.clearCommands
  repeat' (first | with_reducible assumption | with_reducible apply keeps_modCvc | with_reducible apply keeps_foldl | intro _)

theorem keeps_loadImage {s : State} (h : Keeps r s) (gen : Bool) (i : Image) : Keeps r (State.loadImage s gen i) := by
  unfold State.loadImage
  extract_lets run s1 s2 s3
  have h2 : Keeps r s2 := keeps_setSlot (keeps_writeQueues h i) _ _
  have h3 : ∀ o : Option Bool, Keeps r (match o with
      | some g => { s2.writeCode i with upg := { s2.upg with older := g, beside := true, sw := 0, pop := 0 } }
      | none => s2.writeSeverities i) := by
    rintro (_ | g)
    · exact keeps_writeSeverities h2 i
    · exact keeps_mk (keeps_writeCode h2 i) id id id ⟨rfl, rfl⟩
  exact keeps_foldl (fun _ _ hs => keeps_modTrain hs _ _) _
    (keeps_clearCommands (keeps_writeTrips (keeps_writeBlocks (keeps_writeCopies (h3 run) i) _ _) _) _)

theorem keeps_lateCode (h : Keeps r s) (i : Image) : Keeps r (s.lateCode i).2 := keeps_ite3 h (keeps_draw h)

theorem keeps_loadOr {s : State} (h : Keeps r s) (gen : Bool) (i : Image) (sect : Nat) : Keeps r (State.loadOr s gen i sect) := by
  unfold State.loadOr
  have hd := keeps_lateCode h i
  extract_lets d
  split
  · exact keeps_rglRefuse hd _
  · exact keeps_rglDone (keeps_loadImage hd _ _) _

theorem keeps_admitted {s : State} (h : Keeps r s) (raw : List Byte) : Keeps r (State.admitted s raw) := by
  unfold State.admitted
  repeat' (first | with_reducible assumption | with_reducible apply keeps_rglRefuse | with_reducible apply keeps_loadOr | with_reducible apply keeps_rglDone | split)

theorem keeps_readImage {s : State} (h : Keeps r s) (raw : List Byte) (err : Option Nat) : Keeps r (State.readImage s raw err) := by
  unfold State.readImage
  repeat' (first | with_reducible assumption | with_reducible apply keeps_rglRefuse | with_reducible apply keeps_admitted | with_reducible apply keeps_ite | split)

theorem keeps_enterStart {s : State} (h : Keeps r s) (k : Nat) : Keeps r (State.enterStart s k) := by
  unfold State.enterStart
  with_reducible exact keeps_modEng h _ _

theorem keeps_startEngine {s : State} (h : Keeps r s) (i : Image) (k : Nat) : Keeps r (State.startEngine s i k) := by
  unfold State.startEngine
  repeat' (first | with_reducible assumption | with_reducible apply keeps_wipe | with_reducible apply keeps_enterTest | with_reducible apply keeps_modTrain | with_reducible apply keeps_copyIn | with_reducible apply keeps_enterStart | with_reducible apply keeps_copyFailed | with_reducible apply keeps_modEng | split)

theorem keeps_startImage {s : State} (h : Keeps r s) (gen : Bool) : Keeps r (State.startImage s gen) := by
  unfold State.startImage
  repeat' (first | with_reducible assumption | with_reducible apply keeps_startEngine | with_reducible apply keeps_setCtx | with_reducible apply keeps_modMbox | with_reducible apply keeps_writeSafe | with_reducible apply keeps_modRgl | with_reducible apply keeps_foldl | intro _)

theorem keeps_start {s : State} (h : Keeps r s) (gen : Bool) : Keeps r (State.start s gen) := by
  unfold State.start
  repeat' (first | with_reducible assumption | with_reducible apply keeps_rglRefuse | with_reducible apply keeps_startImage | with_reducible apply keeps_ite)

theorem keeps_cmdStart {s : State} (h : Keeps r s) (slot : Bool) : Keeps r (State.cmdStart s slot) := by
  unfold State.cmdStart
  repeat' (first | with_reducible assumption | with_reducible apply keeps_rglCmd | with_reducible apply keeps_start | intro _)

theorem keeps_service {s : State} (h : Keeps r s) (gen : Bool) : Keeps r (State.service s gen) := by
  unfold State.service
  have h1 := keeps_foldl (f := fun s k => if (s.engAt k).st == .start then s.modEng k (fun e => { e with st := .service }) else s)
    (fun s k h => keeps_ite (keeps_modEng h _ _) h) (List.range (9 * s.variant.trains)) h
  revert h1
  generalize List.foldl _ s _ = s1
  intro h1
  have h2 : Keeps r { s1 with
      esc := { s1.esc with svc := s1.time }
      rmt := { s1.rmt with startedSecured := s1.rmt.startedSecured || s1.lcs.st == LState.secured } } :=
    keeps_mk h1 id id (fun hs => by change (s1.rmt.startedSecured || _) = true; rw [hs]; rfl) ⟨rfl, rfl⟩
  have h3 := keeps_tripChange h2 (f := fun s => (s.setSlot gen { s.slotOf gen with st := .running }).tripEdges)
    (fun s h => keeps_tripEdges (keeps_setSlot h _ _))
  exact keeps_rglPlain (keeps_ite (keeps_overrideAll h3) h3)

theorem keeps_modUpg {s : State} (h : Keeps r s) (f : Upg → Upg) : Keeps r (State.modUpg s f) := by
  unfold State.modUpg
  repeat' (first | with_reducible assumption | exact id | exact ⟨rfl, rfl⟩ | with_reducible apply keeps_mk)

theorem keeps_upgErr {s : State} (h : Keeps r s)  : Keeps r (State.upgErr s) := by
  unfold State.upgErr
  repeat' (first | with_reducible assumption | with_reducible apply keeps_modUpg)

theorem keeps_schedule {s : State} (h : Keeps r s) (pop : BitVec 2) (set : BitVec 6) : Keeps r (State.schedule s pop set) := by
  unfold State.schedule
  repeat' (first | with_reducible assumption | with_reducible apply keeps_modUpg | with_reducible apply keeps_upgErr | split)

theorem keeps_cmdSwitch {s : State} (h : Keeps r s) (set : BitVec 6) : Keeps r (State.cmdSwitch s set) := by
  unfold State.cmdSwitch
  repeat' (first | with_reducible assumption | with_reducible apply keeps_schedule | with_reducible apply keeps_upgErr | with_reducible apply keeps_ite)

theorem keeps_cmdRevert {s : State} (h : Keeps r s) (set : BitVec 6) : Keeps r (State.cmdRevert s set) := by
  unfold State.cmdRevert
  repeat' (first | with_reducible assumption | with_reducible apply keeps_schedule | with_reducible apply keeps_upgErr | with_reducible apply keeps_ite)

theorem keeps_cmdCancel {s : State} (h : Keeps r s)  : Keeps r (State.cmdCancel s) := by
  unfold State.cmdCancel
  repeat' (first | with_reducible assumption | with_reducible apply keeps_modUpg | with_reducible apply keeps_upgErr | with_reducible apply keeps_ite)

theorem keeps_cmdComplete {s : State} (h : Keeps r s)  : Keeps r (State.cmdComplete s) := by
  unfold State.cmdComplete
  repeat' (first | with_reducible assumption | with_reducible apply keeps_modUpg | with_reducible apply keeps_upgErr | with_reducible apply keeps_ite)

theorem keeps_retireMember {s : State} (h : Keeps r s) (seats : List Nat) (gen : Bool) (lctx : Nat) : Keeps r (State.retireMember s seats gen lctx) := by
  unfold State.retireMember
  repeat' (first | with_reducible assumption | with_reducible apply keeps_modCtx | with_reducible apply keeps_stopCtx | with_reducible apply keeps_sendStop | split)

theorem keeps_applyMap {s : State} (h : Keeps r s) (srcGen : Bool) (dstGen : Bool) (sl : Nat) (sw : Nat) (dl : Nat) (dw : Nat) (count : Nat) : Keeps r (State.applyMap s srcGen dstGen sl sw dl dw count) := by
  unfold State.applyMap
  repeat' (first | with_reducible assumption | with_reducible apply keeps_strRead | with_reducible apply keeps_write | with_reducible apply keeps_foldl | intro _ | split)

theorem keeps_markHeader {s : State} (h : Keeps r s) (gen : Bool) (lctx : Nat) : Keeps r (State.markHeader s gen lctx) := by
  unfold State.markHeader
  repeat' (first | with_reducible assumption | with_reducible apply keeps_write | with_reducible apply keeps_foldl | intro _ | split)

theorem keeps_bridge {s : State} (h : Keeps r s) (set : Nat) (rev : Bool) : Keeps r (State.bridge s set rev) := by
  unfold State.bridge
  repeat' (first | with_reducible assumption | with_reducible apply keeps_applyMap | with_reducible apply keeps_markHeader | with_reducible apply keeps_foldl | intro _)

theorem keeps_rebuildMember {s : State} (h : Keeps r s) (gen : Bool) (lctx : Nat) : Keeps r (State.rebuildMember s gen lctx) := by
  unfold State.rebuildMember
  repeat' (first | with_reducible assumption | with_reducible apply keeps_modEng | with_reducible apply keeps_setCtx | with_reducible apply keeps_restoreCtx | with_reducible apply keeps_ite | split)

theorem keeps_passMailboxes {s : State} (h : Keeps r s) (gen : Bool) (members : List Nat) : Keeps r (State.passMailboxes s gen members) := by
  unfold State.passMailboxes
  repeat' (first | with_reducible assumption | with_reducible apply keeps_modMbox | with_reducible apply keeps_foldl | intro _)

theorem keeps_passOutlets {s : State} (h : Keeps r s) (gen : Bool) (members : List Nat) : Keeps r (State.passOutlets s gen members) := by
  unfold State.passOutlets
  repeat' (first | with_reducible assumption | with_reducible apply keeps_writeSafe | with_reducible apply keeps_foldl | intro _)

theorem keeps_flushCaches {s : State} (h : Keeps r s) (ids : List Nat) : Keeps r (State.flushCaches s ids) := by
  unfold State.flushCaches
  repeat' (first | with_reducible assumption | with_reducible apply keeps_modEng | with_reducible apply keeps_foldl | intro _)

theorem keeps_markMoved {s : State} (h : Keeps r s) (set : Nat) (newer : Bool) : Keeps r (State.markMoved s set newer) := by
  unfold State.markMoved
  repeat' (first | with_reducible assumption | with_reducible apply keeps_setSlot | exact ⟨rfl, rfl⟩ | (intro hh; exact hh) | with_reducible apply keeps_mk)

theorem keeps_moveSet {s : State} (h : Keeps r s) (set : Nat) (newer : Bool) : Keeps r (State.moveSet s set newer) := by
  unfold State.moveSet
  repeat' (first | with_reducible assumption | with_reducible apply keeps_retireMember | with_reducible apply keeps_bridge | with_reducible apply keeps_tripChange | with_reducible apply keeps_markMoved | with_reducible apply keeps_tripEdges | with_reducible apply keeps_rebuildMember | with_reducible apply keeps_passMailboxes | with_reducible apply keeps_passOutlets | with_reducible apply keeps_flushCaches | with_reducible apply keeps_modGrp | with_reducible apply keeps_modUpg | with_reducible apply keeps_foldl | exact ⟨rfl, rfl⟩ | intro _ | split | with_reducible apply keeps_mk)

theorem keeps_deferMove {s : State} (h : Keeps r s)  : Keeps r (State.deferMove s) := by
  unfold State.deferMove
  repeat' (first | with_reducible assumption | with_reducible apply keeps_modUpg | split)

theorem keeps_modEDbg {s : State} (h : Keeps r s) (k : Nat) (f : EDbg → EDbg) : Keeps r (State.modEDbg s k f) := by
  unfold State.modEDbg
  repeat' (first | with_reducible assumption | with_reducible apply keeps_modEng)

theorem keeps_modDbg {s : State} (h : Keeps r s) (f : Dbg → Dbg) : Keeps r (State.modDbg s f) := by
  unfold State.modDbg
  repeat' (first | with_reducible assumption | exact id | exact ⟨rfl, rfl⟩ | with_reducible apply keeps_mk)

theorem keeps_haltLatch {s : State} (h : Keeps r s) (k : Nat) : Keeps r (State.haltLatch s k) := by
  unfold State.haltLatch
  repeat' (first | with_reducible assumption | with_reducible apply keeps_modGrp | with_reducible apply keeps_foldl | intro _ | split)

theorem keeps_haltGroup {s : State} (h : Keeps r s) (k : Nat) : Keeps r (State.haltGroup s k) := by
  unfold State.haltGroup
  repeat' (first | with_reducible assumption | refine (fun (_ : Keeps r _) => ?_) | with_reducible apply keeps_requestHalt | with_reducible apply keeps_foldl | intro _ | split)

theorem keeps_skipLate {s : State} (h : Keeps r s) (k : Nat) : Keeps r (State.skipLate s k) := by
  unfold State.skipLate
  repeat' (first | with_reducible assumption | with_reducible apply keeps_skipRelease | with_reducible apply keeps_modEng | split)

theorem keeps_haltCtx {s : State} (h : Keeps r s) (k : Nat) (slot : Nat) : Keeps r (State.haltCtx s k slot) := by
  unfold State.haltCtx
  repeat' (first | with_reducible assumption | with_reducible apply keeps_traceEnd | with_reducible apply keeps_setCtx)

theorem keeps_takeHalt {s : State} (h : Keeps r s) (k : Nat) (slot : Option Nat) : Keeps r (State.takeHalt s k slot) := by
  unfold State.takeHalt
  repeat' (first | with_reducible assumption | with_reducible apply keeps_haltCtx | with_reducible apply keeps_modEng | with_reducible apply keeps_skipLate | with_reducible apply keeps_haltLatch | with_reducible apply keeps_haltGroup | with_reducible apply keeps_raiseLow | split)

theorem keeps_cmdHalt {s : State} (h : Keeps r s) (k : Nat) : Keeps r (State.cmdHalt s k) := by
  unfold State.cmdHalt
  repeat' (first | with_reducible assumption | with_reducible apply keeps_requestHalt | with_reducible apply keeps_ite)

theorem keeps_thaw {s : State} (h : Keeps r s) (k : Nat) (slot : Option Nat) : Keeps r (State.thaw s k slot) := by
  unfold State.thaw
  repeat' (first | with_reducible assumption | refine (fun (_ : Keeps r _) => ?_) | with_reducible apply keeps_modCtx | with_reducible apply keeps_ite | with_reducible apply keeps_foldl | intro _ | split)

theorem keeps_rejoin {s : State} (h : Keeps r s) (k : Nat) : Keeps r (State.rejoin s k) := by
  unfold State.rejoin
  repeat' (first | with_reducible assumption | with_reducible apply keeps_modEDbg)

theorem keeps_goOn {s : State} (h : Keeps r s) (k : Nat) (slot : Nat) (stepping : Bool) : Keeps r (State.goOn s k slot stepping) := by
  unfold State.goOn
  repeat' (first | with_reducible assumption | with_reducible apply keeps_setCtx | with_reducible apply keeps_modEng | with_reducible apply keeps_rejoin | with_reducible apply keeps_ite)

theorem keeps_unhalt {s : State} (h : Keeps r s) (k : Nat) : Keeps r (State.unhalt s k) := by
  unfold State.unhalt
  repeat' (first | with_reducible assumption | with_reducible apply keeps_modEDbg)

theorem keeps_cmdResume {s : State} (h : Keeps r s) (k : Nat) : Keeps r (State.cmdResume s k) := by
  unfold State.cmdResume
  repeat' (first | with_reducible assumption | with_reducible apply keeps_thaw | with_reducible apply keeps_unhalt | with_reducible apply keeps_goOn | with_reducible apply keeps_rejoin | with_reducible apply keeps_ite | split)

theorem keeps_cmdStep {s : State} (h : Keeps r s) (k : Nat) : Keeps r (State.cmdStep s k) := by
  unfold State.cmdStep
  extract_lets d
  refine keeps_ite h ?_
  split
  · exact keeps_goOn (keeps_unhalt (keeps_thaw h _ _) _) _ _ _
  · exact h

theorem keeps_skiprelRead {s : State} (h : Keeps r s) (k : Nat) (quiet : Bool) : Keeps r (State.skiprelRead s k quiet).2 := by
  unfold State.skiprelRead
  repeat' (first | with_reducible assumption | with_reducible apply keeps_modEDbg | with_reducible apply keeps_ite)

theorem keeps_roomBack {s : State} (h : Keeps r s)  : Keeps r (State.roomBack s) := by
  unfold State.roomBack
  repeat' (first | with_reducible assumption | with_reducible apply keeps_flushOvf | with_reducible apply keeps_ite)

theorem keeps_trcRead {s : State} (h : Keeps r s) (quiet : Bool) : Keeps r (State.trcRead s quiet).2 := by
  unfold State.trcRead
  repeat' (first | with_reducible assumption | with_reducible apply keeps_modDbg | with_reducible apply keeps_roomBack | with_reducible apply keeps_ite3)

theorem keeps_trcCtl {s : State} (h : Keeps r s) (v : Word) : Keeps r (State.trcCtl s v) := by
  unfold State.trcCtl
  repeat' (first | with_reducible assumption | with_reducible apply keeps_modDbg | with_reducible apply keeps_emit | with_reducible apply keeps_modEDbg | with_reducible apply keeps_ite | with_reducible apply keeps_foldl | intro _)

theorem keeps_modLink {s : State} (h : Keeps r s) (f : Link → Link) : Keeps r (State.modLink s f) := by
  unfold State.modLink
  repeat' (first | with_reducible assumption | exact id | exact ⟨rfl, rfl⟩ | with_reducible apply keeps_mk)

theorem keeps_linkNote {s : State} (h : Keeps r s) (n : Nat) : Keeps r (State.linkNote s n) := by
  unfold State.linkNote
  repeat' (first | with_reducible assumption | with_reducible apply keeps_pubRead | extract_lets +onlyGivenNames x | split)

theorem keeps_linkSend {s : State} (h : Keeps r s)  : Keeps r (State.linkSend s) := by
  unfold State.linkSend
  repeat' (first | with_reducible assumption | with_reducible apply keeps_linkNote | with_reducible apply keeps_modLink | with_reducible apply keeps_foldl | intro _)

theorem keeps_linkPut {s : State} (h : Keeps r s) (t : Nat) (e : QueueE) (wr : Word) (rec : List Byte) : Keeps r (State.linkPut s t e wr rec) := by
  exact keeps_write (keeps_writeAll (keeps_writeAll h _ _) _ _) _ _ _

theorem keeps_linkPtr {s : State} (h : Keeps r s) (a : Nat) : Keeps r (State.linkPtr s a).2 := by
  unfold State.linkPtr
  repeat' (first | with_reducible assumption | with_reducible apply keeps_noteWord | split)

theorem keeps_linkRoom {s : State} (h : Keeps r s) (t : Nat) (e : QueueE) (wr : Word) (rec : List Byte) (free : Option Nat) : Keeps r (State.linkRoom s t e wr rec free) := by
  exact keeps_ite (keeps_linkPut h _ _ _ _) (keeps_raise h _)

theorem keeps_linkStore {s : State} (h : Keeps r s) (rec : List Byte) : Keeps r (State.linkStore s rec) := by
  unfold State.linkStore
  split
  · exact keeps_raise h _
  · exact keeps_linkRoom (keeps_linkPtr (keeps_linkPtr h _) _) _ _ _ _ _

theorem keeps_linkReceive {s : State} (h : Keeps r s) (l : List Word64) : Keeps r (State.linkReceive s l) := by
  unfold State.linkReceive
  repeat' (first | with_reducible assumption | with_reducible apply keeps_modLink | with_reducible apply keeps_raiseInfo | with_reducible apply keeps_linkStore | with_reducible apply keeps_raise | with_reducible apply keeps_ite)

theorem keeps_lnkCtl {s : State} (h : Keeps r s) (v : Word) : Keeps r (State.lnkCtl s v) := by
  unfold State.lnkCtl
  repeat' (first | with_reducible assumption | with_reducible apply keeps_modLink | with_reducible apply keeps_ite)

theorem keeps_statCleared {s : State} (h : Keeps r s) (w : Nat) (v : Word) : Keeps r (State.statCleared s w v) := by
  unfold State.statCleared
  repeat' (first | with_reducible assumption | with_reducible apply keeps_modPace | with_reducible apply keeps_foldl | intro _ | split)

theorem keeps_fwWrite {s : State} (h : Keeps r s) (w : Nat) (x : Nat) (v : Word) : Keeps r (State.fwWrite s w x v) := by
  unfold State.fwWrite
  repeat' (first | with_reducible assumption | with_reducible apply keeps_modFw | with_reducible apply keeps_statCleared | with_reducible apply keeps_fwForce | with_reducible apply keeps_ite | split)

theorem keeps_globalWrite {s : State} (h : Keeps r s) (off : Nat) (v : Word) : Keeps r (State.globalWrite s off v) := by
  unfold State.globalWrite
  repeat' (first | with_reducible assumption | with_reducible apply keeps_lnkCtl | with_reducible apply keeps_modLink | exact ⟨rfl, rfl⟩ | intro _ | split | with_reducible apply keeps_mk)

theorem keeps_rglCommand {s : State} (h : Keeps r s) (v : Word) : Keeps r (State.rglCommand s v) := by
  unfold State.rglCommand
  repeat' (first | with_reducible assumption | with_reducible apply keeps_cmdCheck | with_reducible apply keeps_cmdLoad | with_reducible apply keeps_abort | with_reducible apply keeps_cmdDiscard | with_reducible apply keeps_cmdStart | with_reducible apply keeps_modRgl | split)

theorem keeps_upgCommand {s : State} (h : Keeps r s) (v : Word) : Keeps r (State.upgCommand s v) := by
  unfold State.upgCommand
  repeat' (first | with_reducible assumption | with_reducible apply keeps_cmdSwitch | with_reducible apply keeps_cmdRevert | with_reducible apply keeps_cmdCancel | with_reducible apply keeps_cmdComplete | with_reducible apply keeps_upgErr | split)

theorem keeps_rglHeld {s : State} (h : Keeps r s) (f : Rgl → Rgl) : Keeps r (State.rglHeld s f) := by
  unfold State.rglHeld
  repeat' (first | with_reducible assumption | with_reducible apply keeps_modRgl | with_reducible apply keeps_ite)

theorem keeps_rglWrite {s : State} (h : Keeps r s) (off : Nat) (v : Word) : Keeps r (State.rglWrite s off v) := by
  unfold State.rglWrite
  repeat' (first | with_reducible assumption | with_reducible apply keeps_rglCommand | with_reducible apply keeps_modRgl | with_reducible apply keeps_rglHeld | with_reducible apply keeps_upgCommand | with_reducible apply keeps_modUpg | split)

theorem keeps_lateRead {s : State} (h : Keeps r s) (quiet : Bool) : Keeps r (State.lateRead s quiet).2 := by
  unfold State.lateRead
  repeat' (first | with_reducible assumption | with_reducible apply keeps_ite | exact id | exact ⟨rfl, rfl⟩ | with_reducible apply keeps_mk)

theorem keeps_gstatEsc {s : State} (h : Keeps r s) (g : Nat) : Keeps r (State.gstatEsc s g) := by
  unfold State.gstatEsc
  repeat' (first | with_reducible assumption | with_reducible apply keeps_modGrp | with_reducible apply keeps_ite)

theorem keeps_rmtWrite {s : State} (h : Keeps r s) (off : Nat) (v : Word) : Keeps r (State.rmtWrite s off v) := by
  unfold State.rmtWrite
  repeat' (first | with_reducible assumption | with_reducible apply keeps_gstatEsc | with_reducible apply keeps_dialSelect | exact ⟨rfl, rfl⟩ | intro _ | split | with_reducible apply keeps_mk)

theorem keeps_wayWrite {s : State} (h : Keeps r s) (off : Nat) (v : Word) : Keeps r (State.wayWrite s off v) := by
  unfold State.wayWrite
  repeat' (first | with_reducible assumption | with_reducible apply keeps_tripClearWord | with_reducible apply keeps_tripCfg | with_reducible apply keeps_modTrip | split)

theorem keeps_trbCtl {s : State} (h : Keeps r s) (v : Word) : Keeps r (State.trbCtl s v) := by
  unfold State.trbCtl
  repeat' (first | with_reducible assumption | exact id | exact ⟨rfl, rfl⟩ | with_reducible apply keeps_mk)

theorem keeps_gfWrite {s : State} (h : Keeps r s) (off : Nat) (v : Word) : Keeps r (State.gfWrite s off v) := by
  unfold State.gfWrite
  repeat' (first | with_reducible assumption | with_reducible apply keeps_gfCtl | with_reducible apply keeps_trbCtl | exact ⟨rfl, rfl⟩ | intro _ | split | with_reducible apply keeps_mk)

theorem keeps_lcsCommand {s : State} (h : Keeps r s) (v : Word) : Keeps r (State.lcsCommand s v) := by
  unfold State.lcsCommand
  extract_lets unlock
  split
  · exact keeps_progKey h _
  · exact keeps_lcsTo h _ _ _
  · exact keeps_lcsTo h _ _ _
  · exact keeps_ite (keeps_toReturned (keeps_drawBytes _ h) _ _) (keeps_toReturned h _ _)
  · exact keeps_lcsTo h _ _ _
  · exact keeps_mk h id id id ⟨rfl, rfl⟩

theorem keeps_powWrite {s : State} (h : Keeps r s) (off : Nat) (v : Word) : Keeps r (State.powWrite s off v) := by
  unfold State.powWrite
  repeat' (first | with_reducible assumption | with_reducible apply keeps_retain | with_reducible apply keeps_wake | with_reducible apply keeps_lcsCommand | exact id | exact ⟨rfl, rfl⟩ | split | with_reducible apply keeps_mk)

theorem keeps_dbgWrite {s : State} (h : Keeps r s) (off : Nat) (v : Word) (src : Byte) : Keeps r (State.dbgWrite s off v src) := by
  have ht : ∀ f : Dbg → Dbg, Keeps r (if s.variant.optional then s.modDbg f else s) := fun f => keeps_ite (keeps_modDbg h f) h
  unfold State.dbgWrite
  extract_lets trc
  split
  · exact keeps_modDbg h _
  · exact keeps_modDbg h _
  · exact keeps_modDbg h _
  · exact keeps_modDbg h _
  · exact keeps_modDbg h _
  · exact keeps_modDbg h _
  · exact keeps_ite (keeps_trcCtl h _) h
  · exact ht _
  · exact ht _
  · exact ht _
  · split
    · exact keeps_stimWrite h _ _ _
    · exact h

theorem keeps_ectl {s : State} (h : Keeps r s) (k : Nat) (v : Word) : Keeps r (State.ectl s k v) := by
  unfold State.ectl
  repeat' (first | with_reducible assumption | with_reducible apply keeps_modEDbg | with_reducible apply keeps_cmdResume | with_reducible apply keeps_cmdStep | with_reducible apply keeps_cmdHalt | with_reducible apply keeps_ite)

theorem keeps_edbgWrite {s : State} (h : Keeps r s) (k : Nat) (x : Nat) (v : Word) : Keeps r (State.edbgWrite s k x v) := by
  unfold State.edbgWrite
  extract_lets ac dc
  split
  · exact keeps_ectl h _ _
  · exact keeps_modEDbg h _ _
  · exact keeps_modEDbg h _ _
  · split
    · exact keeps_modEDbg h _ _
    · exact keeps_modEDbg h _ _
    · exact keeps_modEDbg h _ _
    · exact keeps_modEDbg h _ _
    · exact h

theorem keeps_trainRead_some {s : State} {t : Nat} {x : Nat} {quiet : Bool} {p : Word × State} (e : State.trainRead s t x quiet = some p) (h : Keeps r s) : Keeps r p.2 := by
  revert e
  unfold State.trainRead
  repeat' (first | with_reducible assumption | (intro e; refine keeps_trainCtlRead_some e ?_) | (intro e; injection e; subst_vars) | split)

theorem keeps_trainWrite {s : State} (h : Keeps r s) (t : Nat) (x : Nat) (v : Word) : Keeps r (State.trainWrite s t x v) := by
  unfold State.trainWrite
  repeat' (first | with_reducible assumption | with_reducible apply keeps_modTrain | with_reducible apply keeps_modMbox | with_reducible apply keeps_getD | intro _ | split | refine keeps_trainCtlWrite_some (by assumption) ?_)

theorem keeps_plain_some {s : State} {v : Option Word} {p : Word × State} (e : State.plain s v = some p) (h : Keeps r s) : Keeps r p.2 := by
  cases v with
  | none => cases e
  | some x => cases e; exact h

theorem keeps_regRead_some {s : State} {off : Nat} {quiet : Bool} {p : Word × State} (e : State.regRead s off quiet = some p) (h : Keeps r s) : Keeps r p.2 := by
  unfold State.regRead at e
  split at e
  · cases e
  split at e
  · split at e
    · cases e; exact h
    split at e
    · cases e; exact keeps_fwCapRead h _ _
    split at e
    · cases e; exact keeps_fwCntRead h _ _
    · cases e; exact h
  split at e
  · exact keeps_plain_some e h
  · exact keeps_plain_some e h
  · split at e
    · cases e; exact keeps_lateRead h _
    · exact keeps_plain_some e h
  · split at e
    · cases e; exact keeps_dialSeq h _ _
    · exact keeps_plain_some e h
  · exact keeps_plain_some e h
  · exact keeps_plain_some e h
  · split at e
    · cases e
      split
      · exact keeps_blwPace h _ _
      · exact h
    · exact keeps_plain_some e h
  · exact keeps_plain_some e h
  · split at e
    · cases e
      split
      · exact keeps_trcRead h _
      · exact h
    · exact keeps_plain_some e h
  · split at e
    · extract_lets t at e
      cases hx : s.trainRead t (off % 0x10000) quiet with
      | none => rw [hx] at e; cases e
      | some x =>
        rw [hx] at e; cases e
        split
        · exact keeps_trainRead_some hx h
        · exact h
    · split at e
      · split at e
        · cases e
          split
          · exact keeps_skiprelRead h _ _
          · exact h
        · exact keeps_plain_some e h
      · cases e

theorem keeps_regStore {s : State} (h : Keeps r s) (off : Nat) (v : Word) (src : Byte) : Keeps r (State.regStore s off v src) := by
  unfold State.regStore
  repeat' (first | with_reducible assumption | with_reducible apply keeps_fwWrite | with_reducible apply keeps_globalWrite | with_reducible apply keeps_rglWrite | with_reducible apply keeps_rmtWrite | with_reducible apply keeps_wayWrite | with_reducible apply keeps_gfWrite | with_reducible apply keeps_powWrite | with_reducible apply keeps_dbgWrite | with_reducible apply keeps_trainWrite | with_reducible apply keeps_edbgWrite | with_reducible apply keeps_ite | split)

theorem keeps_regWrite_some {s : State} {off : Nat} {v : Word} {src : Byte} {s' : State} (e : State.regWrite s off v src = some s') (h : Keeps r s) : Keeps r s' := by
  unfold State.regWrite at e
  cases hx : s.regRead off true with
  | none => rw [hx] at e; cases e
  | some x => rw [hx] at e; cases e; exact keeps_regStore h _ _ _

theorem keeps_hostRead {s : State} (h : Keeps r s) (off : Nat) (quiet : Bool) : Keeps r (State.hostRead s off quiet).2.2 := by
  unfold State.hostRead
  repeat' (first | with_reducible assumption | split | refine keeps_regRead_some (by assumption) ?_)

theorem keeps_hostWrite {s : State} (h : Keeps r s) (off : Nat) (v : Word) (prot1 : Bool) (src : Byte) : Keeps r (State.hostWrite s off v prot1 src).2 := by
  unfold State.hostWrite
  repeat' (first | with_reducible assumption | with_reducible apply keeps_retain | split | refine keeps_regWrite_some (by assumption) ?_)

theorem keeps_windowWord {s : State} (h : Keeps r s) (w : Nat) : Keeps r (State.windowWord s w).2.2 := by
  unfold State.windowWord
  repeat' (first | with_reducible assumption | with_reducible apply keeps_raiseMemUE | with_reducible apply keeps_noteCE | split)

theorem keeps_windowPut {s : State} (h : Keeps r s) (w : Nat) (data : Word64) (mask : BitVec 8) : Keeps r (State.windowPut s w data mask).2 := by
  unfold State.windowPut
  repeat' (first | with_reducible assumption | with_reducible apply keeps_retireEntry | split)

theorem keeps_windowRead {s : State} (h : Keeps r s) (off : Nat) (n : Nat) : Keeps r (State.windowRead s off n).2.2 := by
  unfold State.windowRead
  repeat' (first | with_reducible assumption | with_reducible apply keeps_windowWord | (extract_lets +onlyGivenNames x; refine (fun (_ : Keeps r x.2.2) => ?_) ?_; clear_value x; rotate_left; subst x; rotate_right) | extract_lets +onlyGivenNames x | split)

theorem keeps_windowWrite {s : State} (h : Keeps r s) (off : Nat) (n : Nat) (strb : BitVec 16) (data : BitVec 128) : Keeps r (State.windowWrite s off n strb data).2 := by
  unfold State.windowWrite
  repeat' (first | with_reducible assumption | with_reducible apply keeps_windowPut | extract_lets +onlyGivenNames x | split)

theorem keeps_answerBeat {s : State} (h : Keeps r s) (v : BitVec 128) (rg : BitVec 2) : Keeps r (State.answerBeat s v rg) := by
  unfold State.answerBeat
  repeat' (first | with_reducible assumption | exact id | exact ⟨rfl, rfl⟩ | with_reducible apply keeps_mk)

theorem keeps_modTap {s : State} (h : Keeps r s) (f : Tap → Tap) : Keeps r (State.modTap s f) := by
  unfold State.modTap
  repeat' (first | with_reducible assumption | exact id | exact ⟨rfl, rfl⟩ | with_reducible apply keeps_mk)

theorem keeps_err {s : State} (h : Keeps r s)  : Keeps r (DRes.err s).s := by
  unfold DRes.err
  repeat' with_reducible assumption

theorem keeps_deny {s : State} (h : Keeps r s)  : Keeps r (DRes.deny s).s := by
  unfold DRes.deny
  repeat' with_reducible assumption

theorem keeps_dbgHost {s : State} (h : Keeps r s) (a : DAcc) : Keeps r (State.dbgHost s a).s := by
  unfold State.dbgHost
  repeat' (first | with_reducible assumption | with_reducible apply keeps_hostWrite | with_reducible apply keeps_hostRead | with_reducible apply keeps_windowWrite | with_reducible apply keeps_windowRead | extract_lets +onlyGivenNames x | split)

theorem keeps_dbgMemRead {s : State} (h : Keeps r s) (a : Nat) : Keeps r (State.dbgMemRead s a).s := by
  unfold State.dbgMemRead
  repeat' (first | with_reducible assumption | with_reducible apply keeps_windowWord)

theorem keeps_dbgMemWrite {s : State} (h : Keeps r s) (a : Nat) (v : Word) : Keeps r (State.dbgMemWrite s a v).s := by
  unfold State.dbgMemWrite
  repeat' (first | with_reducible assumption | with_reducible apply keeps_windowPut)

theorem keeps_dbgMem {s : State} (h : Keeps r s) (key : Nat) (a : DAcc) : Keeps r (State.dbgMem s key a).s := by
  unfold State.dbgMem
  repeat' (first | with_reducible assumption | with_reducible apply keeps_err | with_reducible apply keeps_dbgMemWrite | with_reducible apply keeps_dbgMemRead | extract_lets +onlyGivenNames x | split)

theorem keeps_dbgSample {s : State} (h : Keeps r s) (k : Nat) (o : Nat) (quiet : Bool) : Keeps r (State.dbgSample s k o quiet).s := by
  unfold State.dbgSample
  repeat' (first | with_reducible assumption | with_reducible apply keeps_readSample | with_reducible apply keeps_modEng | split)

theorem keeps_dbgPeek {s : State} (h : Keeps r s) (k : Nat) (rg : Rgn) (o : Nat) : Keeps r (State.dbgPeek s k rg o).s := by
  unfold State.dbgPeek
  repeat' (first | with_reducible assumption | with_reducible apply keeps_dbgSample | split)

theorem keeps_dbgWindow {s : State} (h : Keeps r s) (k : Nat) (rg : Rgn) (a : DAcc) : Keeps r (State.dbgWindow s k rg a).s := by
  unfold State.dbgWindow
  repeat' (first | with_reducible assumption | with_reducible apply keeps_err | with_reducible apply keeps_dbgPeek | with_reducible apply keeps_dbgSample | with_reducible apply keeps_dbgMemRead | with_reducible apply keeps_ectlLoad | with_reducible apply keeps_stimWrite | with_reducible apply keeps_ectlStore | with_reducible apply keeps_tctlLoad | with_reducible apply keeps_ite | with_reducible apply keeps_getD | extract_lets +onlyGivenNames x | intro _ | split | refine keeps_trainCtlWrite_some (by assumption) ?_ | (intro e; refine keeps_trainCtlWrite_some e ?_))

theorem keeps_dbgEngine {s : State} (h : Keeps r s) (a : DAcc) : Keeps r (State.dbgEngine s a).s := by
  unfold State.dbgEngine
  repeat' (first | with_reducible assumption | with_reducible apply keeps_err | with_reducible apply keeps_dbgMem | with_reducible apply keeps_dbgWindow | extract_lets +onlyGivenNames x | split)

theorem keeps_dbgContext {s : State} (h : Keeps r s) (a : DAcc) : Keeps r (State.dbgContext s a).s := by
  unfold State.dbgContext
  repeat' (first | with_reducible assumption | with_reducible apply keeps_err | with_reducible apply keeps_deny | with_reducible apply keeps_modCtx | split)

theorem keeps_dbgAccess {s : State} (h : Keeps r s) (a : DAcc) (timeout : Bool) : Keeps r (State.dbgAccess s a timeout).s := by
  unfold State.dbgAccess
  repeat' (first | with_reducible assumption | with_reducible apply keeps_deny | with_reducible apply keeps_err | with_reducible apply keeps_dbgHost | with_reducible apply keeps_dbgEngine | with_reducible apply keeps_dbgContext | split)

theorem keeps_dbgServe {s : State} (h : Keeps r s) (a : DAcc) (timeout : Bool) : Keeps r (State.dbgServe s a timeout).s := by
  unfold State.dbgServe
  repeat' (first | with_reducible assumption | with_reducible apply keeps_dbgAccess | exact ⟨rfl, rfl⟩ | intro _ | split | with_reducible apply keeps_mk)

theorem keeps_dbgDone {s : State} (h : Keeps r s) (a : DAcc) (timeout : Bool) : Keeps r (State.dbgDone s a timeout) := by
  unfold State.dbgDone
  repeat' (first | with_reducible assumption | with_reducible apply keeps_dbgServe | with_reducible apply keeps_modTap | with_reducible apply keeps_raiseInfo | with_reducible apply keeps_raiseLow | with_reducible apply keeps_ite)

end Sys2Proof.Machine
end

