-- ==== Sys2Proof/Laws/PerInstr.lean ====
section
/-! SUPPORT. The family Units: a well-formed command names only units that the largest variant has. -/

namespace Sys2Proof.Laws.Units

/-- A well-formed command names an engine below 72, a train below 8 and a fault window below 88, where it names one. -/
def Statement (i : Instr) : Prop :=
  i.wf = true → (∀ k, i.engine? = some k → k < 72) ∧ (∀ t, i.train? = some t → t < 8) ∧ (∀ w, i.window? = some w → w < 88)

/-- The check that wf makes of the units, once for every command. -/
theorem wf_units (i : Instr) : Statement i := by
  intro h
  simp only [Instr.wf, Bool.and_eq_true] at h
  obtain ⟨⟨⟨hk, ht⟩, hw⟩, _⟩ := h
  refine ⟨fun k e => ?_, fun t e => ?_, fun w e => ?_⟩
  · rw [e] at hk; simpa [below] using hk
  · rw [e] at ht; simpa [below] using ht
  · rw [e] at hw; simpa [below] using hw

/-- `lit`. -/
theorem lit (k : Nat) (s15 : BitVec 15) : Statement (.lit k s15) := wf_units _
/-- `litx`. -/
theorem litx (k : Nat) (u8 : BitVec 8) : Statement (.litx k u8) := wf_units _
/-- `ldk`. -/
theorem ldk (k : Nat) (u8 : BitVec 8) : Statement (.ldk k u8) := wf_units _
/-- `dup`. -/
theorem dup (k : Nat) : Statement (.dup k) := wf_units _
/-- `drop`. -/
theorem drop (k : Nat) : Statement (.drop k) := wf_units _
/-- `swap`. -/
theorem swap (k : Nat) : Statement (.swap k) := wf_units _
/-- `over`. -/
theorem overS (k : Nat) : Statement (.overS k) := wf_units _
/-- `nip`. -/
theorem nip (k : Nat) : Statement (.nip k) := wf_units _
/-- `tuck`. -/
theorem tuck (k : Nat) : Statement (.tuck k) := wf_units _
/-- `rot`. -/
theorem rot (k : Nat) : Statement (.rot k) := wf_units _
/-- `minusRot`. -/
theorem minusRot (k : Nat) : Statement (.minusRot k) := wf_units _
/-- `twoDup`. -/
theorem twoDup (k : Nat) : Statement (.twoDup k) := wf_units _
/-- `twoDrop`. -/
theorem twoDrop (k : Nat) : Statement (.twoDrop k) := wf_units _
/-- `twoSwap`. -/
theorem twoSwap (k : Nat) : Statement (.twoSwap k) := wf_units _
/-- `twoOver`. -/
theorem twoOver (k : Nat) : Statement (.twoOver k) := wf_units _
/-- `toR`. -/
theorem toR (k : Nat) : Statement (.toR k) := wf_units _
/-- `rFrom`. -/
theorem rFrom (k : Nat) : Statement (.rFrom k) := wf_units _
/-- `rFetch`. -/
theorem rFetch (k : Nat) : Statement (.rFetch k) := wf_units _
/-- `rdrop`. -/
theorem rdrop (k : Nat) : Statement (.rdrop k) := wf_units _
/-- `pick`. -/
theorem pick (k : Nat) (x : BitVec 5) : Statement (.pick k x) := wf_units _
/-- `poke`. -/
theorem poke (k : Nat) (x : BitVec 5) : Statement (.poke k x) := wf_units _
/-- `add`. -/
theorem add (k : Nat) : Statement (.add k) := wf_units _
/-- `adc`. -/
theorem adc (k : Nat) : Statement (.adc k) := wf_units _
/-- `sub`. -/
theorem sub (k : Nat) : Statement (.sub k) := wf_units _
/-- `sbc`. -/
theorem sbc (k : Nat) : Statement (.sbc k) := wf_units _
/-- `rsub`. -/
theorem rsub (k : Nat) : Statement (.rsub k) := wf_units _
/-- `neg`. -/
theorem neg (k : Nat) : Statement (.neg k) := wf_units _
/-- `cmp`. -/
theorem cmp (k : Nat) : Statement (.cmp k) := wf_units _
/-- `tst`. -/
theorem tst (k : Nat) : Statement (.tst k) := wf_units _
/-- `and`. -/
theorem and (k : Nat) : Statement (.and k) := wf_units _
/-- `or`. -/
theorem or (k : Nat) : Statement (.or k) := wf_units _
/-- `xor`. -/
theorem xor (k : Nat) : Statement (.xor k) := wf_units _
/-- `andn`. -/
theorem andn (k : Nat) : Statement (.andn k) := wf_units _
/-- `not`. -/
theorem not (k : Nat) : Statement (.not k) := wf_units _
/-- `inc`. -/
theorem inc (k : Nat) : Statement (.inc k) := wf_units _
/-- `dec`. -/
theorem dec (k : Nat) : Statement (.dec k) := wf_units _
/-- `min`. -/
theorem min (k : Nat) : Statement (.min k) := wf_units _
/-- `max`. -/
theorem max (k : Nat) : Statement (.max k) := wf_units _
/-- `minu`. -/
theorem minu (k : Nat) : Statement (.minu k) := wf_units _
/-- `maxu`. -/
theorem maxu (k : Nat) : Statement (.maxu k) := wf_units _
/-- `abs`. -/
theorem abs (k : Nat) : Statement (.abs k) := wf_units _
/-- `sel`. -/
theorem sel (k : Nat) : Statement (.sel k) := wf_units _
/-- `adds`. -/
theorem adds (k : Nat) : Statement (.adds k) := wf_units _
/-- `subs`. -/
theorem subs (k : Nat) : Statement (.subs k) := wf_units _
/-- `negs`. -/
theorem negs (k : Nat) : Statement (.negs k) := wf_units _
/-- `abss`. -/
theorem abss (k : Nat) : Statement (.abss k) := wf_units _
/-- `clamp`. -/
theorem clamp (k : Nat) : Statement (.clamp k) := wf_units _
/-- `shls`. -/
theorem shls (k : Nat) : Statement (.shls k) := wf_units _
/-- `shl`. -/
theorem shl (k : Nat) (a : ShAmt) : Statement (.shl k a) := wf_units _
/-- `shr`. -/
theorem shr (k : Nat) (a : ShAmt) : Statement (.shr k a) := wf_units _
/-- `sar`. -/
theorem sar (k : Nat) (a : ShAmt) : Statement (.sar k a) := wf_units _
/-- `ror`. -/
theorem ror (k : Nat) (a : ShAmt) : Statement (.ror k a) := wf_units _
/-- `sarr`. -/
theorem sarr (k : Nat) (a : ShAmt) : Statement (.sarr k a) := wf_units _
/-- `mul`. -/
theorem mul (k : Nat) : Statement (.mul k) := wf_units _
/-- `mulh`. -/
theorem mulh (k : Nat) : Statement (.mulh k) := wf_units _
/-- `mulhu`. -/
theorem mulhu (k : Nat) : Statement (.mulhu k) := wf_units _
/-- `muld`. -/
theorem muld (k : Nat) : Statement (.muld k) := wf_units _
/-- `muldu`. -/
theorem muldu (k : Nat) : Statement (.muldu k) := wf_units _
/-- `mulfr`. -/
theorem mulfr (k : Nat) : Statement (.mulfr k) := wf_units _
/-- `divs`. -/
theorem divs (k : Nat) (n : Nat) : Statement (.divs k n) := wf_units _
/-- `divu`. -/
theorem divu (k : Nat) (n : Nat) : Statement (.divu k n) := wf_units _
/-- `mac`. -/
theorem mac (k : Nat) : Statement (.mac k) := wf_units _
/-- `msu`. -/
theorem msu (k : Nat) : Statement (.msu k) := wf_units _
/-- `mpy`. -/
theorem mpy (k : Nat) : Statement (.mpy k) := wf_units _
/-- `mack`. -/
theorem mack (k : Nat) : Statement (.mack k) := wf_units _
/-- `qclr`. -/
theorem qclr (k : Nat) : Statement (.qclr k) := wf_units _
/-- `qrd`. -/
theorem qrd (k : Nat) : Statement (.qrd k) := wf_units _
/-- `qrdc`. -/
theorem qrdc (k : Nat) : Statement (.qrdc k) := wf_units _
/-- `qsh`. -/
theorem qsh (k : Nat) : Statement (.qsh k) := wf_units _
/-- `qsat`. -/
theorem qsat (k : Nat) : Statement (.qsat k) := wf_units _
/-- `qldh`. -/
theorem qldh (k : Nat) : Statement (.qldh k) := wf_units _
/-- `qst`. -/
theorem qst (k : Nat) : Statement (.qst k) := wf_units _
/-- `qld`. -/
theorem qld (k : Nat) : Statement (.qld k) := wf_units _
/-- `xmac`. -/
theorem xmac (k : Nat) (n : Nat) : Statement (.xmac k n) := wf_units _
/-- `xmsu`. -/
theorem xmsu (k : Nat) (n : Nat) : Statement (.xmsu k n) := wf_units _
/-- `xmacr`. -/
theorem xmacr (k : Nat) (n : Nat) : Statement (.xmacr k n) := wf_units _
/-- `xsig`. -/
theorem xsig (k : Nat) (n : Nat) : Statement (.xsig k n) := wf_units _
/-- `bfx`. -/
theorem bfx (k : Nat) : Statement (.bfx k) := wf_units _
/-- `bfxs`. -/
theorem bfxs (k : Nat) : Statement (.bfxs k) := wf_units _
/-- `bfi`. -/
theorem bfi (k : Nat) : Statement (.bfi k) := wf_units _
/-- `clz`. -/
theorem clz (k : Nat) : Statement (.clz k) := wf_units _
/-- `cls`. -/
theorem cls (k : Nat) : Statement (.cls k) := wf_units _
/-- `popc`. -/
theorem popc (k : Nat) : Statement (.popc k) := wf_units _
/-- `brev`. -/
theorem brev (k : Nat) : Statement (.brev k) := wf_units _
/-- `perm`. -/
theorem perm (k : Nat) : Statement (.perm k) := wf_units _
/-- `loadViaA`. -/
theorem loadViaA (k : Nat) (an : BitVec 2) (width : BitVec 2) (sx : Bool) (upd : BitVec 3) : Statement (.loadViaA k an width sx upd) := wf_units _
/-- `storeViaA`. -/
theorem storeViaA (k : Nat) (an : BitVec 2) (width : BitVec 2) (upd : BitVec 3) : Statement (.storeViaA k an width upd) := wf_units _
/-- `loadWithOffset`. -/
theorem loadWithOffset (k : Nat) (an : BitVec 2) (u6 : BitVec 6) : Statement (.loadWithOffset k an u6) := wf_units _
/-- `storeWithOffset`. -/
theorem storeWithOffset (k : Nat) (an : BitVec 2) (u6 : BitVec 6) : Statement (.storeWithOffset k an u6) := wf_units _
/-- `auxPush`. -/
theorem auxPush (k : Nat) (r : BitVec 3) : Statement (.auxPush k r) := wf_units _
/-- `auxPop`. -/
theorem auxPop (k : Nat) (r : BitVec 3) : Statement (.auxPop k r) := wf_units _
/-- `auxExchange`. -/
theorem auxExchange (k : Nat) (r : BitVec 3) : Statement (.auxExchange k r) := wf_units _
/-- `jmp`. -/
theorem jmp (k : Nat) (s13 : BitVec 13) : Statement (.jmp k s13) := wf_units _
/-- `bcc`. -/
theorem bcc (k : Nat) (ccc : BitVec 3) (s10 : BitVec 10) : Statement (.bcc k ccc s10) := wf_units _
/-- `tz`. -/
theorem tz (k : Nat) (s10 : BitVec 10) : Statement (.tz k s10) := wf_units _
/-- `call`. -/
theorem call (k : Nat) (m : BitVec 3) (s10 : BitVec 10) : Statement (.call k m s10) := wf_units _
/-- `callt`. -/
theorem callt (k : Nat) (m : BitVec 3) : Statement (.callt k m) := wf_units _
/-- `jmpt`. -/
theorem jmpt (k : Nat) : Statement (.jmpt k) := wf_units _
/-- `ret`. -/
theorem ret (k : Nat) : Statement (.ret k) := wf_units _
/-- `nop`. -/
theorem nop (k : Nat) : Statement (.nop k) := wf_units _
/-- `reti`. -/
theorem reti (k : Nat) : Statement (.reti k) := wf_units _
/-- `yield`. -/
theorem yield (k : Nat) : Statement (.yield k) := wf_units _
/-- `wait`. -/
theorem wait (k : Nat) : Statement (.wait k) := wf_units _
/-- `sync`. -/
theorem sync (k : Nat) : Statement (.sync k) := wf_units _
/-- `lock`. -/
theorem lock (k : Nat) (n : BitVec 4) : Statement (.lock k n) := wf_units _
/-- `lockTrunc`. -/
theorem lockTrunc (k : Nat) : Statement (.lockTrunc k) := wf_units _
/-- `rep`. -/
theorem rep (k : Nat) : Statement (.rep k) := wf_units _
/-- `bkpt`. -/
theorem bkpt (k : Nat) (t : BitVec 4) : Statement (.bkpt k t) := wf_units _
/-- `trap`. -/
theorem trap (k : Nat) (n : BitVec 8) : Statement (.trap k n) := wf_units _
/-- `csrr`. -/
theorem csrr (k : Nat) (n : BitVec 8) : Statement (.csrr k n) := wf_units _
/-- `csrw`. -/
theorem csrw (k : Nat) (n : BitVec 8) : Statement (.csrw k n) := wf_units _
/-- `icinv`. -/
theorem icinv (k : Nat) : Statement (.icinv k) := wf_units _
/-- `mactRestart`. -/
theorem mactRestart (k : Nat) : Statement (.mactRestart k) := wf_units _
/-- `mactAbandon`. -/
theorem mactAbandon (k : Nat) : Statement (.mactAbandon k) := wf_units _
/-- `frec`. -/
theorem frec (k : Nat) : Statement (.frec k) := wf_units _
/-- `savem`. -/
theorem savem (k : Nat) (m : BitVec 8) : Statement (.savem k m) := wf_units _
/-- `loadm`. -/
theorem loadm (k : Nat) (m : BitVec 8) : Statement (.loadm k m) := wf_units _
/-- `move`. -/
theorem move (k : Nat) (wid : BitVec 2) (dir : Bool) (n : Nat) : Statement (.move k wid dir n) := wf_units _
/-- `fill`. -/
theorem fill (k : Nat) (wid : BitVec 2) (dir : Bool) (n : Nat) : Statement (.fill k wid dir n) := wf_units _
/-- `inl`. -/
theorem inl (k : Nat) (ch : BitVec 7) : Statement (.inl k ch) := wf_units _
/-- `inls`. -/
theorem inls (k : Nat) (ch : BitVec 7) : Statement (.inls k ch) := wf_units _
/-- `evtAck`. -/
theorem evtAck (k : Nat) (e : BitVec 5) : Statement (.evtAck k e) := wf_units _
/-- `evtPend`. -/
theorem evtPend (k : Nat) : Statement (.evtPend k) := wf_units _
/-- `mbPost`. -/
theorem mbPost (k : Nat) (m : BitVec 5) : Statement (.mbPost k m) := wf_units _
/-- `mbTake`. -/
theorem mbTake (k : Nat) (m : BitVec 5) : Statement (.mbTake k m) := wf_units _
/-- `evtHost`. -/
theorem evtHost (k : Nat) (e : BitVec 5) : Statement (.evtHost k e) := wf_units _
/-- `storeRetire`. -/
theorem storeRetire (k : Nat) : Statement (.storeRetire k) := wf_units _
/-- `fuseeBatch`. -/
theorem fuseeBatch (k : Nat) (op : FuseeOp) : Statement (.fuseeBatch k op) := wf_units _
/-- `icacheFill`. -/
theorem icacheFill (k : Nat) (addr : Word) (data : BitVec 256) (err : Bool) : Statement (.icacheFill k addr data err) := wf_units _
/-- `boundaryLoadResponse`. -/
theorem boundaryLoadResponse (k : Nat) (data : Word64) (err : Bool) : Statement (.boundaryLoadResponse k data err) := wf_units _
/-- `boundaryStoreError`. -/
theorem boundaryStoreError (k : Nat) : Statement (.boundaryStoreError k) := wf_units _
/-- `berrLate`. -/
theorem berrLate (k : Nat) : Statement (.berrLate k) := wf_units _
/-- `eventEntry`. -/
theorem eventEntry (k : Nat) : Statement (.eventEntry k) := wf_units _
/-- `budget`. -/
theorem budget (k : Nat) : Statement (.budget k) := wf_units _
/-- `wdog`. -/
theorem wdog (gen : Bool) (lctx : Nat) : Statement (.wdog gen lctx) := wf_units _
/-- `terminalEntry`. -/
theorem terminalEntry (k : Nat) : Statement (.terminalEntry k) := wf_units _
/-- `stopRequest`. -/
theorem stopRequest (k : Nat) : Statement (.stopRequest k) := wf_units _
/-- `contextStop`. -/
theorem contextStop (k : Nat) : Statement (.contextStop k) := wf_units _
/-- `hang`. -/
theorem hang (k : Nat) : Statement (.hang k) := wf_units _
/-- `periodEvent`. -/
theorem periodEvent (p : Nat) : Statement (.periodEvent p) := wf_units _
/-- `deadbeatRelease`. -/
theorem deadbeatRelease (gen : Bool) (lctx : Nat) : Statement (.deadbeatRelease gen lctx) := wf_units _
/-- `releaseLate`. -/
theorem releaseLate (k : Nat) : Statement (.releaseLate k) := wf_units _
/-- `freeRelease`. -/
theorem freeRelease (gen : Bool) (lctx : Nat) : Statement (.freeRelease gen lctx) := wf_units _
/-- `eventRelease`. -/
theorem eventRelease (t : Nat) (p : Nat) : Statement (.eventRelease t p) := wf_units _
/-- `commitTick`. -/
theorem commitTick (g : Nat) : Statement (.commitTick g) := wf_units _
/-- `sampleRecord`. -/
theorem sampleRecord (lane : Nat) (rec : Word64) : Statement (.sampleRecord lane rec) := wf_units _
/-- `sampleMiss`. -/
theorem sampleMiss (ch : Nat) : Statement (.sampleMiss ch) := wf_units _
/-- `select`. -/
theorem select (c : Nat) (gain : BitVec 3) (filt : BitVec 3) (sch : BitVec 7) (input : BitVec 7) (tag : BitVec 8) : Statement (.select c gain filt sch input tag) := wf_units _
/-- `inject`. -/
theorem inject (c : Nat) (sch : BitVec 7) (input : BitVec 7) (tag : BitVec 8) : Statement (.inject c sch input tag) := wf_units _
/-- `calibrate`. -/
theorem calibrate (c : Nat) (tag : BitVec 8) : Statement (.calibrate c tag) := wf_units _
/-- `cvcAccepted`. -/
theorem cvcAccepted (c : Nat) : Statement (.cvcAccepted c) := wf_units _
/-- `cvcDeferred`. -/
theorem cvcDeferred (c : Nat) : Statement (.cvcDeferred c) := wf_units _
/-- `cvcDone`. -/
theorem cvcDone (c : Nat) : Statement (.cvcDone c) := wf_units _
/-- `cvcError`. -/
theorem cvcError (c : Nat) : Statement (.cvcError c) := wf_units _
/-- `tripInput`. -/
theorem tripInput (n : Nat) (st : BitVec 2) : Statement (.tripInput n st) := wf_units _
/-- `tripBlank`. -/
theorem tripBlank (n : Nat) (level : Bool) : Statement (.tripBlank n level) := wf_units _
/-- `trpClr`. -/
theorem trpClr (hi : Bool) (v : Word) (a : HAcc) : Statement (.trpClr hi v a) := wf_units _
/-- `hostEventInput`. -/
theorem hostEventInput (kind : EvtLine) (line : Nat) : Statement (.hostEventInput kind line) := wf_units _
/-- `fwForce`. -/
theorem fwForce (w : Nat) (v : Word) (a : HAcc) : Statement (.fwForce w v a) := wf_units _
/-- `chkf`. -/
theorem chkf (v : Word) (a : HAcc) : Statement (.chkf v a) := wf_units _
/-- `configIntegError`. -/
theorem configIntegError (w : Nat) : Statement (.configIntegError w) := wf_units _
/-- `parityError`. -/
theorem parityError (u : ParUnit) : Statement (.parityError u) := wf_units _
/-- `quenchClose`. -/
theorem quenchClose (i : Nat) : Statement (.quenchClose i) := wf_units _
/-- `substitutionHandover`. -/
theorem substitutionHandover (t : Nat) : Statement (.substitutionHandover t) := wf_units _
/-- `rotationStep`. -/
theorem rotationStep (t : Nat) : Statement (.rotationStep t) := wf_units _
/-- `migration`. -/
theorem migration (t : Nat) (gen : Bool) (lctx : Nat) : Statement (.migration t gen lctx) := wf_units _
/-- `rotLate`. -/
theorem rotLate (t : Nat) : Statement (.rotLate t) := wf_units _
/-- `testComplete`. -/
theorem testComplete (k : Nat) (r : TestResult) : Statement (.testComplete k r) := wf_units _
/-- `retest`. -/
theorem retest (t : Nat) (v : Word) (a : HAcc) : Statement (.retest t v a) := wf_units _
/-- `standbyTest`. -/
theorem standbyTest (k : Nat) : Statement (.standbyTest k) := wf_units _
/-- `paceWindow`. -/
theorem paceWindow (t : Nat) (n : Nat) (n2 : Nat) : Statement (.paceWindow t n n2) := wf_units _
/-- `vblkLow`. -/
theorem vblkLow (mv : Nat) : Statement (.vblkLow mv) := wf_units _
/-- `railOor`. -/
theorem railOor (t : Nat) (mv : Nat) : Statement (.railOor t mv) := wf_units _
/-- `retOor`. -/
theorem retOor : Statement (.retOor) := wf_units _
/-- `refclkLoss`. -/
theorem refclkLoss : Statement (.refclkLoss) := wf_units _
/-- `sweepLine`. -/
theorem sweepLine (t : Nat) (area : BitVec 5) (line : Nat) (r : SweepResult) : Statement (.sweepLine t area line r) := wf_units _
/-- `eccChk`. -/
theorem eccChk (t : Nat) (area : BitVec 5) (bank : Nat) (ok : Bool) : Statement (.eccChk t area bank ok) := wf_units _
/-- `strCmd`. -/
theorem strCmd (t : Nat) (v : Word) (a : HAcc) : Statement (.strCmd t v a) := wf_units _
/-- `streamerChunk`. -/
theorem streamerChunk (t : Nat) (q : Nat) (r : ChunkResponse) : Statement (.streamerChunk t q r) := wf_units _
/-- `strQstop`. -/
theorem strQstop (t : Nat) (v : Word) (a : HAcc) : Statement (.strQstop t v a) := wf_units _
/-- `tamper`. -/
theorem tamper : Statement (.tamper) := wf_units _
/-- `sealWipe`. -/
theorem sealWipe : Statement (.sealWipe) := wf_units _
/-- `powerOn`. -/
theorem powerOn (mv : Nat) : Statement (.powerOn mv) := wf_units _
/-- `blockReset`. -/
theorem blockReset : Statement (.blockReset) := wf_units _
/-- `retentionEntry`. -/
theorem retentionEntry (a : HAcc) : Statement (.retentionEntry a) := wf_units _
/-- `retained`. -/
theorem retained : Statement (.retained) := wf_units _
/-- `retentionWake`. -/
theorem retentionWake (a : HAcc) : Statement (.retentionWake a) := wf_units _
/-- `wakeComplete`. -/
theorem wakeComplete : Statement (.wakeComplete) := wf_units _
/-- `progKey`. -/
theorem progKey (unlock : BitVec 16) (a : HAcc) : Statement (.progKey unlock a) := wf_units _
/-- `toDevelop`. -/
theorem toDevelop (unlock : BitVec 16) (a : HAcc) : Statement (.toDevelop unlock a) := wf_units _
/-- `toSecured`. -/
theorem toSecured (unlock : BitVec 16) (a : HAcc) : Statement (.toSecured unlock a) := wf_units _
/-- `toReturned`. -/
theorem toReturned (unlock : BitVec 16) (token : List Byte) (a : HAcc) : Statement (.toReturned unlock token a) := wf_units _
/-- `toScrapped`. -/
theorem toScrapped (unlock : BitVec 16) (a : HAcc) : Statement (.toScrapped unlock a) := wf_units _
/-- `fuseProgrammed`. -/
theorem fuseProgrammed (time : Word64) : Statement (.fuseProgrammed time) := wf_units _
/-- `check`. -/
theorem check (a : HAcc) : Statement (.check a) := wf_units _
/-- `load`. -/
theorem load (slot : Bool) (a : HAcc) : Statement (.load slot a) := wf_units _
/-- `abort`. -/
theorem abort (a : HAcc) : Statement (.abort a) := wf_units _
/-- `discard`. -/
theorem discard (slot : Bool) (a : HAcc) : Statement (.discard slot a) := wf_units _
/-- `start`. -/
theorem start (slot : Bool) (a : HAcc) : Statement (.start slot a) := wf_units _
/-- `admission`. -/
theorem admission (img : List Byte) (err : Option Nat) : Statement (.admission img err) := wf_units _
/-- `serviceTick`. -/
theorem serviceTick : Statement (.serviceTick) := wf_units _
/-- `switch`. -/
theorem switch (set : BitVec 6) (a : HAcc) : Statement (.switch set a) := wf_units _
/-- `revert`. -/
theorem revert (set : BitVec 6) (a : HAcc) : Statement (.revert set a) := wf_units _
/-- `cancel`. -/
theorem cancel (a : HAcc) : Statement (.cancel a) := wf_units _
/-- `complete`. -/
theorem complete (a : HAcc) : Statement (.complete a) := wf_units _
/-- `setSwitch`. -/
theorem setSwitch : Statement (.setSwitch) := wf_units _
/-- `rmtGstatEsc`. -/
theorem rmtGstatEsc (g : Nat) (a : HAcc) : Statement (.rmtGstatEsc g a) := wf_units _
/-- `dialSel`. -/
theorem dialSel (n : Nat) (v : Word) (a : HAcc) : Statement (.dialSel n v a) := wf_units _
/-- `dialSeq`. -/
theorem dialSeq (n : Nat) : Statement (.dialSeq n) := wf_units _
/-- `fwCap`. -/
theorem fwCap (w : Nat) : Statement (.fwCap w) := wf_units _
/-- `fwCnt`. -/
theorem fwCnt (w : Nat) : Statement (.fwCnt w) := wf_units _
/-- `swpStat`. -/
theorem swpStat (t : Nat) : Statement (.swpStat t) := wf_units _
/-- `escLate`. -/
theorem escLate : Statement (.escLate) := wf_units _
/-- `blwPace`. -/
theorem blwPace (t : Nat) : Statement (.blwPace t) := wf_units _
/-- `dbgSkiprel`. -/
theorem dbgSkiprel (k : Nat) : Statement (.dbgSkiprel k) := wf_units _
/-- `trcRdata`. -/
theorem trcRdata : Statement (.trcRdata) := wf_units _
/-- `lnkCtl`. -/
theorem lnkCtl (v : Word) (a : HAcc) : Statement (.lnkCtl v a) := wf_units _
/-- `hostRegWrite`. -/
theorem hostRegWrite (off : Nat) (v : Word) (a : HAcc) : Statement (.hostRegWrite off v a) := wf_units _
/-- `hostWindowAccess`. -/
theorem hostWindowAccess (off : Nat) (wr : Bool) (strb : BitVec 16) (data : BitVec 128) (a : WinAcc) (size : Nat) : Statement (.hostWindowAccess off wr strb data a size) := wf_units _
/-- `hostWindowTimeout`. -/
theorem hostWindowTimeout : Statement (.hostWindowTimeout) := wf_units _
/-- `idcode`. -/
theorem idcode : Statement (.idcode) := wf_units _
/-- `bypass`. -/
theorem bypass : Statement (.bypass) := wf_units _
/-- `daddr`. -/
theorem daddr (v : BitVec 34) : Statement (.daddr v) := wf_units _
/-- `ddata`. -/
theorem ddata (v : BitVec 34) : Statement (.ddata v) := wf_units _
/-- `debugAccessDone`. -/
theorem debugAccessDone (timeout : Bool) : Statement (.debugAccessDone timeout) := wf_units _
/-- `tapReset`. -/
theorem tapReset : Statement (.tapReset) := wf_units _
/-- `halt`. -/
theorem halt (k : Nat) (a : HAcc) : Statement (.halt k a) := wf_units _
/-- `haltTake`. -/
theorem haltTake (k : Nat) : Statement (.haltTake k) := wf_units _
/-- `resume`. -/
theorem resume (k : Nat) (a : HAcc) : Statement (.resume k a) := wf_units _
/-- `step`. -/
theorem step (k : Nat) (a : HAcc) : Statement (.step k a) := wf_units _
/-- `stim`. -/
theorem stim (p : Nat) (v : Word) (a : HAcc) : Statement (.stim p v a) := wf_units _
/-- `traceSync`. -/
theorem traceSync : Statement (.traceSync) := wf_units _
/-- `linkTxFrame`. -/
theorem linkTxFrame : Statement (.linkTxFrame) := wf_units _
/-- `linkRxFrame`. -/
theorem linkRxFrame (words : List Word64) : Statement (.linkRxFrame words) := wf_units _
/-- `lnkLoss`. -/
theorem lnkLoss : Statement (.lnkLoss) := wf_units _
/-- `boundaryStoreResponse`. -/
theorem boundaryStoreResponse (k : Nat) : Statement (.boundaryStoreResponse k) := wf_units _
/-- `undefinedEncoding`. -/
theorem undefinedEncoding (k : Nat) (w : BitVec 16) : Statement (.undefinedEncoding k w) := wf_units _
/-- `resetRelease`. -/
theorem resetRelease (time : Word64) : Statement (.resetRelease time) := wf_units _
/-- `powerOnResetHold`. -/
theorem powerOnResetHold (mv : Nat) : Statement (.powerOnResetHold mv) := wf_units _
/-- `masterCopyLoad`. -/
theorem masterCopyLoad (t : Nat) : Statement (.masterCopyLoad t) := wf_units _
/-- `tracePortDrain`. -/
theorem tracePortDrain : Statement (.tracePortDrain) := wf_units _

end Sys2Proof.Laws.Units
end

