-- ==== Sys2Proof/Laws/Run.lean ====
section
/-! SUPPORT. What running one instruction does, said once: `runInstr` on an engine that executes, and each way its body can end. -/

namespace Sys2Proof.Machine
variable {s s1 : State} {k : Nat}

/-! ### The debugger stays out -/

/-- An engine without enabled comparators matches none. -/
theorem undebugged_matches {e : Engine} (h : e.undebugged = true) (w : Who) {i : Nat} (hi : i < 4) (x st : Bool) (a n : Nat)
    (v : List Word) : e.dbg.matches w i x st a n v = false := by
  simp only [Engine.undebugged, Bool.and_eq_true, List.all_eq_true, List.mem_range] at h
  have := h.2 i hi
  simp only [Bool.not_eq_true'] at this
  simp only [EDbg.matches, ACmp.hits, this, Bool.false_and, Bool.and_false]

/-- No comparator halts the engine. -/
theorem undebugged_haltMatch {e : Engine} (h : e.undebugged = true) (w : Who) (x st : Bool) (a n : Nat) (v : List Word) :
    e.dbg.haltMatch w x st a n v = none := by
  simp only [EDbg.haltMatch, List.find?_eq_none, List.mem_range]
  intro i hi
  simp [undebugged_matches h w hi]

/-- No comparator acts on an access. -/
theorem watch_undebugged {w : Who} (h : (s.engAt w.k).undebugged = true) (x st : Bool) (a n : Nat) (v : List Word) :
    s.watch w x st a n v = s := by
  have step : ∀ i, i < 4 → (s.engAt w.k).dbg.matches w i x st a n v = false := fun i hi => undebugged_matches h w hi x st a n v
  simp [State.watch, List.range, List.range.loop, step]

/-- A data access of an engine without comparators is only itself. -/
theorem watchData_undebugged {w : Who} (h : (s.engAt w.k).undebugged = true) (st : Bool) (a n : Nat) (v : List Word) :
    s.watchData w st a n v = s := by
  simp [State.watchData, watch_undebugged h, undebugged_haltMatch h]

/-! ### The fetch -/

/-- A report without a reaction changes fault windows and the count of free values only. -/
theorem raiseInfo_same (s : State) (ev : Ev) : ∃ f n, s.raiseInfo ev = { s with fw := f, freeCtr := n } := by
  refine ⟨(s.raiseInfo ev).fw, (s.raiseInfo ev).freeCtr, ?_⟩
  unfold State.raiseInfo
  split
  · unfold State.record State.modFw
    by_cases h : (ev.arg.isNone && !ev.forced && !(s.fwAt ev.w).capValid) = true <;> simp only [h] <;> rfl
  · rfl

/-- A corrected word changes fault windows and the count of free values only. -/
theorem noteWord_same (s : State) (a : Nat) : ∃ f n, s.noteWord a = { s with fw := f, freeCtr := n } := by
  unfold State.noteWord State.draw
  split
  · dsimp only
    split
    · obtain ⟨f, n, h⟩ := raiseInfo_same { s with freeCtr := s.freeCtr + 1 }
        { w := _, src := 0, addr := Config.freeWord s.freeCtr }
      obtain ⟨f', n', h'⟩ := raiseInfo_same { s with fw := f, freeCtr := n } { w := _, src := 0, addr := Config.freeWord s.freeCtr }
      exact ⟨f', n', by rw [h]; exact h'⟩
    · obtain ⟨f, n, h⟩ := raiseInfo_same { s with freeCtr := s.freeCtr + 1 }
        { w := _, src := 0, addr := Config.freeWord s.freeCtr }
      exact ⟨f, n, h⟩
  · exact ⟨s.fw, s.freeCtr, rfl⟩

/-- What the fetch touches outside the sequential fetch: the order of the instruction cache, or the report of a corrected word. -/
theorem touchLine_cases (s : State) (k : Nat) (c : Ctx) :
    (∃ f n, s.touchLine k c = { s with fw := f, freeCtr := n }) ∨
    ∃ l : List ICLine → List ICLine, s.touchLine k c = s.modEng k (fun e => { e with icache := l e.icache }) := by
  have same : ∃ f n, s = { s with fw := f, freeCtr := n } := ⟨s.fw, s.freeCtr, rfl⟩
  unfold State.touchLine
  split
  · exact .inr ⟨fun i => _ :: i.filter (fun x => x.addr != _), rfl⟩
  · exact .inr ⟨fun i => _ :: i.filter (fun x => x.addr != _), rfl⟩
  · split
    · exact .inl (noteWord_same _ _)
    · exact .inl same
  · exact .inl same

/-- A property of an engine that neither the instruction cache nor the sequential fetch enters holds after the fetch as before. -/
theorem engAt_fetched {α : Type} (f : Engine → α) (hf : ∀ e l x, f { e with icache := l, fetch := x } = f e) (s : State) (k j : Nat) :
    f ((s.fetched k).engAt j) = f (s.engAt j) := by
  have hi : ∀ e (p : Nat), f (e.issue p) = f e := fun e p => hf e e.icache _
  have hl : ∀ (e : Engine) l, f { e with icache := l } = f e := fun e l => hf e l e.fetch
  unfold State.fetched
  by_cases hj : j = k
  · subst hj
    rw [engAt_modEng, hi]
    rcases touchLine_cases s j (s.bank j) with ⟨x, n, h⟩ | ⟨l, h⟩
    · rw [h]; rfl
    · rw [h]; simp [hl]
  · rw [engAt_modEng_ne _ _ _ _ hj]
    rcases touchLine_cases s k (s.bank k) with ⟨x, n, h⟩ | ⟨l, h⟩
    · rw [h]; rfl
    · rw [h]; simp [engAt_modEng_ne, hj]

@[simp] theorem fetched_ctxAt (id : Nat) : (s.fetched k).ctxAt id = s.ctxAt id := by
  unfold State.fetched
  rcases touchLine_cases s k (s.bank k) with ⟨_, _, h⟩ | ⟨l, h⟩ <;> rw [h] <;> rfl
@[simp] theorem fetched_run (j : Nat) : ((s.fetched k).engAt j).run = (s.engAt j).run := engAt_fetched (·.run) (fun _ _ _ => rfl) s k j
@[simp] theorem fetched_st (j : Nat) : ((s.fetched k).engAt j).st = (s.engAt j).st := engAt_fetched (·.st) (fun _ _ _ => rfl) s k j
@[simp] theorem fetched_lock (j : Nat) : ((s.fetched k).engAt j).lock = (s.engAt j).lock := engAt_fetched (·.lock) (fun _ _ _ => rfl) s k j
@[simp] theorem fetched_dbg (j : Nat) : ((s.fetched k).engAt j).dbg = (s.engAt j).dbg := engAt_fetched (·.dbg) (fun _ _ _ => rfl) s k j
@[simp] theorem fetched_mb (j : Nat) : ((s.fetched k).engAt j).mb = (s.engAt j).mb := engAt_fetched (·.mb) (fun _ _ _ => rfl) s k j
@[simp] theorem fetched_sbuf (j : Nat) : ((s.fetched k).engAt j).sbuf = (s.engAt j).sbuf := engAt_fetched (·.sbuf) (fun _ _ _ => rfl) s k j
@[simp] theorem fetched_bq (j : Nat) : ((s.fetched k).engAt j).bq = (s.engAt j).bq := engAt_fetched (·.bq) (fun _ _ _ => rfl) s k j
@[simp] theorem fetched_lb (j : Nat) : ((s.fetched k).engAt j).lb = (s.engAt j).lb := engAt_fetched (·.lb) (fun _ _ _ => rfl) s k j
@[simp] theorem fetched_spillRgn (j : Nat) : ((s.fetched k).engAt j).spillRgn = (s.engAt j).spillRgn :=
  engAt_fetched (·.spillRgn) (fun _ _ _ => rfl) s k j
@[simp] theorem fetched_undebugged (j : Nat) : ((s.fetched k).engAt j).undebugged = (s.engAt j).undebugged :=
  engAt_fetched (·.undebugged) (fun _ _ _ => rfl) s k j

@[simp] theorem fetched_whoCtx (j slot : Nat) : (s.fetched k).whoCtx j slot = s.whoCtx j slot := by
  unfold State.fetched
  rcases touchLine_cases s k (s.bank k) with ⟨_, _, h⟩ | ⟨l, h⟩ <;> rw [h] <;> rfl

/-- Nothing but the engines and the report of a corrected word differs after the fetch. -/
theorem fetched_rest : { s.fetched k with eng := [], fw := [], freeCtr := 0 } = { s with eng := [], fw := [], freeCtr := 0 } := by
  unfold State.fetched
  rcases touchLine_cases s k (s.bank k) with ⟨_, _, h⟩ | ⟨l, h⟩ <;> rw [h] <;> rfl

/-- The bank in use is the same after the fetch. -/
@[simp] theorem fetched_bank : (s.fetched k).bank k = s.bank k := by
  unfold State.bank; simp

/-- What executes is the same after the fetch. -/
@[simp] theorem fetched_who : (s.fetched k).who k = s.who k := by
  unfold State.who
  simp only [fetched_run, fetched_whoCtx]

@[simp] theorem who_k (s : State) (k : Nat) : (s.who k).k = k := by
  unfold State.who; split <;> rfl

/-! ### One instruction -/

/-- On an engine that executes, the command is its body between fetch and `finish`. -/
theorem runInstr_ready (r : Ready s k) {w : BitVec 16} {ok : Bool} (hl : ok = true ∨ s.unlocked k) (body : Body) :
    runInstr k w ok body s =
      .next (finish k w (s.isSecond k (s.bank k) w false) (body (s.fetched k) (s.who k) (s.bank k))) := by
  have hd : ((s.fetched k).engAt k).undebugged = true := by simpa using r.plain
  have hit : (List.range 4).any (fun i => ((s.fetched k).engAt k).dbg.matches (s.who k) i true false (s.bank k).pc.toNat 1
      [(s.bank k).t]) = false := by
    simp only [List.any_eq_false, List.mem_range]
    intro i hi
    rw [undebugged_matches hd (s.who k) hi]
    exact Bool.false_ne_true
  have hlk : ¬ (((s.fetched k).engAt k).lock ≠ 0 ∧ (!ok) = true) := by
    rintro ⟨h1, h2⟩
    rcases hl with h | h
    · simp [h] at h2
    · exact h1 (by rw [fetched_lock]; exact h)
  have hs : (s.fetched k).isSecond k (s.bank k) w false = s.isSecond k (s.bank k) w false := by
    have hp := engAt_fetched (fun e => (e.pair, e.lb)) (fun _ _ _ => rfl) s k k
    simp only [Prod.mk.injEq] at hp
    unfold State.isSecond
    simp only [hp.1, hp.2]
  simp only [runInstr, r.present, r.runs, r.issues, Bool.not_true, Bool.false_eq_true, if_false]
  unfold State.execute
  have hfe : (s.touchLine k (s.bank k)).modEng k (fun e => e.issue (s.bank k).pc.toNat) = s.fetched k := rfl
  simp only [hfe]
  simp only [fetched_who, hit, hs, undebugged_haltMatch hd, Option.isSome_none, Bool.false_eq_true, false_and, if_false]
  rw [if_neg hlk]
  unfold eccGate
  rw [if_pos r.sound]

/-- The bank in use of a state whose engine `k` runs the same code is that of the engine or of the context. -/
theorem bank_eq (s : State) (k : Nat) : s.bank k = (match (s.engAt k).run with
    | .ctx slot => s.ctxAt (ctxId k slot)
    | _ => (s.engAt k).mb) := rfl

/-- The bank is written in place and nothing else. -/
theorem settled_setBank (c1 : Ctx) (hp : (s1.engAt k).run ≠ .parked) : Settled s1 k c1 0 (s1.setBank k c1) := by
  cases hr : (s1.engAt k).run with
  | parked => exact absurd hr hp
  | ctx slot =>
    have e0 : s1.setBank k c1 = s1.setCtx (ctxId k slot) c1 := by simp [State.setBank, hr]
    rw [e0]
    refine ⟨?_, ?_, ?_, rfl, fun _ _ => rfl, rfl⟩
    · intro sl h
      obtain rfl : slot = sl := by simpa using hr.symm.trans h
      simp
    · intro x h; rw [hr] at h; cases h
    · intro id h
      exact ctxAt_setCtx_ne _ _ _ _ (fun he => h (by simp [State.ctxOn, hr, he]))
  | mach x =>
    have e0 : s1.setBank k c1 = s1.modEng k (fun e => { e with mb := c1 }) := by simp [State.setBank, hr]
    rw [e0]
    refine ⟨?_, ?_, fun _ _ => rfl, ?_, ?_, rfl⟩
    · intro sl h; rw [hr] at h; cases h
    · intro y _
      exact ⟨by simp, fun slot _ => by simp⟩
    · simp [Engine.lasting]
    · intro j hj; simp [engAt_modEng_ne, hj]

/-- An update of the engine that its lasting part and its Machine bank do not see. -/
theorem Settled.modEng {c1 : Ctx} {n : Nat} {t : State} (h : Settled s1 k c1 n t) (f : Engine → Engine)
    (hf : ∀ e, (f e).mb = e.mb ∧ (f e).lasting = e.lasting) : Settled s1 k c1 n (t.modEng k f) := by
  refine ⟨?_, ?_, h.contexts, ?_, ?_, h.rest⟩
  · intro slot hr
    have := h.inContext slot hr
    exact ⟨this.1, by rw [engAt_modEng, (hf _).1]; exact this.2⟩
  · intro x hr
    have := h.atMachine x hr
    exact ⟨by rw [engAt_modEng, (hf _).1]; exact this.1, this.2⟩
  · rw [engAt_modEng, (hf _).2]; exact h.engine
  · intro j hj; rw [engAt_modEng_ne _ _ _ _ hj]; exact h.engines j hj

/-- The code that runs is part of what lasts. -/
theorem Settled.run {c1 : Ctx} {n : Nat} {t : State} (h : Settled s1 k c1 n t) : (t.engAt k).run = (s1.engAt k).run := by
  have := congrArg Engine.run h.engine
  exact this

/-- Beats are counted. -/
theorem Settled.addBeats {c1 : Ctx} {t : State} (h : Settled s1 k c1 0 t) (n : Nat) : Settled s1 k c1 n (t.addBeats k n) := by
  have ht := h.run
  cases hr : (s1.engAt k).run with
  | parked =>
    rw [hr] at ht
    have e : t.addBeats k n = t := by simp [State.addBeats, State.ctxOn, ht]
    rw [e]
    exact ⟨fun _ h1 => by rw [hr] at h1; (cases h1), fun _ h1 => by rw [hr] at h1; (cases h1), h.contexts, h.engine, h.engines, h.rest⟩
  | ctx slot =>
    rw [hr] at ht
    have e : t.addBeats k n = t.modCtx (ctxId k slot) (fun c => { c with beats := c.beats + n }) := by
      simp [State.addBeats, State.ctxOn, ht]
    rw [e]
    refine ⟨?_, fun _ h1 => by rw [hr] at h1; (cases h1), ?_, h.engine, h.engines, h.rest⟩
    · intro sl h1
      obtain rfl : slot = sl := by simpa using hr.symm.trans h1
      have := h.inContext slot hr
      exact ⟨by rw [ctxAt_modCtx, this.1]; rfl, this.2⟩
    · intro id hid
      rw [ctxAt_modCtx_ne _ _ _ _ (fun he => hid (by simp [State.ctxOn, hr, he]))]
      exact h.contexts id hid
  | mach x =>
    rw [hr] at ht
    cases x with
    | none =>
      have e : t.addBeats k n = t := by simp [State.addBeats, State.ctxOn, ht]
      rw [e]
      refine ⟨fun _ h1 => by rw [hr] at h1; (cases h1), ?_, h.contexts, h.engine, h.engines, h.rest⟩
      intro y hy
      rw [hr] at hy; cases hy
      exact ⟨(h.atMachine none hr).1, fun _ hs => by cases hs⟩
    | some slot =>
      have e : t.addBeats k n = t.modCtx (ctxId k slot) (fun c => { c with beats := c.beats + n }) := by
        simp [State.addBeats, State.ctxOn, ht]
      rw [e]
      refine ⟨fun _ h1 => by rw [hr] at h1; (cases h1), ?_, ?_, h.engine, h.engines, h.rest⟩
      · intro y hy
        rw [hr] at hy; cases hy
        have := h.atMachine (some slot) hr
        refine ⟨this.1, fun sl hs => ?_⟩
        cases hs
        rw [ctxAt_modCtx, this.2 slot rfl]; rfl
      · intro id hid
        rw [ctxAt_modCtx_ne _ _ _ _ (fun he => hid (by simp [State.ctxOn, hr, he]))]
        exact h.contexts id hid

/-! ### Beats at the ports -/

theorem untimed_beat (db : Bool) (b : Beat) (e : SBE) : (e.beat db b).untimed = e.untimed := by
  unfold SBE.beat
  repeat' split
  all_goals rfl

/-- Beats move only the progress of store-buffer entries. -/
theorem untimed_sbBeat (db : Bool) (b : Beat) (l : List SBE) : (sbBeat db b l).map SBE.untimed = l.map SBE.untimed := by
  induction l with
  | nil => rfl
  | cons e r ih =>
    unfold sbBeat
    split
    · simp [ih]
    · have hw : (r.map (fun x => { x with wait := x.wait - 1 })).map SBE.untimed = r.map SBE.untimed := by
        rw [List.map_map]; rfl
      rw [List.map_cons, List.map_cons, hw]
      split
      · rw [untimed_beat]
      · rfl

/-- What beats leave of an engine. -/
theorem beats_keep (db : Bool) (l : List Beat) (e : Engine) :
    let x := l.foldl (fun e b => e.beat db b) e
    x.mb = e.mb ∧ x.lasting = e.lasting ∧ x.lock = e.lock ∧ x.lockBeats = e.lockBeats ∧ x.dbg = e.dbg := by
  induction l generalizing e with
  | nil => exact ⟨rfl, rfl, rfl, rfl, rfl⟩
  | cons b r ih =>
    have h := ih (e.beat db b)
    have hl : (e.beat db b).lasting = e.lasting := by
      simp only [Engine.lasting, Engine.beat, untimed_sbBeat]
    exact ⟨h.1, h.2.1.trans hl, h.2.2.1, h.2.2.2.1, h.2.2.2.2⟩

theorem Settled.pass {c1 : Ctx} {n : Nat} {t : State} (h : Settled s1 k c1 n t) (l : List Beat) : Settled s1 k c1 n (t.pass k l) :=
  h.modEng _ (fun e => ⟨(beats_keep _ l e).1, (beats_keep _ l e).2.1⟩)

/-- No debugger step ends. -/
theorem endStep_plain (h : (s.engAt k).dbg.stepping = false) : s.endStep k = s := by
  simp [State.endStep, h]

/-- `setBank` and `addBeats` leave every engine but for the Machine bank. -/
theorem engAt_setBank_stepping (c : Ctx) : ((s.setBank k c).engAt k).dbg.stepping = (s.engAt k).dbg.stepping := by
  unfold State.setBank; split <;> simp

theorem engAt_addBeats (n j : Nat) : (s.addBeats k n).engAt j = s.engAt j := by
  unfold State.addBeats; split <;> simp

theorem engAt_setBank (c : Ctx) (α : Type) (g : Engine → α) (hg : ∀ e m, g { e with mb := m } = g e) (j : Nat) :
    g ((s.setBank k c).engAt j) = g (s.engAt j) := by
  unfold State.setBank
  split
  · simp
  · by_cases hj : j = k
    · subst hj; simp [hg]
    · simp [engAt_modEng_ne, hj]

/-- The beats charged to an instruction of cost `cost`. -/
theorem beats_second (w : BitVec 16) (cost : Nat) :
    Beats (s.bank k).db cost (if s.isSecond k (s.bank k) w false then cost - 1 else cost) := by
  by_cases h : s.isSecond k (s.bank k) w false = true
  · simp only [h, if_true]
    refine .inr ⟨?_, rfl⟩
    unfold State.isSecond at h
    cases hp : (s.engAt k).pair with
    | none => simp [hp] at h
    | some p =>
      simp only [hp, Bool.and_eq_true, Bool.not_eq_true'] at h
      exact h.1.1.1.1.1.1.1
  · simp only [h]; exact .inl rfl

theorem ready_notParked (r : Ready s k) : (s.engAt k).run ≠ .parked := by
  intro h
  have := r.runs
  simp [State.canRun, h] at this

theorem ready_notFenced (r : Ready s k) : (s.engAt k).st ≠ .fenced := by
  intro h
  have := r.runs
  simp [State.canRun, h] at this

theorem ready_notStepping (r : Ready s k) : (s.engAt k).dbg.stepping = false := by
  have := r.plain
  simp only [Engine.undebugged, Bool.and_eq_true, Bool.not_eq_true'] at this
  exact this.1

theorem pass_lock (t : State) (l : List Beat) : ((t.pass k l).engAt k).lock = (t.engAt k).lock ∧
    ((t.pass k l).engAt k).lockBeats = (t.engAt k).lockBeats ∧ ((t.pass k l).engAt k).dbg = (t.engAt k).dbg := by
  unfold State.pass
  rw [engAt_modEng]
  exact (beats_keep _ l _).2.2

/-- LOCK accounting of a change of flow. -/
theorem flowLock_only (e : Engine) (n : Nat) : ∃ a b, e.flowLock n = { e with lock := a, lockBeats := b } := by
  unfold Engine.flowLock
  split <;> exact ⟨_, _, rfl⟩

theorem flowLock_mb (e : Engine) (m : Ctx) (n : Nat) :
    (({ e with mb := m } : Engine).flowLock n).lock = (e.flowLock n).lock ∧
    (({ e with mb := m } : Engine).flowLock n).lockBeats = (e.flowLock n).lockBeats := by
  unfold Engine.flowLock
  simp only
  split <;> exact ⟨rfl, rfl⟩

/-- LOCK accounting changes the count and its beats alone. -/
theorem tickLock_only (e : Engine) (n : Nat) : ∃ a b, e.tickLock n = { e with lock := a, lockBeats := b } := by
  unfold Engine.tickLock
  split
  · exact ⟨_, _, rfl⟩
  · split
    · exact ⟨_, _, rfl⟩
    · split <;> exact ⟨_, _, rfl⟩

/-- LOCK accounting does not look at the Machine bank. -/
theorem tickLock_mb (e : Engine) (m : Ctx) (n : Nat) :
    (({ e with mb := m } : Engine).tickLock n).lock = (e.tickLock n).lock ∧
    (({ e with mb := m } : Engine).tickLock n).lockBeats = (e.tickLock n).lockBeats := by
  unfold Engine.tickLock
  simp only
  split
  · exact ⟨rfl, rfl⟩
  · split
    · exact ⟨rfl, rfl⟩
    · split <;> exact ⟨rfl, rfl⟩

/-- What a body may change of its own engine for the laws below to apply: not the code that runs, not the debugger's step, and
no fence. -/
structure Calm (s s1 : State) (k : Nat) : Prop where
  run : (s1.engAt k).run = (s.engAt k).run
  st : (s1.engAt k).st = (s.engAt k).st
  step : (s1.engAt k).dbg.stepping = (s.engAt k).dbg.stepping

theorem Calm.fetched : Calm s (s.fetched k) k := ⟨by simp, by simp, by simp⟩

theorem copy_lasting (e : Engine) (a : Nat) (w : BitVec 16) : { e with lb := e.lb.copy a w }.lasting = e.lasting := by
  have h : ∀ l : LoopBuf, { l.copy a w with words := [], bad := [] } = { l with words := [], bad := [] } := by
    intro l; unfold LoopBuf.copy; dsimp only; split <;> split <;> rfl
  simp only [Engine.lasting, h]

theorem over_keeps (e : Engine) (a : Nat) (w : BitVec 16) : (e.over a w).mb = e.mb ∧ (e.over a w).lasting = e.lasting :=
  ⟨rfl, copy_lasting e a w⟩

/-- How a completed instruction ends on an engine that its effect has not fenced. -/
theorem finishAs_done {w : BitVec 16} {second : Bool} {c1 : Ctx} {cost n : Nat} (hnf : ¬((s1.engAt k).st == ES.fenced) = true)
    (hn : (if second then cost - 1 else cost) = n) : ∃ p a l, finishAs k w second (.done s1 c1 cost) =
      ((((s1.setBank k c1.advance).modEng k (fun e => { (e.tickLock n).over a w with pair := p })).pass k l).addBeats k n).endStep k := by
  subst hn; exact ⟨_, _, _, if_neg hnf⟩

/-- As `finishAs_done` for a change of flow. -/
theorem finishAs_flow {w : BitVec 16} {second : Bool} {c1 : Ctx} {tgt : Word} {cost n : Nat}
    (hnf : ¬((s1.engAt k).st == ES.fenced) = true) (hn : (if second then cost - 1 else cost) = n) :
    ∃ a l, finishAs k w second (.flow s1 c1 tgt cost) =
      ((((s1.setBank k { c1 with pc := tgt, divp := false, rep := false }).modEng k (fun e =>
        { (e.flowLock n).over a w with pair := none, fetch := none })).pass k l).addBeats k n).endStep k := by
  subst hn; exact ⟨_, _, if_neg hnf⟩

/-- As `finishAs_done` for a wait. -/
theorem finishAs_wait {w : BitVec 16} {second : Bool} {c1 : Ctx} {cost : Nat} (hnf : ¬((s1.engAt k).st == ES.fenced) = true) :
    ∃ (q : Bool) (p : Engine → PairInfo) (l : List Beat), finishAs k w second (.wait s1 c1 cost) =
      (fun t : State => match (t.engAt k).begun with | .setup _ => t.endStep k | _ => t)
        ((((s1.setBank k c1).modEng k (fun e => { e with
          lockBeats := if e.lock = 0 then 0 else e.lockBeats + cost, dbg := { e.dbg with pass := q }
          pair := some (p e) })).pass k l).addBeats k cost) := by
  exact ⟨c1.pc == (s1.bank k).pc, _, _, if_neg hnf⟩

/-- A body that completes settles the bank it leaves. -/
theorem runInstr_done (r : Ready s k) {w : BitVec 16} {ok : Bool} (hl : ok = true ∨ s.unlocked k) {body : Body} {c1 : Ctx}
    {cost : Nat} (hb : body (s.fetched k) (s.who k) (s.bank k) = .done s1 c1 cost) (hc : Calm s s1 k) :
    ∃ t n, runInstr k w ok body s = .next (t.settle k) ∧ Settled s1 k c1.advance n t ∧ Beats (s.bank k).db cost n ∧
      (t.engAt k).lock = ((s1.engAt k).tickLock n).lock ∧ (t.engAt k).lockBeats = ((s1.engAt k).tickLock n).lockBeats := by
  have hnf : ¬((s1.engAt k).st == ES.fenced) = true := by
    rw [hc.st]; simpa using ready_notFenced r
  have hpk : (s1.engAt k).run ≠ .parked := by rw [hc.run]; exact ready_notParked r
  have hstep : (s1.engAt k).dbg.stepping = false := by rw [hc.step]; exact ready_notStepping r
  obtain ⟨p, a, l, hf⟩ := finishAs_done (w := w) (c1 := c1) hnf
    (rfl : (if s.isSecond k (s.bank k) w false then cost - 1 else cost) = _)
  generalize hn : (if s.isSecond k (s.bank k) w false then cost - 1 else cost) = n at hf
  rw [endStep_plain] at hf
  · refine ⟨_, n, by rw [runInstr_ready r hl body, hb, finish, hf], ?_, hn ▸ beats_second w cost, ?_, ?_⟩
    · refine Settled.addBeats (Settled.pass (Settled.modEng (settled_setBank _ hpk) _ ?_) _) n
      intro e
      obtain ⟨x, y, h⟩ := tickLock_only e n
      rw [h]
      exact ⟨rfl, copy_lasting e _ w⟩
    · rw [engAt_addBeats, (pass_lock _ _).1, engAt_modEng]
      exact engAt_setBank _ _ (fun e => (e.tickLock _).lock) (fun e m => (tickLock_mb e m _).1) k
    · rw [engAt_addBeats, (pass_lock _ _).2.1, engAt_modEng]
      exact engAt_setBank _ _ (fun e => (e.tickLock _).lockBeats) (fun e m => (tickLock_mb e m _).2) k
  · rw [engAt_addBeats, (pass_lock _ _).2.2, engAt_modEng]
    obtain ⟨x, y, h⟩ := tickLock_only ((s1.setBank k c1.advance).engAt k) n
    rw [h]
    exact (engAt_setBank_stepping _).trans hstep

/-- A body that changes flow settles the bank it leaves at the target. -/
theorem runInstr_flow (r : Ready s k) {w : BitVec 16} {ok : Bool} (hl : ok = true ∨ s.unlocked k) {body : Body} {c1 : Ctx}
    {tgt : Word} {cost : Nat} (hb : body (s.fetched k) (s.who k) (s.bank k) = .flow s1 c1 tgt cost) (hc : Calm s s1 k) :
    ∃ t n, runInstr k w ok body s = .next (t.settle k) ∧ Settled s1 k { c1 with pc := tgt, divp := false, rep := false } n t ∧
      Beats (s.bank k).db cost n ∧
      (t.engAt k).lock = ((s1.engAt k).flowLock n).lock ∧ (t.engAt k).lockBeats = ((s1.engAt k).flowLock n).lockBeats := by
  have hnf : ¬((s1.engAt k).st == ES.fenced) = true := by
    rw [hc.st]; simpa using ready_notFenced r
  have hpk : (s1.engAt k).run ≠ .parked := by rw [hc.run]; exact ready_notParked r
  have hstep : (s1.engAt k).dbg.stepping = false := by rw [hc.step]; exact ready_notStepping r
  obtain ⟨a, l, hf⟩ := finishAs_flow (w := w) (c1 := c1) (tgt := tgt) hnf
    (rfl : (if s.isSecond k (s.bank k) w false then cost - 1 else cost) = _)
  generalize hn : (if s.isSecond k (s.bank k) w false then cost - 1 else cost) = n at hf
  rw [endStep_plain] at hf
  · refine ⟨_, n, by rw [runInstr_ready r hl body, hb, finish, hf], ?_, hn ▸ beats_second w cost, ?_, ?_⟩
    · refine Settled.addBeats (Settled.pass (Settled.modEng (settled_setBank _ hpk) _ ?_) _) n
      intro e
      obtain ⟨x, y, h⟩ := flowLock_only e n
      rw [h]
      exact ⟨rfl, copy_lasting e _ w⟩
    · rw [engAt_addBeats, (pass_lock _ _).1, engAt_modEng]
      exact engAt_setBank _ _ (fun e => (e.flowLock _).lock) (fun e m => (flowLock_mb e m _).1) k
    · rw [engAt_addBeats, (pass_lock _ _).2.1, engAt_modEng]
      exact engAt_setBank _ _ (fun e => (e.flowLock _).lockBeats) (fun e m => (flowLock_mb e m _).2) k
  · rw [engAt_addBeats, (pass_lock _ _).2.2, engAt_modEng]
    obtain ⟨x, y, h⟩ := flowLock_only ((s1.setBank k { c1 with pc := tgt, divp := false, rep := false }).engAt k) n
    rw [h]
    exact (engAt_setBank_stepping _).trans hstep

/-- A body that waits settles the bank it leaves, PC on itself. -/
theorem runInstr_wait (r : Ready s k) {w : BitVec 16} {ok : Bool} (hl : ok = true ∨ s.unlocked k) {body : Body} {c1 : Ctx}
    {cost : Nat} (hb : body (s.fetched k) (s.who k) (s.bank k) = .wait s1 c1 cost) (hc : Calm s s1 k) :
    ∃ t, runInstr k w ok body s = .next (t.settle k) ∧ Settled s1 k c1 cost t := by
  have hnf : ¬((s1.engAt k).st == ES.fenced) = true := by
    rw [hc.st]; simpa using ready_notFenced r
  have hpk : (s1.engAt k).run ≠ .parked := by rw [hc.run]; exact ready_notParked r
  have hstep : (s1.engAt k).dbg.stepping = false := by rw [hc.step]; exact ready_notStepping r
  obtain ⟨q, p, l, hf⟩ := finishAs_wait (w := w) (second := s.isSecond k (s.bank k) w false) (c1 := c1) (cost := cost) hnf
  refine ⟨_, by rw [runInstr_ready r hl body, hb, finish, hf], ?_⟩
  have hst : ((((((s1.setBank k c1).modEng k (fun e => { e with
      lockBeats := if e.lock = 0 then 0 else e.lockBeats + cost, dbg := { e.dbg with pass := q }, pair := some (p e) })).pass k l).addBeats
        k cost).engAt k).dbg.stepping = false) := by
    rw [engAt_addBeats, (pass_lock _ _).2.2, engAt_modEng]
    exact (engAt_setBank_stepping _).trans hstep
  have hset := Settled.addBeats (Settled.pass (Settled.modEng (settled_setBank c1 hpk) (fun e => { e with
    lockBeats := if e.lock = 0 then 0 else e.lockBeats + cost, dbg := { e.dbg with pass := q }, pair := some (p e) })
    (fun _ => ⟨rfl, rfl⟩)) l) cost
  dsimp only
  split
  · rw [endStep_plain hst]; exact hset
  · exact hset

/-- A body that faults takes the entry of its fault with the PC at which it stands. -/
theorem runInstr_fault (r : Ready s k) {w : BitVec 16} {ok : Bool} (hl : ok = true ∨ s.unlocked k) {body : Body} {c1 : Ctx} {f : Flt}
    (hb : body (s.fetched k) (s.who k) (s.bank k) = .fault s1 c1 f) (hc : Calm s s1 k) :
    ∃ second : Bool, (second = true → (s.bank k).db = false) ∧ runInstr k w ok body s =
      .next (((s1.setBank k c1).takeFault k f { pc := if f.code = 0xC then c1.pc + 2 else c1.resumePc
                                                self := if f.code = 0xC then some c1.resumePc else none
                                                instr := BitVec.ofNat 32 (second.toNat * 65536 + w.toNat) }).settle k) := by
  have hnf : ¬((s1.engAt k).st == ES.fenced) = true := by
    rw [hc.st]; simpa using ready_notFenced r
  refine ⟨s.isSecond k (s.bank k) w false, ?_, ?_⟩
  · intro h
    rcases beats_second (s := s) (k := k) w 5 with h1 | ⟨h1, _⟩
    · rw [h] at h1; cases h1
    · exact h1
  · rw [runInstr_ready r hl body, hb]
    refine congrArg (fun x => Host.Outcome.next (State.settle x k)) ?_
    refine Eq.trans (b := ((s1.setBank k c1).takeFault k f _)) (if_neg hnf) ?_
    refine congrArg _ ?_
    by_cases h : f.code = 0xC <;> simp only [h, if_true, if_false]

/-- A body that settles the engine itself. -/
theorem runInstr_ended (r : Ready s k) {w : BitVec 16} {ok : Bool} (hl : ok = true ∨ s.unlocked k) {body : Body}
    (hb : body (s.fetched k) (s.who k) (s.bank k) = .ended s1) : runInstr k w ok body s = .next (s1.settle k) := by
  rw [runInstr_ready r hl body, hb]
  refine congrArg (fun x => Host.Outcome.next (State.settle x k)) ?_
  by_cases h : ((s1.engAt k).st == ES.fenced) = true
  · exact if_pos h
  · exact if_neg h

/-! ### Instructions over the stacks -/

/-- An instruction completes when its body does. -/
theorem completes_done {i : Instr} {w : BitVec 16} {ok : Bool} {body : Body} {c1 : Ctx} {cost : Nat} (r : Ready s k)
    (he : exec i s = runInstr k w ok body s) (hl : ok = true ∨ s.unlocked k)
    (hb : body (s.fetched k) (s.who k) (s.bank k) = .done s1 c1 cost) (hc : Calm s s1 k) : Completes i s k s1 c1 cost := by
  unfold Completes
  rw [he]
  exact runInstr_done r hl hb hc

/-- A body over the stacks completes when its operands are in the window and its results have room. -/
theorem stackBody_done {pop push cost : Nat} {f : State → Who → Ctx → State × Ctx} {w : Who} {c : Ctx} (h : c.fits pop push) :
    stackBody pop push cost f s w c = .done (f s w c).1 (f s w c).2 cost := by
  unfold stackBody Ctx.needData Ctx.roomData
  rw [if_pos h.1, if_pos h.2]

/-- As `completes_done` for a body over the stacks. -/
theorem completes_stack {i : Instr} {w : BitVec 16} {pop push cost : Nat} {f : State → Who → Ctx → State × Ctx} {c1 : Ctx}
    (r : Ready s k) (he : exec i s = runInstr k w true (stackBody pop push cost f) s) (h : (s.bank k).fits pop push)
    (hs : f (s.fetched k) (s.who k) (s.bank k) = (s1, c1)) (hc : Calm s s1 k) : Completes i s k s1 c1 cost :=
  completes_done r he (.inl rfl) ((stackBody_done h).trans (by rw [hs])) hc

end Sys2Proof.Machine
end

