-- ==== Sys2Proof/Tests/Slice0.lean ====
section
/-! SUPPORT. The model's own tests: an ill-formed term for each check of WellFormed, single steps with results written out from the
spec, and, for every statement with hypotheses, concrete states and operands that meet them. -/

namespace Sys2Proof.Tests
open Sys2Proof.Machine

/-! ### Well-formedness -/

theorem test_wf_engine : (Instr.dup 71).wf = true ∧ (Instr.dup 72).wf = false ∧ (Instr.halt 72 {}).wf = false := by decide
theorem test_wf_train : (Instr.swpStat 7).wf = true ∧ (Instr.swpStat 8).wf = false ∧ (Instr.rotLate 8).wf = false := by decide
theorem test_wf_window : (Instr.fwCap 87).wf = true ∧ (Instr.fwCap 88).wf = false := by decide
theorem test_wf_contexts :
    (Instr.wdog false 1024).wf = false ∧ (Instr.deadbeatRelease false 1024).wf = false ∧
    (Instr.freeRelease true 1024).wf = false ∧ (Instr.migration 0 false 1024).wf = false ∧ (Instr.wdog true 1023).wf = true := by
  decide
theorem test_wf_channels :
    (Instr.periodEvent 16).wf = false ∧ (Instr.eventRelease 0 8).wf = false ∧ (Instr.commitTick 64).wf = false ∧
    (Instr.sampleRecord 4 0).wf = false ∧ (Instr.sampleMiss 128).wf = false ∧ (Instr.select 64 0 0 0 0 0).wf = false ∧
    (Instr.inject 64 0 0 0).wf = false ∧ (Instr.calibrate 64 0).wf = false ∧ (Instr.cvcAccepted 64).wf = false ∧
    (Instr.cvcDeferred 64).wf = false ∧ (Instr.cvcDone 64).wf = false ∧ (Instr.cvcError 64).wf = false ∧
    (Instr.tripInput 64 0).wf = false ∧ (Instr.tripBlank 64 true).wf = false ∧ (Instr.hostEventInput .irq 32).wf = false := by
  decide
theorem test_wf_host :
    (Instr.rmtGstatEsc 64 {}).wf = false ∧ (Instr.dialSel 32 0 {}).wf = false ∧ (Instr.dialSeq 32).wf = false ∧
    (Instr.hostRegWrite 2 0 {}).wf = false ∧ (Instr.hostRegWrite 0x4000000 0 {}).wf = false ∧
    (Instr.hostWindowAccess 0x4000000 true 0 0 {} 4).wf = false ∧ (Instr.hostWindowAccess 0 true 0 0 {} 32).wf = false ∧
    (Instr.stim 64 0 {}).wf = false ∧ (Instr.toReturned 0 [] {}).wf = false := by decide
theorem test_wf_sweep :
    (Instr.sweepLine 0 0 65535 .pass).wf = true ∧ (Instr.sweepLine 0 0 65536 .pass).wf = false ∧
    (Instr.sweepLine 0 1 1024 .pass).wf = false ∧ (Instr.sweepLine 0 2 0 .pass).wf = false ∧
    (Instr.eccChk 0 0 16 true).wf = false ∧ (Instr.eccChk 0 2 0 true).wf = false ∧
    (Instr.streamerChunk 0 16 .error).wf = false := by decide

/-! ### Words (spec 04 R103-R110, with the encodings that 05 and 06 write out) -/

theorem test_words_formats :
    wordCommand 3 0 0xFFFF = .lit 3 0x7FFF ∧ wordCommand 3 0 0x1FFF = .jmp 3 0x1FFF ∧ wordCommand 3 0 0x2404 = .bcc 3 1 4 ∧
    wordCommand 3 0 0x3C04 = .tz 3 4 ∧ wordCommand 3 0 0x5404 = .call 3 5 4 ∧ wordCommand 3 0 0x7E00 = .undefinedEncoding 3 0x7E00 := by
  decide
theorem test_words_data :
    wordCommand 3 0 0x6013 = .rdrop 3 ∧ wordCommand 3 0 0x6022 = .pick 3 2 ∧ wordCommand 3 0 0x610F = .undefinedEncoding 3 0x610F ∧
    wordCommand 3 0 0x6115 = .sel 3 ∧ wordCommand 3 0 0x6205 = .shls 3 ∧ wordCommand 3 0 0x6344 = .sar 3 (.imm 4) ∧
    wordCommand 3 0 0x638F = .sarr 3 (.imm 15) ∧ wordCommand 3 0 0x6460 = .ror 3 .byT ∧ wordCommand 3 5 0x6508 = .divs 3 5 ∧
    wordCommand 3 0 0x6608 = .qrd 3 ∧ wordCommand 3 5 0x6702 = .xmacr 3 5 ∧ wordCommand 3 0 0x6807 = .perm 3 ∧
    wordCommand 3 0 0x6F05 = .auxPush 3 5 ∧ wordCommand 3 0 0x6F46 = .auxPop 3 6 ∧ wordCommand 3 0 0x6F87 = .auxExchange 3 7 := by decide
theorem test_words_memory :
    wordCommand 3 0 0x6958 = .loadViaA 3 1 1 true 0 ∧ wordCommand 3 0 0x6968 = .undefinedEncoding 3 0x6968 ∧
    wordCommand 3 0 0x6AB1 = .storeViaA 3 2 3 1 ∧ wordCommand 3 0 0x6BC1 = .loadWithOffset 3 3 1 ∧ wordCommand 3 0 0x6C41 = .storeWithOffset 3 1 1 ∧
    wordCommand 3 9 0x7740 = .move 3 2 false 9 ∧ wordCommand 3 9 0x77F0 = .fill 3 3 true 9 := by decide
theorem test_words_control :
    wordCommand 3 0 0x7010 = .ret 3 ∧ wordCommand 3 0 0x7068 = .lock 3 8 ∧ wordCommand 3 0 0x7060 = .undefinedEncoding 3 0x7060 ∧
    wordCommand 3 0 0x7070 = .rep 3 ∧ wordCommand 3 0 0x7083 = .bkpt 3 3 ∧ wordCommand 3 0 0x7603 = .callt 3 3 ∧ wordCommand 3 0 0x7680 = .jmpt 3 ∧
    wordCommand 3 0 0x7885 = .inls 3 5 ∧ wordCommand 3 0 0x7920 = .evtPend 3 ∧ wordCommand 3 0 0x7945 = .mbPost 3 5 := by decide

/-! ### Small states -/

/-- A bank of a deadbeat context with these data entries, the last one T. -/
def bankOf (l : List Word) : Ctx := ({ db := true } : Ctx).pushAll l

/-- Engine 0 in SERVICE runs the context of slot 0 with this bank. -/
def onBank (c : Ctx) (e : Engine := {}) : State :=
  { eng := [(0, { e with st := .service, run := .ctx 0 })], ctx := [(0, { c with st := .running })] }

/-- Engine 0 in SERVICE runs Machine-level code with this bank, for the context of slot 0. -/
def onMach (c : Ctx) (e : Engine := {}) : State :=
  { eng := [(0, { e with st := .service, run := .mach (some 0), mb := { c with level := 3, db := true } })]
    ctx := [(0, { db := true, st := .running })] }

/-- The state that a command leaves. -/
def after (i : Instr) (s : State) : State := match exec i s with | .next t => t | _ => s

/-- The data entries, T first, after an instruction on a bank. -/
def tops (i : Instr) (c : Ctx) (n : Nat) : List Word := ((after i (onBank c)).bank 0).top n
/-- FL after an instruction on a bank: S, N, Z, C, V. -/
def flags (i : Instr) (c : Ctx) : List Bool := let f := ((after i (onBank c)).bank 0).fl; [f.s, f.n, f.z, f.c, f.v]
/-- Q after an instruction on a bank. -/
def accum (i : Instr) (c : Ctx) : Int := ((after i (onBank c)).bank 0).q.toInt

/-! ### Data instructions (spec 05) -/

theorem test_stack_effects :
    tops (.dup 0) (bankOf [1, 2, 3, 4]) 3 = [4, 4, 3] ∧ tops (.drop 0) (bankOf [1, 2, 3, 4]) 2 = [3, 2] ∧
    tops (.swap 0) (bankOf [1, 2, 3, 4]) 3 = [3, 4, 2] ∧ tops (.overS 0) (bankOf [1, 2, 3, 4]) 3 = [3, 4, 3] ∧
    tops (.nip 0) (bankOf [1, 2, 3, 4]) 2 = [4, 2] ∧ tops (.tuck 0) (bankOf [1, 2, 3, 4]) 4 = [4, 3, 4, 2] := by decide
theorem test_stack_rotations :
    tops (.rot 0) (bankOf [1, 2, 3, 4]) 4 = [2, 4, 3, 1] ∧ tops (.minusRot 0) (bankOf [1, 2, 3, 4]) 4 = [3, 2, 4, 1] ∧
    tops (.twoSwap 0) (bankOf [1, 2, 3, 4]) 4 = [2, 1, 4, 3] ∧ tops (.twoOver 0) (bankOf [1, 2, 3, 4]) 4 = [2, 1, 4, 3] ∧
    tops (.twoDup 0) (bankOf [1, 2]) 4 = [2, 1, 2, 1] ∧ tops (.twoDrop 0) (bankOf [1, 2, 3]) 1 = [1] := by decide
theorem test_pick_poke :
    tops (.pick 0 2) (bankOf [1, 2, 3]) 4 = [1, 3, 2, 1] ∧ tops (.poke 0 1) (bankOf [1, 2, 3]) 2 = [2, 3] := by decide
theorem test_return_moves :
    ((after (.toR 0) (onBank (bankOf [1, 2]))).bank 0).ret 0 = 2 ∧
    tops (.rFrom 0) ((bankOf [1]).rpush 9 0) 2 = [9, 1] ∧ tops (.rFetch 0) ((bankOf [1]).rpush 9 0) 1 = [9] ∧
    ((after (.rdrop 0) (onBank ((bankOf []).rpush 9 0))).bank 0).rocc = 0 := by decide
theorem test_literals :
    tops (.lit 0 0x7FFF) (bankOf []) 1 = [0xFFFFFFFF] ∧ tops (.litx 0 0x34) (bankOf [0x12]) 1 = [0x1234] ∧
    tops (.ldk 0 1) (bankOf []) 1 = [0] := by decide
theorem test_add : tops (.add 0) (bankOf [0xFFFFFFFF, 1]) 1 = [0] ∧ flags (.add 0) (bankOf [0xFFFFFFFF, 1]) = [false, false, true, true, false] := by
  decide
theorem test_add_overflow : flags (.add 0) (bankOf [0x7FFFFFFF, 1]) = [false, true, false, false, true] := by decide
theorem test_sub : tops (.sub 0) (bankOf [5, 7]) 1 = [0xFFFFFFFE] ∧ flags (.sub 0) (bankOf [5, 7]) = [false, true, false, false, false] := by
  decide
theorem test_rsub : tops (.rsub 0) (bankOf [5, 7]) 1 = [2] ∧ flags (.rsub 0) (bankOf [5, 7]) = [false, false, false, true, false] := by decide
theorem test_neg_dec :
    tops (.neg 0) (bankOf [1]) 1 = [0xFFFFFFFF] ∧ tops (.dec 0) (bankOf [0]) 1 = [0xFFFFFFFF] ∧
    flags (.dec 0) (bankOf [0]) = [false, true, false, false, false] ∧ tops (.inc 0) (bankOf [0xFFFFFFFF]) 1 = [0] := by decide
theorem test_carry_chain :
    tops (.adc 0) ((bankOf [1, 2]).setFl { s := false, n := false, z := false, c := true, v := false }) 1 = [4] ∧ tops (.sbc 0) ((bankOf [5, 2]).setFl { s := false, n := false, z := false, c := false, v := false }) 1 = [2] ∧
    flags (.cmp 0) (bankOf [3, 3]) = [false, false, true, true, false] := by decide
theorem test_logic :
    tops (.and 0) (bankOf [6, 3]) 1 = [2] ∧ tops (.or 0) (bankOf [6, 3]) 1 = [7] ∧ tops (.xor 0) (bankOf [6, 3]) 1 = [5] ∧
    tops (.andn 0) (bankOf [6, 3]) 1 = [4] ∧ tops (.not 0) (bankOf [0]) 1 = [0xFFFFFFFF] ∧ tops (.tst 0) (bankOf [9]) 1 = [9] := by
  decide
theorem test_select :
    tops (.min 0) (bankOf [0xFFFFFFFF, 1]) 1 = [0xFFFFFFFF] ∧ tops (.max 0) (bankOf [0xFFFFFFFF, 1]) 1 = [1] ∧
    tops (.minu 0) (bankOf [0xFFFFFFFF, 1]) 1 = [1] ∧ tops (.maxu 0) (bankOf [0xFFFFFFFF, 1]) 1 = [0xFFFFFFFF] ∧
    tops (.abs 0) (bankOf [0x80000000]) 1 = [0x80000000] ∧ flags (.abs 0) (bankOf [0x80000000]) = [false, true, false, false, true] ∧
    tops (.sel 0) (bankOf [7, 8, 0]) 1 = [7] ∧ tops (.sel 0) (bankOf [7, 8, 1]) 1 = [8] := by decide
theorem test_saturating :
    tops (.adds 0) (bankOf [0x7FFFFFFF, 1]) 1 = [0x7FFFFFFF] ∧ tops (.subs 0) (bankOf [0x80000000, 1]) 1 = [0x80000000] ∧
    tops (.negs 0) (bankOf [0x80000000]) 1 = [0x7FFFFFFF] ∧ tops (.abss 0) (bankOf [0x80000000]) 1 = [0x7FFFFFFF] ∧
    tops (.clamp 0) (bankOf [9, 1, 5]) 1 = [5] ∧ tops (.shls 0) (bankOf [0x40000000, 1]) 1 = [0x7FFFFFFF] ∧
    flags (.adds 0) (bankOf [0x7FFFFFFF, 1]) = [true, false, false, false, false] := by decide
theorem test_shifts :
    tops (.shl 0 (.imm 31)) (bankOf [3]) 1 = [0x80000000] ∧ flags (.shl 0 (.imm 31)) (bankOf [3]) = [false, true, false, true, false] ∧
    tops (.shr 0 (.imm 1)) (bankOf [0x80000001]) 1 = [0x40000000] ∧ tops (.sar 0 .byT) (bankOf [0x80000000, 40]) 1 = [0xFFFFFFFF] ∧
    tops (.ror 0 (.imm 4)) (bankOf [0x12345678]) 1 = [0x81234567] ∧ tops (.sarr 0 (.imm 1)) (bankOf [3]) 1 = [1] := by decide
theorem test_multiplies :
    tops (.mul 0) (bankOf [0xFFFFFFFF, 3]) 1 = [0xFFFFFFFD] ∧ tops (.mulh 0) (bankOf [0xFFFFFFFF, 3]) 1 = [0xFFFFFFFF] ∧
    tops (.mulhu 0) (bankOf [0xFFFFFFFF, 3]) 1 = [2] ∧ tops (.muld 0) (bankOf [0xFFFFFFFF, 3]) 2 = [0xFFFFFFFF, 0xFFFFFFFD] ∧
    tops (.muldu 0) (bankOf [0xFFFFFFFF, 3]) 2 = [2, 0xFFFFFFFD] ∧ tops (.mulfr 0) (bankOf [0x40000000, 0x40000000]) 1 = [0x20000000] := by
  decide
theorem test_divides :
    tops (.divs 0 4) (bankOf [0xFFFFFFF9, 2]) 2 = [0xFFFFFFFD, 0xFFFFFFFF] ∧ tops (.divu 0 4) (bankOf [7, 2]) 2 = [3, 1] := by decide
theorem test_bit_fields :
    tops (.bfx 0) (bankOf [0x12345678, 0x0804]) 1 = [0x67] ∧ tops (.bfxs 0) (bankOf [0x12345688, 0x0800]) 1 = [0xFFFFFF88] ∧
    tops (.bfi 0) (bankOf [0, 0xAB, 0x0804]) 1 = [0xAB0] ∧ tops (.clz 0) (bankOf [1]) 1 = [31] ∧ tops (.cls 0) (bankOf [0]) 1 = [31] ∧
    tops (.popc 0) (bankOf [0xF0F0]) 1 = [8] ∧ tops (.brev 0) (bankOf [1]) 1 = [0x80000000] ∧
    tops (.perm 0) (bankOf [0x44332211, 0x1B]) 1 = [0x11223344] := by decide
theorem test_accumulator :
    accum (.mac 0) { bankOf [2, 3] with q := 5 } = 17 ∧ accum (.msu 0) { bankOf [2, 3] with q := 5 } = -7 ∧
    accum (.mpy 0) { bankOf [2, 3] with q := 5 } = 12 ∧ accum (.mack 0) { bankOf [2, 3] with q := 5 } = 17 ∧
    accum (.qclr 0) { bankOf [] with q := 5 } = 0 ∧ accum (.qsh 0) { bankOf [4] with q := 5 } = 80 ∧
    accum (.qldh 0) (bankOf [1]) = 2 ^ 32 ∧ accum (.qld 0) (bankOf [1, 1, 0]) = 2 ^ 32 + 1 := by decide
theorem test_accumulator_reads :
    tops (.qrd 0) { bankOf [] with q := 3 * 2 ^ 32 } 1 = [3] ∧ tops (.qrdc 0) { bankOf [] with q := 3 * 2 ^ 32 } 1 = [3] ∧
    tops (.qst 0) { bankOf [] with q := 3 * 2 ^ 32 + 1 } 3 = [0, 3, 1] ∧ accum (.qsat 0) { bankOf [] with q := 2 ^ 64 } = 2 ^ 63 - 1 := by
  decide
theorem test_auxiliaries :
    tops (.auxPush 0 2) ((bankOf []).setAux 2 7) 1 = [7] ∧ ((after (.auxPop 0 6) (onBank (bankOf [0xFF]))).bank 0).auxR 6 = 0x1F ∧
    tops (.auxExchange 0 3) ((bankOf [1]).setAux 3 5) 1 = [5] := by decide

/-! ### Memory (spec 02 R48-R53, 05 R137-R139) -/

/-- A bank whose A0 is `a`. -/
def atA0 (a : Word) (l : List Word) : Ctx := (bankOf l).setAux 0 a

theorem test_load : ((after (.loadViaA 0 0 0 true 1) { onBank (atA0 8 []) with mem := [(lsKey 0 8, 0x80)] }).bank 0).top 1 = [0xFFFFFF80] ∧
    ((after (.loadViaA 0 0 0 true 1) (onBank (atA0 8 []))).bank 0).auxR 0 = 9 := by decide +kernel
theorem test_load_offset :
    ((after (.loadWithOffset 0 0 2) { onBank (atA0 0 []) with mem := [(lsKey 0 8, 1), (lsKey 0 9, 2)] }).bank 0).top 1 = [0x201] := by decide +kernel
theorem test_store :
    let s := after (.storeViaA 0 0 1 0) (onBank (atA0 8 [0x12345678]))
    s.byteAt (lsKey 0 8) = 0 ∧ (after (.nop 0) s).byteAt (lsKey 0 8) = 0 ∧
    (after (.nop 0) (after (.nop 0) s)).mem = [(lsKey 0 8, 0x78), (lsKey 0 9, 0x56)] := by decide +kernel
theorem test_store_offset :
    (after (.storeRetire 0) (after (.storeWithOffset 0 0 1) (onBank { atA0 0 [0x05] with db := false }))).mem = [(lsKey 0 4, 5)] := by
  decide +kernel
theorem test_address_fault :
    ((after (.loadWithOffset 0 0 0) (onBank { atA0 0x10000 [] with vbase := 1, db := false })).ctxAt 0).shw 2 = 3 := by decide +kernel
theorem test_saved_registers :
    ((after (.loadm 0 0x03) { onBank (bankOf [16]) with mem := [(lsKey 0 16, 1), (lsKey 0 20, 2)] }).bank 0).auxR 1 = 2 ∧
    ((after (.savem 0 0x03) (onBank ((atA0 7 [16]).setAux 1 9))).engAt 0).sbuf.map SBE.untimed =
      [{ line := lsKey 0 16, data := 0x900000007, mask := 0xFF, wait := 0 }] := by
  decide +kernel
theorem test_move_fill :
    (after (.move 0 0 false 2) { onBank (((atA0 0 []).setAux 1 8).setAux 5 2) with mem := [(lsKey 0 0, 5), (lsKey 0 1, 6)] }).mem =
      [(lsKey 0 0, 5), (lsKey 0 1, 6), (lsKey 0 8, 5), (lsKey 0 9, 6)] ∧
    (after (.fill 0 0 true 2) (onBank (((bankOf [0xAB]).setAux 1 8).setAux 5 2))).mem = [(lsKey 0 6, 0xAB), (lsKey 0 7, 0xAB)] := by decide +kernel

/-! ### Flow, entries and control (spec 06, 07) -/

theorem test_jump : ((after (.jmp 0 0x1FFF) (onBank { bankOf [] with pc := 0x100 })).bank 0).pc = 0x100 := by decide +kernel
theorem test_branch :
    ((after (.bcc 0 0 4) (onBank (bankOf []))).bank 0).pc = 2 ∧
    ((after (.bcc 0 0 4) (onBank ((bankOf []).setFl { s := false, n := false, z := true, c := false, v := false }))).bank 0).pc = 10 ∧
    ((after (.tz 0 4) (onBank (bankOf [0]))).bank 0).pc = 10 := by decide +kernel
theorem test_ret :
    let s := after (.ret 0) (onBank ((((bankOf [1]).rpush 5 16).rpush 6 16).rpush 0x40 9))
    (s.bank 0).pc = 0x40 ∧ (s.bank 0).rocc = 0 ∧ (s.bank 0).auxR 0 = 5 ∧ (s.bank 0).auxR 1 = 6 ∧ (s.bank 0).beats = 4 := by decide +kernel
theorem test_call_ret :
    let s := after (.call 0 1 4) (onBank ((atA0 7 []).setAux 1 8))
    (s.bank 0).pc = 10 ∧ (s.bank 0).rocc = 3 ∧
    ((after (.ret 0) (s.setBank 0 ((s.bank 0).setAux 0 99))).bank 0).pc = 2 ∧
    ((after (.ret 0) (s.setBank 0 ((s.bank 0).setAux 0 99))).bank 0).auxR 0 = 7 := by decide +kernel
theorem test_indirect :
    ((after (.callt 0 0) (onBank (bankOf [0x40]))).bank 0).pc = 0x40 ∧ ((after (.jmpt 0) (onBank (bankOf [0x40]))).bank 0).pc = 0x40 := by
  decide +kernel
theorem test_trap_entry :
    let c := (after (.trap 0 5) (onBank { bankOf [] with vbase := 0x1001, db := false })).ctxAt 0
    c.pc = 0x1060 ∧ c.level = 1 ∧ c.shw 0 = 2 ∧ c.shw 2 = 0x50C ∧ c.nest = 1 := by decide +kernel
theorem test_reti : let s := after (.reti 0) (after (.trap 0 5) (onBank { bankOf [] with vbase := 0x1001, db := false }))
    (s.ctxAt 0).pc = 2 ∧ (s.ctxAt 0).level = 0 ∧ (s.ctxAt 0).nest = 0 := by decide +kernel
theorem test_bkpt : ((after (.bkpt 0 3) (onBank { bankOf [] with vbase := 1, db := false })).ctxAt 0).shw 2 = 0x30D := by decide +kernel
theorem test_undefined : ((after (.undefinedEncoding 0 0x7FFF) (onBank { bankOf [] with vbase := 1, db := false })).ctxAt 0).shw 4 = 0x7FFF := by decide +kernel
theorem test_yield : let s := after (.yield 0) (onBank (bankOf []))
    (s.ctxAt 0).st = .idle ∧ (s.ctxAt 0).pc = 2 ∧ (s.engAt 0).run = .parked := by decide +kernel
theorem test_waits : ((after (.sync 0) (onBank (bankOf []))).bank 0).pc = 2 ∧
    ((after (.wait 0) (onBank { bankOf [] with db := false })).bank 0).pc = 0 ∧ ((after (.nop 0) (onBank (bankOf []))).bank 0).beats = 1 := by
  decide +kernel
theorem test_lock : ((after (.lock 0 2) (onBank (bankOf []))).engAt 0).lock = 2 ∧
    ((after (.nop 0) (after (.nop 0) (after (.lock 0 2) (onBank (bankOf []))))).engAt 0).lock = 0 := by decide +kernel
theorem test_rep :
    ((after (.rep 0) { onBank (bankOf []) with mem := [(lsKey 0 3, 0x61)] }).bank 0).pc = 4 ∧
    ((after (.rep 0) (onBank { (bankOf []).setAux 5 3 with vbase := 1, db := false })).ctxAt 0).nest = 1 ∧
    ((after (.rep 0) { onBank ((bankOf []).setAux 5 3) with mem := [(lsKey 0 3, 0x61)] }).bank 0).rep = true := by decide +kernel
theorem test_csr :
    tops (.csrr 0 0x08) (bankOf []) 1 = [0x09FF4001] ∧ tops (.csrr 0 0x11) (bankOf [1, 2]) 1 = [2] ∧
    ((after (.csrw 0 0x4A) (onBank { bankOf [5] with level := 1 })).ctxAt 0).evmask = 5 := by decide +kernel
theorem test_machine_writes :
    ((after (.icinv 0) (onBank (bankOf [1]) { icache := [{ addr := 0, data := 0 }] })).engAt 0).icache = [] ∧
    ((after (.mactAbandon 0) (onMach (bankOf [1]))).ctxAt 0).st = .idle ∧
    ((after (.frec 0) (onMach (bankOf [0x00000123]))).fwAt 0).capArg = 0x123 := by decide +kernel
theorem test_events :
    ((after (.evtAck 0 3) (onBank { bankOf [] with evpend := 0xF })).ctxAt 0).evpend = 7 ∧
    tops (.evtPend 0) { bankOf [] with evpend := 0xF } 1 = [0xF] ∧
    ((after (.evtHost 0 4) (onBank (bankOf []))).trainAt 0).hev = 0x10 := by decide


/-! ### Hypotheses of the statements can be met: engines -/

/-- An engine that executes. -/
theorem ready (s : State) (k : Nat)
    (h : (s.hasEngine k && s.canRun k && (s.preIssue k).isNone && (s.engAt k).undebugged && (s.bank k).sound) = true) : Ready s k := by
  simp only [Bool.and_eq_true, Option.isNone_iff_eq_none] at h
  exact ⟨h.1.1.1.1, h.1.1.1.2, h.1.1.2, h.1.2, h.2⟩

/-- An engine's access that reads the arrays. -/
theorem reads (s : State) (k a n key : Nat) (p : s.memPlace (s.who k) a n false true = .ok key)
    (h : ((s.engAt k).sbuf.isEmpty && (s.firstUE key n).isNone && !s.sealWiping key) = true) : Reads s k a n key := by
  simp only [Bool.and_eq_true, Option.isNone_iff_eq_none, List.isEmpty_iff, Bool.not_eq_true'] at h
  exact ⟨p, h.1.1, h.1.2, h.2⟩

/-- The same bank in free mode. -/
def free (c : Ctx) : Ctx := { c with db := false }
/-- Four entries. -/
def four : State := onBank (bankOf [1, 2, 3, 4])
/-- A full data window. -/
def full : State := onBank (bankOf (List.replicate 32 7))
/-- A return stack that ends in this tag. -/
def onRet (tag : BitVec 5) : State := onBank ((bankOf [1]).rpush 5 tag)

theorem witness_StackOperations :
    Ready four 0 ∧ (four.bank 0).fits 1 2 ∧ (four.bank 0).fits 1 0 ∧ (four.bank 0).fits 2 2 ∧ (four.bank 0).fits 2 3 ∧
    (four.bank 0).fits 2 1 ∧ (four.bank 0).fits 3 3 ∧ (four.bank 0).fits 2 4 ∧ (four.bank 0).fits 2 0 ∧ (four.bank 0).fits 4 4 ∧
    (four.bank 0).fits 4 6 :=
  ⟨ready _ _ (by decide), by decide⟩
theorem witness_StackOperations_full :
    Ready full 0 ∧ (full.bank 0).fits 1 0 ∧ (full.bank 0).fits 2 2 ∧ (full.bank 0).fits 2 1 ∧ (full.bank 0).fits 3 3 ∧
    (full.bank 0).fits 2 0 ∧ (full.bank 0).fits 4 4 :=
  ⟨ready _ _ (by decide), by decide⟩
theorem witness_StackOperations_return :
    Ready four 0 ∧ (four.bank 0).fits 1 0 ∧ (four.bank 0).rocc + 1 ≤ 16 ∧
    Ready (onRet 0) 0 ∧ 1 ≤ ((onRet 0).bank 0).rocc ∧ tagKind (((onRet 0).bank 0).rtag 0) ≠ 3 ∧ ((onRet 0).bank 0).fits 0 1 ∧
    Ready (onRet 24) 0 ∧ 1 ≤ ((onRet 24).bank 0).rocc ∧ tagKind (((onRet 24).bank 0).rtag 0) = 3 :=
  ⟨ready _ _ (by decide), by decide, by decide, ready _ _ (by decide), by decide, by decide, by decide, ready _ _ (by decide), by decide⟩
theorem witness_StackOperations_pick :
    let b := onBank (bankOf (List.replicate 24 7)) { begun := .value 9 }
    Ready four 0 ∧ four.starts 0 ∧ (3#5).toNat + 1 ≤ (four.bank 0).docc ∧ (four.bank 0).docc < 32 ∧ (2#5).toNat + 2 ≤ (four.bank 0).docc ∧
    Ready b 0 ∧ (b.engAt 0).begun = .value 9 ∧ (b.bank 0).docc < 32 :=
  ⟨ready _ _ (by decide), by decide, by decide, by decide, by decide, ready _ _ (by decide), by decide⟩

theorem witness_LiteralsAndAuxiliaries :
    Ready four 0 ∧ (four.bank 0).fits 0 1 ∧ (four.bank 0).fits 1 1 ∧ (four.bank 0).fits 1 0 ∧
    (four.bank 0).kbase.toNat + 4 * (255#8).toNat + 3 ≤ 0xFFFF ∧ (four.engAt 0).inSpill ((four.bank 0).kbase.toNat + 4 * (255#8).toNat) 4 = false ∧
    four.isUE (lsKey 0 1020) = false :=
  ⟨ready _ _ (by decide), by decide⟩

theorem witness_ArithmeticFlags :
    Ready four 0 ∧ (four.bank 0).fits 2 1 ∧ (four.bank 0).fits 1 1 ∧ (four.bank 0).fits 2 0 ∧ Ready full 0 ∧ (full.bank 0).fits 2 1 ∧
    (full.bank 0).fits 1 1 :=
  ⟨ready _ _ (by decide), by decide, by decide, by decide, ready _ _ (by decide), by decide⟩

theorem witness_SelectionsAndTests : Ready four 0 ∧ (four.bank 0).fits 1 1 ∧ (four.bank 0).fits 2 1 ∧ (four.bank 0).fits 3 1 :=
  ⟨ready _ _ (by decide), by decide⟩

/-- Four entries under the two-lane format. -/
def lanes : State := onBank ((bankOf [1, 2, 3, 4]).setAux 7 8)

theorem witness_SaturatingResults :
    Ready four 0 ∧ (four.bank 0).md.fmt = false ∧ (four.bank 0).fits 3 1 ∧ (four.bank 0).fits 2 1 ∧ (four.bank 0).fits 1 1 ∧
    Ready lanes 0 ∧ (lanes.bank 0).md.fmt = true ∧ (lanes.bank 0).fits 3 1 ∧ (lanes.bank 0).fits 2 1 ∧ (lanes.bank 0).fits 1 1 ∧
    ((32#32 : Word).toNat % 32 = 0) :=
  ⟨ready _ _ (by decide), by decide, by decide, by decide, by decide, ready _ _ (by decide), by decide⟩

theorem witness_ShiftsAreSingleBitShifts :
    Ready four 0 ∧ (four.bank 0).fits 2 1 ∧ (four.bank 0).fits 1 1 ∧
    Ready (onBank ((bankOf [5, 32]).setAux 7 3)) 0 ∧ ((onBank ((bankOf [5, 32]).setAux 7 3)).bank 0).fits 2 1 ∧
    ((onBank ((bankOf [5, 32]).setAux 7 3)).bank 0).md.rnd = 3 :=
  ⟨ready _ _ (by decide), by decide, by decide, ready _ _ (by decide), by decide⟩

theorem witness_Multiplies : Ready four 0 ∧ (four.bank 0).fits 2 2 := ⟨ready _ _ (by decide), by decide⟩

/-- Operands of a division. -/
def dividing (m d : Word) (p : Bool) (c a1 a0 : Word) : State :=
  onBank { (((bankOf [m, d]).setAux 5 c).setAux 1 a1).setAux 0 a0 with divp := p }

theorem witness_DivisionsAreExact :
    Ready (dividing 0x80000000 0xFFFFFFFF false 0 0 0) 0 ∧ (dividing 0x80000000 0xFFFFFFFF false 0 0 0).unlocked 0 ∧
    2 ≤ ((dividing 0x80000000 0xFFFFFFFF false 0 0 0).bank 0).docc ∧ ((dividing 0x80000000 0xFFFFFFFF false 0 0 0).bank 0).divp = false ∧
    ((dividing 0x80000000 0xFFFFFFFF false 0 0 0).bank 0).data 0 ≠ 0 :=
  ⟨ready _ _ (by decide), by decide⟩
theorem witness_DivisionsAreExact_resumed :
    let s := dividing 0xFFFFFFFF 7 true 8 0x249249 0
    Ready s 0 ∧ s.unlocked 0 ∧ s.starts 0 ∧ (s.bank 0).data 0 ≠ 0 ∧ (s.bank 0).divp = true ∧ (s.bank 0).cnt ≤ 8 * 1 ∧ (s.bank 0).cnt ≤ 32 ∧
    ((s.bank 0).auxR 1).toNat = ((s.bank 0).data 1).toNat / 2 ^ (s.bank 0).cnt / ((s.bank 0).data 0).toNat ∧
    ((s.bank 0).auxR 0).toNat = ((s.bank 0).data 1).toNat / 2 ^ (s.bank 0).cnt % ((s.bank 0).data 0).toNat :=
  ⟨ready _ _ (by decide), by decide⟩
theorem witness_DivisionsAreExact_boundary :
    let s := dividing 0xFFFFFFFF 7 true 9 0 0
    Ready s 0 ∧ s.unlocked 0 ∧ s.starts 0 ∧ 2 ≤ (s.bank 0).docc ∧ (s.bank 0).data 0 ≠ 0 ∧ (s.bank 0).divp = true ∧ 8 * 1 < (s.bank 0).cnt :=
  ⟨ready _ _ (by decide), by decide⟩
theorem witness_DivisionsAreExact_zero :
    let s := dividing 5 0 false 0 0 0
    Ready s 0 ∧ s.unlocked 0 ∧ 2 ≤ (s.bank 0).docc ∧ (s.bank 0).data 0 = 0 :=
  ⟨ready _ _ (by decide), by decide⟩

/-- A signed division whose set-up is done, with 8 of 31 bits behind it or none to come. -/
def resumed (c : Word) (b : Begun) : State :=
  let d := dividing 0x80000001 7 true c (BitVec.ofNat 32 (0x7FFFFFFF / 2 ^ c.toNat / 7)) (BitVec.ofNat 32 (0x7FFFFFFF / 2 ^ c.toNat % 7))
  d.modEng 0 (fun e => { e with begun := b })
theorem witness_DivisionsAreExact_signed :
    let holds (s : State) : Prop := let c := s.bank 0
      c.cnt ≤ 32 ∧ (c.auxR 1).toNat = (c.data 1).toInt.natAbs / 2 ^ c.cnt / (c.data 0).toInt.natAbs ∧
      (c.auxR 0).toNat = (c.data 1).toInt.natAbs / 2 ^ c.cnt % (c.data 0).toInt.natAbs
    let s := resumed 8 .none
    let g := resumed 0 (.setup 2)
    let w := resumed 8 (.setup 2)
    Ready s 0 ∧ s.starts 0 ∧ s.unlocked 0 ∧ 2 ≤ (s.bank 0).docc ∧ (s.bank 0).data 0 ≠ 0 ∧ (s.bank 0).divp = true ∧ holds s ∧ (s.bank 0).cnt ≤ 8 * 1 ∧
    (s.engAt 0).sbuf = [] ∧ Ready g 0 ∧ g.unlocked 0 ∧ (g.engAt 0).begun = .setup 2 ∧ (g.bank 0).divp = true ∧ holds g ∧ (g.bank 0).cnt ≤ 8 * 0 ∧
    Ready w 0 ∧ (w.engAt 0).begun = .setup 2 ∧ holds w ∧ 8 * 0 < (w.bank 0).cnt :=
  ⟨ready _ _ (by decide), by decide, by decide, by decide, by decide, by decide, by decide, by decide, by decide, ready _ _ (by decide),
    by decide, by decide, by decide, by decide, by decide, ready _ _ (by decide), by decide⟩

theorem witness_BitFields : Ready four 0 ∧ (four.bank 0).fits 2 1 ∧ (four.bank 0).fits 3 1 ∧ (four.bank 0).fits 1 1 :=
  ⟨ready _ _ (by decide), by decide⟩

theorem witness_AccumulatorOperations :
    Ready four 0 ∧ 2 ≤ (four.bank 0).docc ∧ (four.bank 0).fits 0 1 ∧ (four.bank 0).fits 1 0 ∧ 0 ≤ ((four.bank 0).data 0).toInt ∧
    (four.bank 0).fits 0 3 ∧ (four.bank 0).fits 3 0 ∧
    Ready (onBank (bankOf [0xFFFFFFFF])) 0 ∧ ((onBank (bankOf [0xFFFFFFFF])).bank 0).fits 1 0 ∧
    (((onBank (bankOf [0xFFFFFFFF])).bank 0).data 0).toInt < 0 :=
  ⟨ready _ _ (by decide), by decide, by decide, by decide, by decide, by decide, by decide, ready _ _ (by decide), by decide⟩

/-- Engine 0 in START with A0, A1 and C for a dot product at Machine level. -/
def dot (c : Word) (a1 : Word) : State :=
  { eng := [(0, { st := .start, run := .mach none, mb := { (((bankOf []).setAux 1 a1).setAux 5 c) with level := 3, db := true } })] }

theorem witness_DotProducts :
    let s := dot 1 0x01000000
    let t := dot 0 0x01000000
    Ready s 0 ∧ s.unlocked 0 ∧ s.starts 0 ∧ s.ce = [] ∧ (s.engAt 0).sbuf = [] ∧ (s.engAt 0).st = .start ∧ 0 < (s.bank 0).cnt ∧ (s.bank 0).cnt ≤ 1 ∧
    (∀ j < (s.bank 0).cnt, 4 * j + 3 ≤ 0xFFFF ∧ (s.who 0).level = 3 ∧ s.firstUE (lsKey 0 (4 * j)) 4 = none ∧ 4 * j ≤ 0x01000000 ∧
      (s.tmPlace (s.who 0) ((0x01000000 - 4 * j) % 0x200000) 4 false false).isSome = true ∧
      s.firstUE (tmKey 0 ((0x01000000 - 4 * j) % 0x200000)) 4 = none) ∧
    Ready t 0 ∧ (t.bank 0).cnt = 0 ∧ Ready four 0 ∧ four.unlocked 0 ∧ (four.engAt 0).st ≠ .start ∧ (four.engAt 0).st ≠ .test ∧
    (four.engAt 0).st ≠ .recover :=
  ⟨ready _ _ (by decide), by decide, by decide, by decide, by decide, by decide, by decide, by decide, by decide, ready _ _ (by decide), by decide,
    ready _ _ (by decide), by decide⟩
theorem witness_DotProducts_boundary : let s := dot 3 0x01000008
    Ready s 0 ∧ (∀ j < (s.bank 0).cnt, 4 * j ≤ 0x01000008 ∧ 0x01000000 ≤ 0x01000008 - 4 * j) ∧ 2 < (s.bank 0).cnt :=
  ⟨ready _ _ (by decide), by decide⟩

/-- The last bytes of local store in A0, A1. -/
def loading (a : Word) : State := onBank (((bankOf [1, 2]).setAux 0 a).setAux 4 0)

theorem witness_LoadsReadMemory :
    Ready (loading 0xFFF8) 0 ∧ Reads (loading 0xFFF8) 0 0xFFF8 8 (lsKey 0 0xFFF8) ∧ ((loading 0xFFF8).bank 0).fits 0 2 ∧
    Reads (loading 0xFFFC) 0 0xFFFC 4 (lsKey 0 0xFFFC) ∧ Reads (loading 0xFFFF) 0 0xFFFF 1 (lsKey 0 0xFFFF) ∧
    Reads (loading 0xFFFE) 0 0xFFFE 2 (lsKey 0 0xFFFE) ∧ ((loading 0xFFFF).bank 0).fits 0 1 ∧
    Ready (onBank (free (atA0 7 []))) 0 ∧ Reads (onBank (free (atA0 7 []))) 0 7 4 (lsKey 0 7) :=
  ⟨ready _ _ (by decide), reads _ _ _ _ _ rfl (by decide), by decide, reads _ _ _ _ _ rfl (by decide), reads _ _ _ _ _ rfl (by decide),
    reads _ _ _ _ _ rfl (by decide), by decide, ready _ _ (by decide), reads _ _ _ _ _ rfl (by decide)⟩

/-- A load of four bytes at 8, where a store of these bytes of the same line has not retired. -/
def overStore (db : Bool) (mask : Byte) (b : Begun := .none) : State :=
  onBank { atA0 8 [] with db := db } { sbuf := [{ line := lsKey 0 8, data := 0x12345678, mask := mask, wait := 0 }], begun := b }
theorem witness_LoadsReadMemory_stores :
    let d := overStore true 0xF0
    let w := overStore false 0x0F
    let p := overStore false 0x03
    let i := overStore false 0xF0 .inner
    Ready d 0 ∧ d.memPlace (d.who 0) 8 4 false true = .ok (lsKey 0 8) ∧ d.ue = [] ∧ d.ce = [] ∧ d.fences = [] ∧ d.lcs.wiping = false ∧
    (d.who 0).db = true ∧ (d.engAt 0).sbuf.length ≤ 4 ∧ (∀ y ∈ (d.engAt 0).sbuf, y.wait = 0 ∧ y.got ≤ 1) ∧ (d.bank 0).fits 0 1 ∧
    Ready w 0 ∧ w.memPlace (w.who 0) 8 4 false true = .ok (lsKey 0 8) ∧ (w.who 0).db = false ∧ (w.engAt 0).begun ≠ .inner ∧
    (∃ y, (w.engAt 0).youngest (lsKey 0 8) 4 = some y ∧ ∀ j, j < 4 → y.holds (lsKey 0 8 + j) = true) ∧
    Ready p 0 ∧ p.memPlace (p.who 0) 8 4 false true = .ok (lsKey 0 8) ∧
    (∃ y, (p.engAt 0).youngest (lsKey 0 8) 4 = some y ∧ y.holds (lsKey 0 8 + 2) = false) ∧
    Ready i 0 ∧ i.memPlace (i.who 0) 8 4 false true = .ok (lsKey 0 8) ∧ (i.engAt 0).begun = .inner ∧ (i.engAt 0).sbuf ≠ [] ∧
    (i.engAt 0).youngest (lsKey 0 8) 4 = none :=
  ⟨ready _ _ (by decide), rfl, by decide, by decide, by decide, by decide, by decide, by decide, by decide, by decide,
    ready _ _ (by decide), rfl, by decide, by decide, ⟨_, rfl, by decide⟩, ready _ _ (by decide), rfl, ⟨_, rfl, by decide⟩,
    ready _ _ (by decide), rfl, by decide⟩

/-- Entries of a store buffer. -/
def waitingStores (n : Nat) : List SBE := List.replicate n { line := lsKey 0 0, data := 5, mask := 1 }
/-- A store with `n` entries before it. -/
def storing (n : Nat) : State := onBank ((bankOf [1, 2]).setAux 0 0xFFF8) { sbuf := waitingStores n }

theorem witness_StoresRetire :
    Ready (storing 2) 0 ∧ (storing 2).memPlace ((storing 2).who 0) 0xFFF8 8 true true = .ok (lsKey 0 0xFFF8) ∧
    2 ≤ ((storing 2).bank 0).docc ∧ ((storing 2).engAt 0).sbuf.length ≤ 2 ∧ ((storing 2).who 0).db = true ∧
    Ready (storing 4) 0 ∧ 4 ≤ ((storing 4).engAt 0).sbuf.length ∧ ((storing 4).who 0).db = true ∧
    Ready (onBank (free (atA0 0xFFFC [1]))) 0 ∧
    (onBank (free (atA0 0xFFFC [1]))).memPlace ((onBank (free (atA0 0xFFFC [1]))).who 0) 0xFFFC 4 true true = .ok (lsKey 0 0xFFFC) ∧
    ((onBank (free (atA0 0xFFFC [1]))).engAt 0).sbuf = [] :=
  ⟨ready _ _ (by decide), rfl, by decide, by decide, by decide, ready _ _ (by decide), by decide, by decide, ready _ _ (by decide), rfl,
    by decide⟩
theorem witness_StoresRetire_retire :
    let f := onBank (free (bankOf [])) { sbuf := waitingStores 1 }
    (storing 1).hasEngine 0 = true ∧ ((storing 1).engAt 0).sbuf = { line := lsKey 0 0, data := 5, mask := 1 } :: [] ∧ lsKey 0 0 % 8 = 0 ∧
    (storing 1).slotted 0 = true ∧ f.slotted 0 = false ∧ (f.engAt 0).sbuf = { line := lsKey 0 0, data := 5, mask := 1 } :: [] ∧
    f.isUE (lsKey 0 0) = false ∧ f.bankFenced (lsKey 0 0) = false ∧ Beat.idle.free = true ∧ Beat.port.free = false ∧
    ({ line := 0, data := 5, mask := 1, wait := 0 } : SBE).done = false := by decide

theorem witness_AddressChecksFault :
    (∀ a ∈ [0x10000, 0x00FFFFFF, 0x01208000, 0x01FFFFFF, 0x03011000, 0x3FFFFFFF, 0x80000000, 0xFFFFFFFF, 0xFFFD, 0xFFFF, 0x02100001,
        0x021004FB, 0x40000000, 0x7FFFFFFC, 0x01200000, 0x01207FFC],
      let s := onBank (atA0 (BitVec.ofNat 32 a) [1])
      (s.hasEngine 0 && s.canRun 0 && (s.preIssue 0).isNone && (s.engAt 0).undebugged) = true ∧ 1 ≤ (s.bank 0).docc ∧
      ((s.bank 0).auxR 0).toNat = a ∧ (s.who 0).db = true ∧ (s.who 0).level ≠ 3 ∧ (s.who 0).world = false) := by decide
theorem witness_AddressChecksFault_spill : let s := onBank (atA0 0x100 [1]) { spillRgn := 0x20400020 }
    Ready s 0 ∧ (s.who 0).level ≠ 3 ∧ (s.engAt 0).inSpill 0x100 4 = true :=
  ⟨ready _ _ (by decide), by decide⟩

/-- Registers to save at address 16. -/
def saving : State := onBank (bankOf [16])

theorem witness_SaveAndLoadRegisters :
    Ready saving 0 ∧ 1 ≤ (saving.bank 0).docc ∧ (saving.engAt 0).sbuf = [] ∧ lsKey 0 16 % 8 = 0 ∧ ((saving.bank 0).data 0).toNat % 8 = 0 ∧
    (∀ i < 4, saving.memPlace (saving.who 0) (((saving.bank 0).data 0).toNat + 8 * i) 8 true true = .ok (lsKey 0 16 + 8 * i)) ∧
    (∀ i < 4, saving.memPlace (saving.who 0) (((saving.bank 0).data 0).toNat + 8 * i) 8 false true = .ok (lsKey 0 16 + 8 * i)) ∧
    (∀ i < 4, saving.isUE (lsKey 0 16 + 8 * i) = false ∧ saving.bankFenced (lsKey 0 16 + 8 * i) = false ∧
      saving.ce.contains (lsKey 0 16 + 8 * i) = false ∧ saving.sealWiping (lsKey 0 16 + 8 * i) = false) := by
  refine ⟨ready _ _ (by decide), by decide, by decide, by decide, by decide, ?_, ?_, by decide⟩ <;>
    (intro i h; match i, h with | 0, _ => rfl | 1, _ => rfl | 2, _ => rfl | 3, _ => rfl)

theorem witness_SaveAndLoadRegisters_empty :
    let s := onBank (bankOf [17])
    Ready s 0 ∧ 1 ≤ (s.bank 0).docc ∧ (s.engAt 0).sbuf = [] ∧ lsKey 0 16 % 8 = 0 ∧ ((s.bank 0).data 0).toNat % 8 ≠ 0 ∧
    ((List.range 8).filter (fun r => (0#8).getLsbD r)).length = 0 :=
  ⟨ready _ _ (by decide), by decide⟩

/-- Elements to move from 0 to 8, or downwards from 8 to 16. -/
def moving (a0 a1 : Word) : State := onBank ((((bankOf [1, 2]).setAux 0 a0).setAux 1 a1).setAux 5 2)

theorem witness_MoveAndFillElements :
    let s := moving 0 8
    let d := moving 8 16
    Ready s 0 ∧ s.unlocked 0 ∧ s.starts 0 ∧ (s.engAt 0).sbuf = [] ∧ (s.engAt 0).st ≠ .fenced ∧ s.ce = [] ∧ s.ue = [] ∧ s.fences = [] ∧
    s.lcs.wiping = false ∧ (s.bank 0).cnt = 2 ∧ 2 ≤ (s.bank 0).docc ∧
    (∀ i < 2, s.memPlace (s.who 0) (0 + 4 * i) 4 false false = .ok (lsKey 0 0 + 4 * i) ∧
      s.memPlace (s.who 0) (8 + 4 * i) 4 true false = .ok (lsKey 0 8 + 4 * i)) ∧ lsKey 0 0 + 4 * 2 ≤ lsKey 0 8 ∧ (s.who 0).db = true ∧
    Ready d 0 ∧
    (∀ i < 2, 4 * (i + 1) ≤ 8 ∧ d.memPlace (d.who 0) (8 - 4 * (i + 1)) 4 false false = .ok (lsKey 0 8 - 4 * (i + 1)) ∧
      d.memPlace (d.who 0) (16 - 4 * (i + 1)) 4 true false = .ok (lsKey 0 16 - 4 * (i + 1))) ∧ lsKey 0 8 ≤ lsKey 0 16 := by
  refine ⟨ready _ _ (by decide), by decide, by decide, by decide, by decide, by decide, by decide, by decide, by decide, by decide,
    by decide, ?_, by decide, by decide, ready _ _ (by decide), ?_, by decide⟩ <;>
    (intro i h; match i, h with | 0, _ => (first | exact ⟨rfl, rfl⟩ | exact ⟨by decide, rfl, rfl⟩) | 1, _ => (first | exact ⟨rfl, rfl⟩ | exact ⟨by decide, rfl, rfl⟩))

theorem witness_BranchesFollowConditions :
    let s := onBank (bankOf [0])
    let t := onBank { bankOf [0] with pc := 0 }
    Ready s 0 ∧ s.unlocked 0 ∧ s.tracing = false ∧ 1 ≤ (s.bank 0).docc ∧ fetchable (s.who 0).db 10 = true ∧
    BitVec.ofInt 32 ((s.bank 0).pc.toInt + 2 + 2 * (4#13).toInt) = 10 ∧
    fetchable (t.who 0).db (BitVec.ofInt 32 ((t.bank 0).pc.toInt + 2 + 2 * (0x1FF0#13).toInt)).toNat = false ∧
    fetchable (t.who 0).db (BitVec.ofInt 32 ((t.bank 0).pc.toInt + 2 + 2 * (0x3F0#10).toInt)).toNat = false ∧
    (s.bank 0).fl.z = false ∧ ((s.bank 0).data 0 == 0) = true :=
  ⟨ready _ _ (by decide), by decide⟩

theorem witness_CallsPushFrames :
    let s := onBank { (bankOf [0x40]).rpush 1 0 with rocc := 9 }
    let o := onBank (bankOf [0x41])
    Ready s 0 ∧ s.unlocked 0 ∧ s.tracing = false ∧ (s.bank 0).rocc + 1 + 2 * 3 ≤ 16 ∧ 1 ≤ (s.bank 0).docc ∧
    fetchable (s.who 0).db ((s.bank 0).pc + 2 + 2 * (4#10).signExtend 32).toNat = true ∧
    fetchable (s.who 0).db ((s.bank 0).data 0).toNat = true ∧ ((s.bank 0).data 0).getLsbD 0 = false ∧
    fetchable (s.who 0).db ((s.bank 0).pc + 2 + 2 * (0x3F0#10).signExtend 32).toNat = false ∧
    Ready o 0 ∧ fetchable (o.who 0).db ((o.bank 0).data 0).toNat = true ∧ ((o.bank 0).data 0).getLsbD 0 = true :=
  ⟨ready _ _ (by decide), by decide, by decide, by decide, by decide, by decide, by decide, by decide, by decide, ready _ _ (by decide),
    by decide⟩

/-- A call with two saved registers, and the state it leaves. -/
def calling : State := onBank { bankOf [] with rocc := 13 }

theorem witness_ReturnUndoesCall :
    let u := after (.call 0 1 4) calling
    Ready calling 0 ∧ calling.unlocked 0 ∧ calling.tracing = false ∧ (calling.bank 0).rocc + 1 + 2 ≤ 16 ∧
    fetchable (calling.who 0).db ((calling.bank 0).relTarget ((4#10).signExtend 32)).toNat = true ∧
    exec (.call 0 1 4) calling = .next u ∧ (u.engAt 0).run = (calling.engAt 0).run ∧ Ready u 0 ∧ u.unlocked 0 ∧ u.tracing = false ∧
    fetchable (u.who 0).db ((calling.bank 0).pc + 2).toNat = true :=
  ⟨ready _ _ (by decide), by decide, by decide, by decide, by decide, rfl, by decide, ready _ _ (by decide), by decide⟩
theorem witness_ReturnUndoesCall_frame :
    let s := onBank ((((bankOf []).rpush 5 16).rpush 6 16).rpush 0x40 9)
    let b := onBank ((bankOf []).rpush 0xFFFE 8)
    Ready s 0 ∧ s.unlocked 0 ∧ s.tracing = false ∧ ((s.bank 0).rtag 0).toNat = 8 + (1#3).toNat ∧ 1 + 2 ≤ (s.bank 0).rocc ∧
    ((List.range 6).filter (fun r => (1#3).getLsbD (r / 2))).length = 2 ∧ (∀ i < 2, ((s.bank 0).rtag (1 + i)).toNat / 8 = 2) ∧
    fetchable (s.who 0).db ((s.bank 0).ret 0).toNat = true ∧
    Ready b 0 ∧ ((b.bank 0).rtag 0).toNat = 8 + (0#3).toNat ∧ 1 ≤ (b.bank 0).rocc ∧ fetchable (b.who 0).db ((b.bank 0).ret 0).toNat = true :=
  ⟨ready _ _ (by decide), by decide, by decide, by decide, by decide, by decide, by decide, by decide, ready _ _ (by decide), by decide⟩
theorem witness_ReturnUndoesCall_traps :
    let n := onBank (bankOf [])
    let o := onBank ((bankOf []).rpush 4 11)
    Ready n 0 ∧ n.unlocked 0 ∧ (n.bank 0).rocc = 0 ∧ (n.bank 0).rused = 0 ∧
    Ready (onRet 0) 0 ∧ 1 ≤ ((onRet 0).bank 0).rocc ∧ tagKind (((onRet 0).bank 0).rtag 0) ≠ 1 ∧
    Ready o 0 ∧ 1 ≤ (o.bank 0).rocc ∧ ((o.bank 0).rtag 0).toNat = 8 + (3#3).toNat ∧ (o.bank 0).rocc + (o.bank 0).rused < 3 :=
  ⟨ready _ _ (by decide), by decide, by decide, by decide, ready _ _ (by decide), by decide, by decide, ready _ _ (by decide), by decide⟩

theorem witness_WaitsAndYields :
    let s := onBank (bankOf [])
    let f := onBank (free (bankOf []))
    let e := onBank { free (bankOf []) with evpend := 1, evmask := 1 }
    let beat (s : State) : State := ((s.fetched 0).pass 0 [.idle]).settle 0
    Ready s 0 ∧ s.unlocked 0 ∧ ((beat s).engAt 0).sbuf = [] ∧ ((beat s).engAt 0).st ≠ .fenced ∧ (s.who 0).db = true ∧
    Ready (storing 1) 0 ∧ ((beat (storing 1)).engAt 0).sbuf ≠ [] ∧
    Ready f 0 ∧ (f.who 0).db = false ∧ (f.bank 0).evpend &&& (f.bank 0).evmask = 0 ∧ ((beat f).engAt 0).bq = [] ∧
    Ready e 0 ∧ (e.who 0).db = false ∧ (e.bank 0).evpend &&& (e.bank 0).evmask ≠ 0 :=
  ⟨ready _ _ (by decide), by decide, by decide, by decide, by decide, ready _ _ (by decide), by decide, ready _ _ (by decide), by decide,
    by decide, by decide, ready _ _ (by decide), by decide⟩
theorem witness_WaitsAndYields_yield :
    let s := onBank { bankOf [] with act := some { relAt := 0 }, budget := 1 }
    let m := onBank { bankOf [] with level := 3 }
    let beat (s : State) : State := ((s.fetched 0).pass 0 [.idle]).settle 0
    Ready s 0 ∧ s.unlocked 0 ∧ (s.engAt 0).run = .ctx 0 ∧ (beat s).tracing = false ∧ (s.ctxAt 0).level ≠ 3 ∧ ((beat s).engAt 0).sbuf = [] ∧
    (s.ctxAt 0).beats + 1 ≤ (s.ctxAt 0).budget ∧ (beat s).retired (s.ctxAt 0) = false ∧
    Ready (storing 1) 0 ∧ ((beat (storing 1)).engAt 0).sbuf ≠ [] ∧ Ready m 0 ∧ (m.ctxAt 0).level = 3 :=
  ⟨ready _ _ (by decide), by decide, by decide, by decide, by decide, by decide, by decide, by decide, ready _ _ (by decide), by decide,
    ready _ _ (by decide), by decide⟩

theorem witness_LockBrackets :
    let s := onBank (bankOf [])
    let l := onBank (bankOf []) { lock := 1, lockBeats := 15 }
    let x := onBank (bankOf []) { lock := 1, lockBeats := 16 }
    Ready s 0 ∧ s.unlocked 0 ∧ (1 ≤ (1#4).toNat ∧ (8#4).toNat ≤ 8) ∧ (8 < (9#4).toNat) ∧
    Ready l 0 ∧ 0 < (l.engAt 0).lock ∧ (l.engAt 0).lockBeats + 1 ≤ 16 ∧
    x.hasEngine 0 = true ∧ 0 < (x.engAt 0).lock ∧ 16 ≤ (x.engAt 0).lockBeats ∧
    (x.engAt 0).dbg.stepping = false ∧ (l.engAt 0).lock ≠ 0 :=
  ⟨ready _ _ (by decide), by decide, by decide, by decide, ready _ _ (by decide), by decide⟩

/-- REP before an ADD, or before a JMP. -/
def repeating (n : Word) (w : Byte) : State := { onBank ((bankOf [1, 2]).setAux 5 n) with mem := if w = 0 then [] else [(lsKey 0 3, w)] }

theorem witness_RepetitionsCountDown :
    Ready (repeating 0 0x61) 0 ∧ (repeating 0 0x61).unlocked 0 ∧ (repeating 0 0x61).tracing = false ∧
    rgnOf (((repeating 0 0x61).bank 0).pc.toNat + 2) = some .ls ∧ repLegal ((repeating 0 0x61).fetch 0 2) = true ∧
    ((repeating 0 0x61).bank 0).cnt = 0 ∧ Ready (repeating 1 0x61) 0 ∧ 0 < ((repeating 1 0x61).bank 0).cnt ∧
    repLegal ((repeating 1 0x61).fetch 0 2) = true ∧ Ready (repeating 1 0) 0 ∧ repLegal ((repeating 1 0).fetch 0 2) = false ∧
    ({ rep := true, aux := [(5, 1)] } : Ctx).cnt = 1 ∧ ({ rep := true, aux := [(5, 2)] } : Ctx).cnt = 2 ∧ repLegal 0x6100 = true :=
  ⟨ready _ _ (by decide), by decide, by decide, by decide, by decide, by decide, ready _ _ (by decide), by decide, by decide,
    ready _ _ (by decide), by decide⟩

theorem witness_SoftwareFaults :
    let s := onBank (bankOf []) { dbg := { bkhalt := true, ctxm := 0 } }
    Ready four 0 ∧ four.unlocked 0 ∧ (four.engAt 0).dbg.bkhalt = false ∧
    Ready s 0 ∧ s.unlocked 0 ∧ (s.engAt 0).dbg.bkhalt = true ∧ (s.who 0).level ≠ 3 ∧
    (s.engAt 0).dbg.ctxm.toNat = (s.who 0).lctx % 1024 ∧ s.lcs.st ≠ .scrapped ∧
    undefinedWord 0x7A00 = true ∧ undefinedWord 0x7FFF = true :=
  ⟨ready _ _ (by decide), by decide, by decide, ready _ _ (by decide), by decide⟩

/-- Engine 0 runs a free-mode context with a handler at S. -/
def atS (nest rocc : Nat) : State := onBank { free (bankOf []) with vbase := 0x1001, nest := nest, rocc := rocc }

theorem witness_SupervisorEntries :
    ((atS 0 0).engAt 0).run = .ctx 0 ∧ ((atS 0 0).engAt 0).sbuf = [] ∧ ((atS 0 0).engAt 0).dbg.stepping = false ∧
    ((atS 0 0).ctxAt 0).toMachine { code := 0xC, arg := 0xBF } = false ∧ ((atS 0 0).ctxAt 0).nest = 0 ∧
    ((atS 0 0).ctxAt 0).toMachine { code := 9 } = true ∧ (atS 0 0).tracing = false ∧
    0 < ((atS 1 8).ctxAt 0).nest ∧ ((atS 1 8).ctxAt 0).toMachine { code := 1 } = false ∧ ((atS 1 8).ctxAt 0).rocc + 8 ≤ 16 ∧
    16 < ((atS 1 9).ctxAt 0).rocc + 8 ∧ ((atS 1 9).ctxAt 0).rsize ≤ ((atS 1 9).ctxAt 0).rused := by decide

theorem witness_MachineEntries :
    let m := onMach (bankOf [])
    let d : State := { m with fw := [(0, { en := 0 })] }
    (four.engAt 0).run = .ctx 0 ∧ (four.ctxAt 0).toMachine { code := 1 } = true ∧ four.tracing = false ∧ (four.engAt 0).sbuf = [] ∧
    (four.engAt 0).dbg.stepping = false ∧ (m.engAt 0).sbuf = [] ∧ (m.engAt 0).dbg.stepping = false ∧ (m.engAt 0).run = .mach (some 0) ∧ m.hasEngine 0 = true ∧ (m.engAt 0).st ≠ .off ∧ m.quench = [] ∧
    (m.fwAt 0).en.getLsbD 2 = true ∧ (m.fwAt 0).capValid = false ∧ (d.fwAt 0).en.getLsbD 2 = false := by decide

theorem witness_MachineEntries_ecc :
    let s : State := { four with fw := [(0, { fwDefault 0 with sev := 8 })] }
    (s.engAt 0).run = .ctx 0 ∧ (s.ctxAt 0).toMachine { code := 0xB } = true ∧ s.tracing = false ∧ (s.fwAt 0).sevOf 1 = 1 ∧
    (s.engAt 0).sbuf = [] ∧ (s.engAt 0).dbg.stepping = false := by decide
/-- At the reset severities, code of the Machine level that runs out of its stack. -/
theorem witness_MachineEntries_stack :
    let m := onMach (bankOf [])
    (m.engAt 0).run = .mach (some 0) ∧ m.hasEngine 0 = true ∧ (m.engAt 0).st ≠ .off ∧ (m.engAt 0).st ≠ .fenced ∧ m.quench = [] ∧
    (m.engAt 0).sbuf = [] ∧ (m.engAt 0).dbg.stepping = false ∧ (m.fwAt 0).en.getLsbD 3 = true ∧ (m.fwAt 0).sevOf 3 = 3 ∧
    (m.fwAt 0).sevOf 2 = 3 ∧ (m.fwAt 0).capValid = false ∧ (m.trainAt 0).rot = none := by decide

theorem witness_ReturnUndoesEntry :
    let u := (atS 0 0).takeFault 0 { code := 1 } { pc := 0x20 }
    let v := four.takeFault 0 { code := 1 } { pc := 0x20 }
    (((atS 0 0).engAt 0).run = .ctx 0 ∧ ((atS 0 0).engAt 0).sbuf = [] ∧ (u.engAt 0).sbuf = [] ∧ (v.engAt 0).sbuf = []) ∧
    (atS 0 0).tracing = false ∧ u.tracing = false ∧ Ready u 0 ∧ u.unlocked 0 ∧
    ((atS 0 0).ctxAt 0).toMachine { code := 1 } = false ∧ ((atS 0 0).ctxAt 0).level.toNat ≤ 1 ∧ (u.ctxAt 0).nest = 1 ∧
    (u.ctxAt 0).level = 1 ∧ (u.ctxAt 0).world = ((atS 0 0).ctxAt 0).world ∧ fetchable (u.ctxAt 0).db 0x20 = true ∧
    Ready v 0 ∧ v.unlocked 0 ∧ (four.ctxAt 0).toMachine { code := 1 } = true ∧ (v.engAt 0).mb.nest = 1 ∧ fetchable (v.ctxAt 0).db 0x20 = true :=
  ⟨by decide, by decide, by decide, ready _ _ (by decide), by decide, by decide, by decide, by decide, by decide, by decide, by decide,
    ready _ _ (by decide), by decide⟩
/-- A context at S, two entries deep, with these two words of its shadow bank. -/
def sealedBy (state sl : Word) : State := onBank { free (bankOf []) with level := 1, nest := 2, sh := [(1, state), (7, sl)] }
theorem witness_ReturnUndoesEntry_checks :
    let n := onBank { free (bankOf []) with level := 1 }
    Ready n 0 ∧ n.unlocked 0 ∧ (n.engAt 0).run = .ctx 0 ∧ (n.ctxAt 0).nest = 0 ∧
    Ready (sealedBy 0 0) 0 ∧ 0 < ((sealedBy 0 0).ctxAt 0).nest ∧ (((sealedBy 0 0).ctxAt 0).shw 7).extractLsb' 4 2 ≠ 1 ∧
    Ready (sealedBy 0 0x10) 0 ∧ (((sealedBy 0 0x10).ctxAt 0).shw 7).extractLsb' 4 2 = 1 ∧
    ((((sealedBy 0 0x10).ctxAt 0).shw 7).extractLsb' 16 16).toNat ≠ 2 ∧
    Ready (sealedBy 0x04000000 0x20010) 0 ∧ ((((sealedBy 0x04000000 0x20010).ctxAt 0).shw 7).extractLsb' 16 16).toNat = 2 ∧
    (((sealedBy 0x04000000 0x20010).ctxAt 0).shw 1).getLsbD 26 = true ∧
    Ready (sealedBy 0x01000000 0x20010) 0 ∧ (((sealedBy 0x01000000 0x20010).ctxAt 0).shw 1).getLsbD 26 = false ∧
    0 < ((((sealedBy 0x01000000 0x20010).ctxAt 0).shw 1).extractLsb' 24 2).toNat :=
  ⟨ready _ _ (by decide), by decide, by decide, by decide, ready _ _ (by decide), by decide, by decide, ready _ _ (by decide), by decide,
    by decide, ready _ _ (by decide), by decide, by decide, ready _ _ (by decide), by decide⟩

theorem witness_CsrAccess :
    let s := onBank { bankOf [1] with level := 1, nest := 1 }
    let m := onMach (bankOf [0])
    Ready four 0 ∧ four.starts 0 ∧ (four.bank 0).fits 0 1 ∧ (four.engAt 0).run = .ctx 0 ∧ (four.who 0).level < 1 ∧ 1 ≤ (four.bank 0).docc ∧
    Ready s 0 ∧ 1 ≤ (s.who 0).level ∧ 0 < (s.bank 0).nest ∧ ((s.bank 0).data 0).getLsbD 0 = true ∧
    Ready m 0 ∧ (m.who 0).level = 3 ∧ Max.max ((m.fwAt 0).sevOf 12) (((m.bank 0).data 0).extractLsb' 24 3).toNat ≤ 1 ∧
    (((m.bank 0).data 0).extractLsb' 24 3).toNat ≤ 4 ∧ (m.fwAt 0).en.getLsbD 12 = true ∧ m.quench = [] ∧ (m.fwAt 0).capValid = false :=
  ⟨ready _ _ (by decide), by decide, by decide, by decide, by decide, by decide, ready _ _ (by decide), by decide, by decide, by decide,
    ready _ _ (by decide), by decide⟩

theorem witness_SpillsAndFills :
    let e := onBank (bankOf [])
    let u := onBank { bankOf [] with dused := 1, rused := 1 }
    let f := onBank { bankOf (List.replicate 32 7) with rocc := 16 }
    let r := onBank { bankOf (List.replicate 32 7) with rocc := 16, dspill := 0x00040000, rspill := 0x00040000 }
    Ready e 0 ∧ (e.bank 0).docc < 2 ∧ (e.bank 0).dused = 0 ∧ (e.bank 0).rocc = 0 ∧ (e.bank 0).rused = 0 ∧
    Ready u 0 ∧ 0 < (u.bank 0).dused ∧ 0 < (u.bank 0).rused ∧
    Ready f 0 ∧ (f.bank 0).docc = 32 ∧ (f.bank 0).dsize ≤ (f.bank 0).dused ∧ (f.bank 0).rocc = 16 ∧ (f.bank 0).rsize ≤ (f.bank 0).rused ∧
    Ready r 0 ∧ (r.bank 0).dused < (r.bank 0).dsize ∧ (r.bank 0).rused < (r.bank 0).rsize :=
  ⟨ready _ _ (by decide), by decide, by decide, by decide, by decide, ready _ _ (by decide), by decide, by decide, ready _ _ (by decide),
    by decide, by decide, by decide, by decide, ready _ _ (by decide), by decide⟩
/-- An engine whose fusee has a batch to move. -/
def batching (op : FuseeOp) : State :=
  onBank { bankOf (List.replicate 32 7) with rocc := 16, dspill := 0x00040000, rspill := 0x00040000 } { fusee := some op }
theorem witness_SpillsAndFills_batches :
    let d := batching .spillData
    let r := batching .spillReturn
    d.hasEngine 0 = true ∧ (d.bank 0).sound = true ∧ (d.engAt 0).sbuf = [] ∧ (d.engAt 0).run ≠ .parked ∧ (d.engAt 0).st ≠ .fenced ∧ d.ce = [] ∧
    8 ≤ (d.bank 0).docc ∧ (d.bank 0).docc ≤ 32 ∧ (d.bank 0).dused + 4 ≤ (d.bank 0).dsize ∧ (d.engAt 0).fusee = some .spillData ∧
    (after (.fuseeBatch 0 .spillData) d).ue = [] ∧
    4 ≤ (r.bank 0).rocc ∧ (r.bank 0).rocc ≤ 16 ∧ (r.bank 0).rused + 4 ≤ (r.bank 0).rsize ∧ (r.engAt 0).fusee = some .spillReturn ∧
    (after (.fuseeBatch 0 .spillReturn) r).ue = [] := by decide

/-! ### A small movement image in force -/

/-- A CONTEXTS entry of train 0, position 0. -/
def ctxEntryOf (lctx : Nat) (db : Bool) (groups : BitVec 64) : CtxE :=
  { ofs := 0, lctx := lctx, train := 0, pos := 0, slot := lctx, db := db, world := false, home := 0, template := false, event := !db
    pdepth := 1, ebudget := 10, entry := 0x100, restart := 0x200, kbase := 0, vbase := 0, dspill := 0, rspill := 0, evmask := 1
    evctl := 0, evlat := 0, initMask := 0, aux := [], qinit := false, q := 0, pers := [], carry := 0, groups := groups, axgrp := 0 }

/-- Two contexts, one table with an entry of each kind, routes of each kind, one guarded group, an area with one block, a mailbox,
a queue, a machine entry, a generator of 8,000 ticks. -/
def image : Image :=
  { hdr := { layoutGen := 0 }
    ctxs := [ctxEntryOf 0 true 1, ctxEntryOf 1 false 0]
    tables := [{ ofs := 0, train := 0, pos := 0, pg := 0, entries := [
      { start := 0, kind := 0, lctx := 0, budget := 100 }, { start := 2000, kind := 1, lctx := 1, budget := 50 },
      { start := 4000, kind := 2, lctx := 0, budget := 0 }] }]
    wakes := [{ ofs := 0, members := [1] }]
    periods := [{ ofs := 0, period := 8000, phase := 0, hostev := true }]
    machs := [{ ofs := 0, train := 0, pos := 0, md := 1, mr := 1, mhb := 10, mvbase := 0x1000, spillRgn := 0, master := 0x8000, mlen := 8, digest := [] }]
    routes := [
      { ofs := 0, kind := 0, world := false, chan := 0, trains := 1, pg := 0, owner := 0, arrive := 8, group := 0 },
      { ofs := 0, kind := 1, world := false, chan := 0, trains := 0, pg := 0, owner := 0, arrive := 0, group := 0 },
      { ofs := 0, kind := 2, world := false, chan := 0, trains := 0, pg := 0, owner := 0, arrive := 0, group := 0 },
      { ofs := 0, kind := 3, world := false, chan := 0, trains := 0, pg := 0, owner := 0, arrive := 0, group := 0 }]
    groups := [{ ofs := 0, group := 0, policy := 0, tripguard := true, world := false, template := false, pg := 0, commit := 4000, safe := [5] }]
    carries := [
      { ofs := 0, lctx := 0xFFFF, train := 0, npers := 0, offset := 0x1000, length := 4, auxmap := 0, qmap := false },
      { ofs := 0, lctx := 0, train := 0, npers := 1, offset := 0, length := 2, auxmap := 0, qmap := false }]
    sources := [{ ofs := 0, lctx := 1, bit := 0, kind := 0, index := 0 }, { ofs := 0, lctx := 1, bit := 31, kind := 4, index := 0 }]
    mboxes := [{ ofs := 0, train := 0, mb := 0, appToSafe := false, world := false, receiver := 1, senders := [0] },
      { ofs := 0, train := 0, mb := 1, appToSafe := false, world := false, receiver := 0, senders := [1] }]
    queues := [{ ofs := 0, train := 0, qnum := 0, base := 0x2000, size := 4096, maxreq := 1024 }] }

/-- The image in force at tick `now`, engine 0 in SERVICE with these two contexts. -/
def live (now : Word64) (c0 c1 : Ctx) (e : Engine := {}) : State :=
  { time := now, slotA := { st := .running, img := image }
    eng := [(0, { e with st := .service })]
    ctx := [(0, { c0 with db := true, lctx := 0 }), (1, { c1 with db := false, lctx := 1 })] }

/-- Both contexts wait for their releases. -/
def idling (now : Word64) (evpend : Word := 0) : State := live now { st := .idle, pdepth := 1 } { st := .idle, evpend := evpend, evmask := 1 }

/-- Context 0 runs with this bank. -/
def running0 (c : Ctx) (e : Engine := {}) : State := live 0 { c with st := .running } { st := .idle } { e with run := .ctx 0 }

/-- An engine of a variant runs Machine-level code. -/
def inMachine (c : Ctx) : State := live 0 { st := .running } { st := .idle } { run := .mach (some 0), mb := { c with level := 3, db := true } }

theorem witness_Windows :
    (∀ a ∈ [0x02100000, 0x02200000, 0x02300000, 0x0230001C, 0x02300020, 0x02400000, 0x0240003C, 0x02400040, 0x03000FFC, 0x03010000],
      let s := running0 (atA0 (BitVec.ofNat 32 a) [1])
      (s.hasEngine 0 && s.canRun 0 && (s.preIssue 0).isNone && (s.engAt 0).undebugged) = true ∧
      ((s.bank 0).auxR 0).toNat = a ∧ (s.bank 0).fits 0 1 ∧ 1 ≤ (s.bank 0).docc ∧ (s.who 0).level ≠ 3 ∧ (s.who 0).gen = false ∧
      (s.who 0).lctx = 0 ∧ (s.engAt 0).sbuf = []) := by decide
theorem witness_Windows_rights :
    let s := running0 (atA0 0x02100000 [0x30000001])
    (∃ r, s.outRoute 0 = some (false, r) ∧ r.owner = 0) ∧ s.outRoute 319 = none ∧ (∃ r, s.cvcRoute 0 = some (false, r) ∧ r.owner = 0) ∧
    s.cvcRoute 63 = none ∧ s.pubPlace false 0 0 4 = some (some (tmKey 0 0x1000)) ∧ s.firstUE (tmKey 0 0x1000) 4 = none ∧
    s.pubPlace false 0 16 4 = some none ∧ s.pubPlace false 0 32 4 = none ∧ s.mboxLoad (s.who 0) 0 1 = true ∧
    s.mboxLoad (s.who 0) 0 2 = false ∧ s.mboxParty (s.who 0) 0 0 = true ∧ s.mboxParty (s.who 0) 0 2 = false ∧
    s.fences.contains (.command 0) = false ∧ (s.cvcAt 0).st = 0 ∧ (s.cvcAt 0).stale = false ∧ ((s.bank 0).data 0).extractLsb' 28 4 = 3 ∧
    ((s.bank 0).data 0).extractLsb' 8 20 = 0 :=
  ⟨⟨_, rfl, rfl⟩, by decide, ⟨_, rfl, rfl⟩, by decide⟩
theorem witness_Windows_machine :
    let s := inMachine (atA0 0x03000040 [1])
    let t := inMachine (atA0 0x03010204 [1])
    Ready s 0 ∧ (s.who 0).level = 3 ∧ ((s.bank 0).auxR 0).toNat = 0x03000000 + 0x40 ∧
    Ready t 0 ∧ (t.who 0).level = 3 ∧ ((t.bank 0).auxR 0).toNat = 0x03010000 + 0x204 ∧ ((t.fetched 0).trainCtlRead 0 0x204 true false).isSome = true :=
  ⟨ready _ _ (by decide), by decide, by decide, ready _ _ (by decide), by decide⟩
theorem witness_Windows_checker :
    let s : State := { running0 (atA0 0x02100000 [1]) with
      slotA := { st := .running, img := { image with
        routes := [{ ofs := 0, kind := 1, world := false, chan := 0, trains := 0, pg := 0, owner := 1, arrive := 0, group := 0 }]
        faults := [.pair 0 0 4 0] } } }
    let w := running0 (atA0 0x02400000 [1]) { sbuf := waitingStores 1 }
    Ready s 0 ∧ s.stagingRight (s.who 0) 0 = some true ∧ Ready w 0 ∧ w.mboxParty (w.who 0) 0 0 = true ∧ (w.engAt 0).sbuf ≠ [] :=
  ⟨ready _ _ (by decide), by decide, ready _ _ (by decide), by decide⟩
theorem witness_Windows_stimulus :
    let s : State := { running0 (atA0 0x03000800 []) with variant := .sx24 }
    Ready s 0 ∧ (s.who 0).level ≠ 3 ∧ s.variant.optional = false ∧ ((s.bank 0).auxR 0).toNat = 0x03000000 + 0x800 :=
  ⟨ready _ _ (by decide), by decide⟩
theorem witness_Windows_read_only :
    (∀ a ∈ [0x02000000, 0x020003FF, 0x02300000, 0x0237FFFF],
      let s := running0 (atA0 (BitVec.ofNat 32 a) [1])
      (s.hasEngine 0 && s.canRun 0 && (s.preIssue 0).isNone && (s.engAt 0).undebugged) = true ∧
      ((s.bank 0).auxR 0).toNat = a ∧ 1 ≤ (s.bank 0).docc) := by decide

theorem witness_MachineHandlersEnd :
    let s := inMachine (bankOf [1])
    let r := inMachine (bankOf [2])
    let z := inMachine (bankOf [0])
    Ready s 0 ∧ (s.engAt 0).run = .mach (some 0) ∧ s.unlocked 0 ∧ (s.engAt 0).sbuf = [] ∧ 1 ≤ (s.engAt 0).mb.docc ∧ s.retired (s.ctxAt 0) = false ∧
    ({ s.ctxAt 0 with beats := (s.ctxAt 0).beats + 2 }).overdue = false ∧ ((s.engAt 0).mb.data 0).getLsbD 1 = false ∧
    ((s.engAt 0).mb.data 0).getLsbD 0 = true ∧
    Ready r 0 ∧ ((r.engAt 0).mb.data 0).getLsbD 1 = true ∧ r.ctxEntry (r.ctxAt 0).gen (r.ctxAt 0).lctx = some (ctxEntryOf 0 true 1) ∧
    r.restoreWords (r.ctxAt 0).gen (r.ctxAt 0).lctx = some [0, 0, 0, 0] ∧ Ready z 0 ∧ (z.engAt 0).mb.data 0 &&& 3 = 0 :=
  ⟨ready _ _ (by decide), by decide, by decide, by decide, by decide, by decide, by decide, by decide, by decide, ready _ _ (by decide),
    by decide, by decide, by decide, ready _ _ (by decide), by decide⟩

/-- A record of channel 0 stands in the window of train 0. -/
def sampled (c : Ctx) (arrived : Nat) : State := { running0 c with win := [(0, { word := 0x123, arrived := some arrived })] }

theorem witness_SamplesReachPrograms :
    let s := sampled (bankOf []) 0
    let u : State := { running0 (bankOf []) with fw := [(82, { en := 0 })] }
    Ready s 0 ∧ s.schRouted 0 0 = true ∧ s.stale 0 0 = false ∧ (s.bank 0).fits 0 1 ∧ (s.bank 0).fits 0 2 ∧
    Ready u 0 ∧ u.schRouted 0 0 = true ∧ u.stale 0 0 = true ∧ (u.fwAt 82).en.getLsbD 0 = false ∧ (u.bank 0).fits 0 2 ∧
    s.schRouted 0 127 = false :=
  ⟨ready _ _ (by decide), by decide, by decide, by decide, by decide, ready _ _ (by decide), by decide⟩
theorem witness_SamplesReachPrograms_records :
    let s := idling 0
    let l : State := { idling 40 with inletAt := [(0, 1)] }
    let e : State := { idling 39 with inletAt := [(0, 1)] }
    let b : State := { s with pending := [.sampleRecord 1 0] }
    (¬ ∀ l r, Instr.sampleRecord l r ∈ b.pending → (r.extractLsb' 36 7).toNat = 0 → 2 ≤ l) ∧
    (∀ l r, Instr.sampleRecord l r ∈ s.pending → (r.extractLsb' 36 7).toNat = 0 → 3 ≤ l) ∧
    (3 < 4) ∧ s.inletAt.get (fun _ => 0) 0 = 0 ∧ s.schTrains 0 ≠ 0 ∧ s.fences.contains (.sample 0) = false ∧
    ((0 : Word64).extractLsb' 36 7).toNat = 0 ∧ l.inletAt.get (fun _ => 0) 0 + 39 ≤ l.now ∧
    e.inletAt.get (fun _ => 0) 0 ≠ 0 ∧ e.now < e.inletAt.get (fun _ => 0) 0 + 39 ∧
    ((0x7F000000000 : Word64).extractLsb' 36 7).toNat = 127 ∧ s.schTrains 127 = 0 ∧ (s.fwAt 82).sevOf 2 ≤ 1 := by
  refine ⟨fun h => ?_, fun _ _ h => (List.not_mem_nil h).elim, by decide⟩
  exact absurd (h 1 0 (List.mem_cons_self ..) (by decide)) (by decide)
theorem witness_SamplesReachPrograms_miss :
    let s := idling 8
    (∃ r p, s.schRoute 0 = some r ∧ s.period r.pg = some p ∧ p.offset s.now = r.arrive) ∧ (s.fwAt 82).sevOf 1 ≤ 1 ∧
    (∀ tr, tr < 8 → (s.recAt tr 0).arrived = none) ∧ (s.schTrains 0).testBit 0 = true :=
  ⟨⟨_, _, rfl, rfl, by decide⟩, by decide⟩

theorem witness_SamplesReachPrograms_stale :
    let s := running0 (bankOf [])
    Ready s 0 ∧ s.schRouted 0 0 = true ∧ s.stale 0 0 = true ∧ (s.fwAt 82).en.getLsbD 0 = true ∧ (s.fwAt 82).sevOf 0 ≤ 1 ∧
    (s.bank 0).fits 0 1 ∧ (s.bank 0).fits 0 2 :=
  ⟨ready _ _ (by decide), by decide⟩
/-- An accepted INJECT of channel 0, and an accepted SELECT of its gain 1, when a record of channel 0 with GAIN 1 arrives. -/
theorem witness_SamplesReachPrograms_done :
    let s : State := { idling 0 with cvc := [(0, { st := 2, word := 0x20000000 }), (1, { st := 2, word := 0x12000000 })] }
    let r : Word64 := 1 <<< 43
    (∀ l x, Instr.sampleRecord l x ∈ s.pending → (x.extractLsb' 36 7).toNat = 0 → 0 ≤ l) ∧ s.inletAt.get (fun _ => 0) 0 = 0 ∧
    s.schTrains 0 ≠ 0 ∧ s.fences.contains (.sample 0) = false ∧ (r.extractLsb' 36 7).toNat = 0 ∧
    (s.cvcAt 0).st = 2 ∧ ((s.cvcAt 0).word.extractLsb' 15 7).toNat = 0 ∧ (s.cvcAt 0).word.extractLsb' 28 4 = 2 ∧
    (s.cvcAt 1).st = 2 ∧ ((s.cvcAt 1).word.extractLsb' 15 7).toNat = 0 ∧ (s.cvcAt 1).word.extractLsb' 28 4 = 1 ∧
    (s.cvcAt 1).word.extractLsb' 25 3 = r.extractLsb' 43 3 :=
  ⟨fun _ _ _ _ => Nat.zero_le _, by decide⟩

theorem witness_EventsAndMailboxes :
    let s := running0 (bankOf [])
    let f : State := { running0 (bankOf []) with train := [(0, { mb := [(0, { full := true }), (1, { full := true })] })] }
    Ready s 0 ∧ (s.bank 0).fits 0 1 ∧ (∃ y, s.mboxEntry 0 0 = some (false, y) ∧ y.senders.contains 0 = true) ∧ (s.engAt 0).sbuf = [] ∧
    (s.mboxAt 0 0).full = false ∧ (s.img false).sources.find? (fun z => z.kind == 1 && z.index == 32 * 0 + 0) = none ∧
    (∃ y, s.mboxEntry 0 1 = some (false, y) ∧ y.receiver = 0) ∧ (s.mboxAt 0 1).full = false ∧ s.mboxEntry 0 31 = none ∧
    Ready f 0 ∧ (f.mboxAt 0 0).full = true ∧ (f.mboxAt 0 1).full = true :=
  ⟨ready _ _ (by decide), by decide, ⟨_, rfl, by decide⟩, by decide, by decide, by decide, ⟨_, rfl, rfl⟩, by decide, by decide,
    ready _ _ (by decide), by decide⟩
theorem witness_EventsAndMailboxes_source :
    let s : State := { running0 (bankOf []) with
      slotA := { st := .running, img := { image with sources := [{ ofs := 0, lctx := 1, bit := 2, kind := 1, index := 0 }] } } }
    Ready s 0 ∧ (s.mboxAt 0 0).full = false ∧
    (∃ z, (s.img false).sources.find? (fun z => z.kind == 1 && z.index == 32 * 0 + 0) = some z ∧ s.locate false z.lctx ≠ (s.who 0).id) :=
  ⟨ready _ _ (by decide), by decide, _, rfl, by decide⟩

/-- A boundary load of slot 0 in flight. -/
def boundaryLoad : BLoad := { slot := 0, addr := 0x40000000, width := 2, sx := false, an := 0, anNew := 4, instr := 0x6900 }
/-- A boundary store of context 0 in flight. -/
def boundaryStore : BQE := { addr := 0x40000000, bytes := 4, data := 1, ctxid := 0, gen := false, lctx := 0, builds := 0 }

theorem witness_MemoryResponses :
    let t := onBank { free (bankOf []) with pc := 0x01000020 } { fill := some { addr := 0x01000020 } }
    let b := onBank { free (bankOf []) with pc := 0x40000000 } { fill := some { addr := 0x40000000 } }
    let l := onBank (free (bankOf [])) { bload := some boundaryLoad, bq := [boundaryStore] }
    let p : State := { l with eng := [(0, { l.engAt 0 with run := .parked })] }
    let x := onBank { free (bankOf []) with lerr := some (0x40000000, 0x6900) }
    t.hasEngine 0 = true ∧ t.missing 0 0x01000020 = true ∧ rgnOf 0x01000020 = some .tm ∧
    (t.tmPlace (t.who 0) ((t.bank 0).pc.toNat / 8 * 8 % 0x200000) 8 false false).isSome = true ∧
    b.missing 0 0x40000000 = true ∧ rgnOf 0x40000000 ≠ some .tm ∧
    (l.engAt 0).bload = some boundaryLoad ∧ x.canRun 0 = true ∧ (x.bank 0).lerr = some (0x40000000, 0x6900) ∧ (l.engAt 0).undebugged = true ∧ (l.engAt 0).run = .ctx boundaryLoad.slot ∧
    (p.engAt 0).run ≠ .ctx boundaryLoad.slot ∧ (p.engAt 0).bload = some boundaryLoad ∧ (l.engAt 0).bq = boundaryStore :: [] ∧
    l.bqAlive boundaryStore = true ∧ boundaryLoad.width = 2 ∧ (free (bankOf [])).rep = false := by decide

/-- A context at its stopping point. -/
def stopping (c : Ctx) (e : Engine := {}) : State := running0 (free c) e

theorem witness_AsynchronousEntries :
    let b := stopping { bankOf [] with budgetPend := true }
    let w := stopping { bankOf [] with wdogPend := true }
    let r := stopping (bankOf []) { stopReq := some 0 }
    let l := stopping { bankOf [] with latePend := true }
    let e := onBank { free (bankOf []) with ie := true, evpend := 1, evmask := 1 }
    let ok (s : State) : Bool := s.hasEngine 0 && decide ((s.engAt 0).run = .ctx 0 ∧ (s.engAt 0).lock = 0) && !(s.engAt 0).dbg.halted &&
      !(s.engAt 0).dbg.stepping && !(s.engAt 0).mstop && !(s.engAt 0).waiting && !s.tracing && !(s.engAt 0).dbg.pend
    ok b = true ∧ (b.ctxAt 0).budgetPend = true ∧ ok w = true ∧ (w.ctxAt 0).budgetPend = false ∧ (w.ctxAt 0).wdogPend = true ∧
    ok r = true ∧ (r.ctxAt 0).wdogPend = false ∧ (r.engAt 0).stopReq.isSome = true ∧ r.retired (r.ctxAt 0) = false ∧
    ok l = true ∧ (l.engAt 0).stopReq = none ∧ (l.ctxAt 0).latePend = true ∧ (e.engAt 0).begun ≠ .event ∧
    ok e = true ∧ (e.ctxAt 0).latePend = false ∧ (e.ctxAt 0).db = false ∧ (e.ctxAt 0).level ≠ 3 ∧ (e.ctxAt 0).ie = true ∧
    (e.ctxAt 0).evpend &&& (e.ctxAt 0).evmask ≠ 0 := by decide
theorem witness_AsynchronousEntries_limits :
    let b := running0 { bankOf [] with act := some { relAt := 0 }, budget := 5, beats := 6 }
    let w : State := { running0 { bankOf [] with wdW := 8, wdAt := some 0 } with time := 8, fw := [(0, { fwDefault 0 with sev := 0 })] }
    let s := running0 { bankOf [] with act := some { relAt := 0, kind := 1, endAt := 0 } }
    let h : State := { running0 (bankOf []) { stopReq := some 0 } with time := 256 }
    let warn : State := { b with fw := [(0, { fwDefault 0 with sev := 0 })] }
    (warn.ctxAt 0).st = .running ∧ (warn.ctxAt 0).overdue = true ∧ (warn.fwAt 0).sevOf 4 ≤ 1 ∧ warn.hasEngine 0 = true ∧
    (warn.engAt 0).st ≠ .off ∧ warn.quench = [] ∧ (warn.engAt 0).run = .ctx 0 ∧
    w.locate (w.ctxAt 0).gen (w.ctxAt 0).lctx = some 0 ∧ engOfCtx 0 = 0 ∧ (w.ctxAt 0).wdAt = some 0 ∧ (w.ctxAt 0).wdW ≠ 0 ∧
    0 + (w.ctxAt 0).wdW ≤ w.now ∧ (w.engAt 0).dbg.halted = false ∧ (w.fwAt 0).sevOf 6 ≤ 1 ∧
    (s.ctxAt 0).act = some { relAt := 0, kind := 1, endAt := 0 } ∧ 0 ≤ s.now ∧ (s.engAt 0).stopReq = none ∧
    (h.engAt 0).stopReq = some 0 ∧ 0 + 256 ≤ h.now ∧ (h.fwAt 0).en.getLsbD 10 = true ∧ (h.trainAt (trainOf 0)).rot = none := by decide

/-- BUDGET of a deadbeat activation at each severity that 12 R319 allows. -/
theorem witness_AsynchronousEntries_deadbeat :
    let b (x : BitVec 96) : State := { running0 { bankOf [] with act := some { relAt := 0 }, budget := 5, beats := 6 } with
      fw := [(0, { fwDefault 0 with sev := x })] }
    let d := running0 { bankOf [] with act := some { relAt := 0 }, budget := 5, beats := 6 }
    (∀ x ∈ [2, 3, 4], let s := b (BitVec.ofNat 96 (x * 2 ^ 12))
      (s.ctxAt 0).st = .running ∧ (s.ctxAt 0).overdue = true ∧ (s.ctxAt 0).db = true ∧ (s.fwAt 0).sevOf 4 = x ∧
      (s.fwAt 0).en.getLsbD 4 = true ∧ s.hasEngine 0 = true ∧ (s.engAt 0).st = .service ∧ s.quench = [] ∧
      (s.engAt 0).run = .ctx 0 ∧ (s.trainAt (trainOf 0)).rot = none) ∧
    (d.fwAt 0).sevOf 4 = 3 := by decide

/-- Severity 0 for every source of these windows. -/
def mild (s : State) (ws : List Nat) : State := { s with fw := ws.map (fun w => (w, { fwDefault w with sev := 0 })) }

theorem witness_ReleasesStartActivations :
    let s := idling 0
    let b : State := live 0 { st := .idle } { st := .running } { run := .ctx 1 }
    let h : State := live 0 { st := .idle } { st := .idle } { dbg := { halted := true } }
    let y : State := live 0 { st := .idle } { st := .idle } { relAt := some 0 }
    (∃ e x, s.entryNow false 0 0 = some (e, x, 0)) ∧ s.locate false 0 = some (ctxId 0 0) ∧ s.releasing false 0 = true ∧ s.tracing = false ∧
    (s.engAt 0).st = .service ∧ (s.ctxAt 0).st ≠ .restoring ∧ (s.ctxAt 0).st ≠ .unused ∧ (s.ctxAt 0).sound = true ∧
    (s.engAt 0).relAt ≠ some s.now ∧ (y.engAt 0).relAt = some y.now ∧ (s.engAt 0).dbg.halted = false ∧
    (s.engAt 0).run = .parked ∧ (s.engAt 0).late = none ∧ (s.ctxAt 0).ready = true ∧
    (b.engAt 0).run = .ctx 1 ∧ (b.engAt 0).dbg.halted = false ∧ b.locate false 0 = some (ctxId 0 0) ∧ (h.engAt 0).dbg.halted = true ∧
    h.locate false 0 = some (ctxId 0 0) :=
  ⟨⟨_, _, rfl⟩, by decide⟩
theorem witness_ReleasesStartActivations_free :
    let s := idling 2000
    let d := idling 2100
    let r : LateRel := { slot := 1, budget := 50, endAt := 4000, kind := 1 }
    let w := live 2100 { st := .idle } { st := .idle } { late := some r }
    (∃ e x, s.entryNow false 1 1 = some (e, x, 0)) ∧ 0 ≤ s.now ∧ s.locate false 1 = some (ctxId 0 1) ∧ s.releasing false 1 = true ∧
    (s.engAt 0).relAt ≠ some s.now ∧ (s.ctxAt 1).ready = true ∧
    (∃ e x, d.entryNow false 1 1 = some (e, x, 100) ∧ d.now - 100 + d.stopDist e.train e.pos (d.now - 100) = 4000 ∧ x.ent.budget = 50) ∧
    (d.engAt 0).late ≠ some r ∧ (w.engAt 0).late = some r ∧ (w.engAt 0).run = .parked :=
  ⟨⟨_, _, rfl⟩, by decide, by decide, by decide, by decide, by decide, ⟨_, _, rfl, by decide⟩, by decide⟩
theorem witness_ReleasesStartActivations_event :
    let s := idling 4100 1
    (∃ x e, (inForce (s.entries 0 0) s.now).filter (fun y => y.ent.kind == 2) = x :: [] ∧ x.gen = false ∧
      (s.img false).wake x.ent.lctx = [] ++ 1 :: [] ∧ s.ctxEntry false 1 = some e ∧
      s.now + (s.img false).hdr.tickNeed e.ebudget + 1 ≤ s.segmentStop 0 0 false x.ent.lctx (s.entries 0 0).length s.now ∧
      (s.engAt 0).dbg.parkFrom + x.since s.now ≤ s.now) ∧ (s.engAt 0).lateWaits = false ∧ 1 ∉ (s.engAt 0).dbg.skipped ∧
    s.hasTrain 0 = true ∧ s.locate false 1 = some (ctxId 0 1) ∧ s.releasing false 1 = true ∧
    ((s.ctxAt 1).evpend &&& (s.ctxAt 1).evmask) ≠ 0 ∧ (s.ctxAt 1).ready = true :=
  ⟨⟨_, _, rfl, rfl, rfl, rfl, by decide⟩, by decide⟩
theorem witness_ReleasesStartActivations_first :
    let s := idling 4100 1
    (s.engAt 0).dbg.parkFrom = 0 ∧ (s.engAt 0).lateWaits = false ∧ (s.engAt 0).dbg.halted = false ∧ (s.engAt 0).run = .parked ∧
    (s.ctxAt 1).ready = true := by decide

theorem witness_ReleasesStartActivations_late :
    let s := mild (live 50 { st := .idle } { st := .idle } { late := some { slot := 0, budget := 100, endAt := 2000 } }) [80]
    (∃ r, (s.engAt 0).late = some r ∧ r.slot = 0 ∧ r.kind = 0) ∧ (s.engAt 0).dbg.halted = false ∧ (s.engAt 0).run = .parked ∧
    (s.ctxAt 0).ready = true ∧ s.hasEngine 0 = true ∧ (s.fwAt 80).sevOf 0 ≤ 1 ∧ s.locate false 0 = some (ctxId 0 0) ∧
    s.releasing false 0 = true :=
  ⟨⟨_, rfl, rfl, rfl⟩, by decide⟩

theorem witness_PeriodEventsAndTrips :
    let s := idling 8000
    let n := idling 8001
    (∃ e, s.period 0 = some e ∧ (s.now + e.period - e.phase % e.period) % e.period = 0) ∧
    (∃ e, n.period 0 = some e ∧ (n.now + e.period - e.phase % e.period) % e.period ≠ 0) ∧ s.tripOn 0 = true ∧ s.tripOn 63 = false ∧
    (s.tripAt 0).latch = false ∧ (s.tripAt 0).cfg.extractLsb' 28 2 ≠ 0b10 ∧ s.takesWrite {} :=
  ⟨⟨_, rfl, by decide⟩, ⟨_, rfl, by decide⟩, by decide⟩

theorem witness_CommitTicks :
    let s := live 4000 { st := .idle, act := some { relAt := 0, yieldAt := some 100 } } { st := .idle }
    let i := mild (idling 4000) [81]
    (∃ e, s.commitDue 0 = some (false, e)) ∧ (∃ p, s.contributors 0 = [p]) ∧ (∀ p ∈ s.contributors 0, s.complete 0 p.1 p.2.lctx = true) ∧
    (s.grpAt 0).esc = false ∧ s.gf.safe = false ∧ (s.img false).pairOf 0 = none ∧ s.tracing = false ∧ s.ue = [] ∧ s.ce = [] ∧
    s.fences = [] ∧
    (∃ b, (s.img false).block 0 = some b ∧ 0 < b.length) ∧
    (∃ e, i.commitDue 0 = some (false, e) ∧ e.policy = 0) ∧ (∃ p ∈ i.contributors 0, i.complete 0 p.1 p.2.lctx = false) ∧
    i.dbg.frzRmt = false ∧ (∀ n, n < 3 → (i.fwAt 81).sevOf n ≤ 1) :=
  ⟨⟨_, rfl⟩, ⟨_, rfl⟩, by decide, by decide, by decide, by decide, by decide, by decide, by decide, by decide, ⟨_, rfl, by decide⟩,
    ⟨_, rfl, by decide⟩, ⟨_, List.mem_cons_self, by decide⟩, by decide⟩
/-- Group 0 is paired with a tolerance of 2; its outlet has value 7 staged against 3. -/
def paired : State :=
  let s := live 4000 { st := .idle, act := some { relAt := 0, yieldAt := some 100 } } { st := .idle }
  { s with
    slotA := { st := .running, img := { image with faults := [.pair 0 0 2 0] } }
    outlet := [(0, { staged := true, staging := 7, checked := true, check := 3 })] }
theorem witness_CommitTicks_pair :
    (∃ e, paired.commitDue 0 = some (false, e)) ∧ (∀ p ∈ paired.contributors 0, paired.complete 0 p.1 p.2.lctx = true) ∧
    (paired.grpAt 0).esc = false ∧ paired.gf.safe = false ∧ (paired.img false).pairOf 0 = some 2 ∧ paired.tracing = false ∧
    (paired.fwAt 81).sevOf 3 ≤ 1 ∧ (paired.fwAt 81).sevOf 1 ≤ 1 ∧ (∃ q ∈ paired.grpSafe 0, q.1 = 0) ∧
    (paired.outAt 0).staged = true ∧ 2 < ((paired.outAt 0).staging.toInt - (paired.outAt 0).check.toInt).natAbs :=
  ⟨⟨_, rfl⟩, by decide, by decide, by decide, by decide, by decide, by decide, by decide, ⟨_, List.mem_cons_self, rfl⟩, by decide⟩
/-- Group 0 is frozen: its contributor's engine is halted. -/
theorem witness_CommitTicks_frozen :
    let s : State := { live 4000 { st := .halted, act := some { relAt := 0 } } { st := .idle } { dbg := { halted := true, hl := some 0 } } with
      dbg := { frzRmt := true } }
    (∃ e, s.commitDue 0 = some (false, e)) ∧ (∃ p ∈ s.contributors 0, s.complete 0 p.1 p.2.lctx = false) ∧ (s.grpAt 0).esc = false ∧
    s.gf.safe = false ∧ s.dbg.frzRmt = true ∧ s.hasEngine 0 = true ∧ (s.engAt 0).dbg.halted = true ∧ s.lcs.st ≠ .secured ∧
    (∀ q ∈ s.contributors 0, s.complete 0 q.1 q.2.lctx = false → s.haltOnly q.1 q.2.lctx = true) ∧ s.tracing = false ∧
    (s.fwAt 81).sevOf 0 ≤ 1 :=
  ⟨⟨_, rfl⟩, ⟨_, List.mem_cons_self, by decide⟩, by decide⟩

theorem witness_CommitTicks_dial :
    let s : State := { idling 0 with dial := [(3, { sel := 0x80000000, due := some true })] }
    (s.dialAt 3).kind = 2 ∧ (s.dialAt 3).due = some true ∧ (s.dialAt 3).start ≤ 0 ∧ 0 < (s.dialAt 3).start + 14 := by decide

theorem witness_ConverterCommands :
    let s := idling 0
    let with' (x : Cvc) : State := { mild s [82] with cvc := [(0, x)] }
    (s.cvcRoute 0).isSome = true ∧ s.fences.contains (.command 0) = false ∧ (s.cvcAt 0).st = 0 ∧ (s.cvcAt 0).pst = 0 ∧
    ((with' {}).fwAt 82).sevOf 3 ≤ 1 ∧ ((with' { st := 1 }).cvcAt 0).st = 1 ∧ ((with' { st := 4 }).cvcAt 0).st = 4 ∧
    ((with' { st := 2, op := 3 }).cvcAt 0).st = 2 ∧ ((with' { st := 2, op := 3 }).cvcAt 0).pst ≠ 2 ∧ ((with' {}).fwAt 82).sevOf 4 ≤ 1 := by
  decide

theorem witness_ConverterCommands_stale :
    let s : State := { idling 0 with cvc := [(0, { stale := true, req := true })] }
    (s.cvcRoute 0).isSome = true ∧ s.fences.contains (.command 0) = false ∧ (s.cvcAt 0).stale = true ∧ (s.fwAt 82).sevOf 4 ≤ 1 := by
  decide

theorem witness_HostReadsAndLatches :
    let s := idling 0
    let g : State := { s with grp := [(63, { esc := true, consec := 4 })] }
    s.readable ∧ s.hasWindow 87 = true ∧ s.hasTrain 7 = true ∧ s.hasEngine 71 = true ∧ s.variant.optional = true ∧ s.tracing = false ∧
    s.takesWrite {} ∧ g.gf.safe = false ∧ (g.grpAt 63).esc = true := by decide

theorem witness_SourcesReact :
    let s := mild (idling 0) [0]
    let deg (x : BitVec 96) : State := { idling 0 with fw := [(0, { fwDefault 0 with sev := x })] }
    let f : State := { deg 3 with train := [(0, { spare := some 8 })], eng := [(0, { st := .service }), (8, { st := .spare })], fw := [(0, { fwDefault 0 with sev := 3 }), (72, { fwDefault 72 with sev := 0 })] }
    0 < (srcsOf 0).length ∧ s.takesWrite {} ∧ s.lcs.st = .blank ∧ s.hasWindow 0 = true ∧ (s.engAt 0).st ≠ .off ∧
    (s.fwAt 0).en.getLsbD 0 = true ∧ s.quench = [] ∧ (s.fwAt 0).sevOf 0 ≤ 1 ∧ ((deg 2).fwAt 0).sevOf 0 = 2 ∧
    ((deg 4).fwAt 0).sevOf 0 = 4 ∧ s.gf.safe = false ∧ (f.fwAt 0).sevOf 0 = 3 ∧ (f.engAt 0).st ≠ .fenced ∧ (f.trainAt 0).rot = none ∧
    (f.trainAt 0).sub = none ∧ (f.trainAt 0).more = [] ∧ (f.trainAt 0).spare ≠ some (0 % 9) ∧ f.posOfEng 0 0 = some 0 ∧ (f.trainAt 0).spare = some 8 ∧
    (f.engAt (9 * (0 / 9) + 8)).st = .spare ∧ (f.fwAt 72).sevOf 11 ≤ 2 := by decide
/-- At the reset severities a fence of engine 0 starts a substitution by a spare that is still in TEST. -/
theorem witness_SourcesReact_test :
    let s : State := { idling 0 with train := [(0, { spare := some 8 })], eng := [(0, { st := .service }), (8, { st := .test, run := .mach none })] }
    (s.fwAt 0).sevOf 9 = 3 ∧ s.gf.safe = false ∧ (s.engAt 0).st ≠ .fenced ∧ (s.trainAt 0).rot = none ∧ (s.trainAt 0).sub = none ∧
    (s.trainAt 0).more = [] ∧ (s.trainAt 0).spare ≠ some (0 % 9) ∧ s.posOfEng 0 0 = some 0 ∧ (s.trainAt 0).spare = some 8 ∧
    (s.engAt (9 * (0 / 9) + 8)).st = .test := by decide

theorem witness_SourcesReact_integrity :
    let s := idling 0
    let d : State := { s with gf := { s.gf with safe := true } }
    let q : State := { s with time := 9, quench := [{ target := .engine 0, closeAt := some 9 }] }
    (∃ y, q.quench[0]? = some y ∧ y.closeAt = some 9) ∧ 9 ≤ q.now ∧ s.hasWindow 85 = true ∧ s.gf.safe = false ∧ d.gf.safe = true ∧ s.takesWrite {} ∧ (0x155 : Word).getLsbD 8 = true ∧
    ((0x155 : Word).extractLsb' 0 8).toNat = 85 ∧
    (s.fwAt 80).en.getLsbD 2 = true ∧ (s.fwAt 80).sevOf 2 = 4 ∧ (s.fwAt 81).en.getLsbD 4 = true ∧ (s.fwAt 81).sevOf 4 = 4 ∧
    (s.fwAt 82).en.getLsbD 5 = true ∧ (s.fwAt 82).sevOf 5 = 4 ∧ (s.fwAt 84).en.getLsbD 1 = true ∧ (s.fwAt 84).sevOf 1 = 4 :=
  ⟨⟨_, rfl, rfl⟩, by decide⟩

/-- Engine 0 of train 0 is fenced, its contexts wait for restoration, and engine 8 takes its position. -/
def replacing : State :=
  let s := idling 9
  { mild s [72] with
    train := [(0, { sub := some { pos := 0, src := 0, dst := 8 } })]
    eng := [(0, { st := .fenced }), (8, { st := .recover })]
    ctx := [(0, { st := .restoring, db := true, lctx := 0 }), (1, { st := .restoring, lctx := 1 })] }

/-- Master copies that lie in train memory, from both images. -/
theorem machOf_place {s : State} (t : Nat) (h : ∀ g, ∀ m ∈ (s.img g).machs, m.master + m.mlen ≤ 0x200000) (p : Nat) (m : MachE)
    (e : s.machOf t p = some m) : m.master + m.mlen ≤ 0x200000 := by
  unfold State.machOf Image.mach at e
  dsimp only at e
  split at e
  · cases e; exact h _ _ (List.mem_of_find?_eq_some (by assumption))
  · exact h _ _ (List.mem_of_find?_eq_some e)

theorem witness_SubstitutionsAndTests :
    let s := replacing
    let u : State := { s with ue := [tmKey 0 0x8000] }
    s.hasTrain 0 = true ∧ s.gf.safe = false ∧ (s.fwAt 72).sevOf 1 ≤ 1 ∧ (s.fwAt 72).sevOf 13 ≤ 1 ∧
    (∀ p m, s.machOf 0 p = some m → m.master + m.mlen ≤ 0x200000) ∧ (s.trainAt 0).sub = some { pos := 0, src := 0, dst := 8 } ∧ (s.trainAt 0).more = [] ∧ 0 ≠ s.now ∧ (s.trainAt 0).unserved = [] ∧
    (∃ m, s.machOf 0 0 = some m ∧ s.copyBad 0 m = false ∧ s.digestBad 0 m = false) ∧ (∃ m, u.machOf 0 0 = some m ∧ u.copyBad 0 m = true) ∧
    (s.ctxAt (ctxId 0 0)).st ≠ .unused ∧ (∃ e, s.ctxEntry false 0 = some e) ∧ (∃ e, s.ctxEntry false 1 = some e) ∧
    (s.img false).block 1 = none ∧ ((s.img false).block 0).isSome = true :=
  ⟨by decide, by decide, by decide, by decide, machOf_place 0 (by decide), by decide, by decide, by decide, by decide, ⟨_, rfl, by decide⟩, ⟨_, rfl, by decide⟩,
    by decide, ⟨_, rfl⟩,
    ⟨_, rfl⟩, by decide⟩
/-- A master copy that cannot be loaded: an uncorrectable word, or a fenced bank. -/
theorem witness_SubstitutionsAndTests_copies :
    let s : State := { mild (idling 0) [72] with
      train := [(0, { spare := some 8 })]
      eng := [(0, { st := .service }), (8, { st := .test, run := .mach none })] }
    let u : State := { s with ue := [tmKey 0 0x8000] }
    let f : State := { s with fences := [.bank 0 0] }
    u.nextPos 0 (8 % 9) = some 0 ∧ (∃ m, u.machOf 0 0 = some m ∧ u.copyBad 0 m = true ∧
      (copyWords 0 m).find? u.badWord = some (tmKey 0 0x8000) ∧ (∀ b ∈ copyWords 0 m, u.ce.contains (b / 8 * 8) = false)) ∧
    u.bankFenced (tmKey 0 0x8000) = false ∧ (u.trainAt 0).spare = some (8 % 9) ∧ (u.engAt 8).st = .test ∧ (u.engAt 8).run = .mach none ∧
    (∃ m, f.machOf 0 0 = some m ∧ (copyWords 0 m).find? f.badWord = some (tmKey 0 0x8000)) ∧ f.bankFenced (tmKey 0 0x8000) = true ∧
    (u.fwAt 72).sevOf 1 ≤ 1 ∧ (u.fwAt 72).sevOf 13 ≤ 1 :=
  ⟨by decide, ⟨_, rfl, by decide, by decide, by decide⟩, by decide, by decide, by decide, by decide, ⟨_, rfl, by decide⟩, by decide, by decide,
    by decide⟩
theorem witness_SubstitutionsAndTests_tests :
    let t : State := { idling 0 with
      train := [(0, { spare := some 8 })]
      eng := [(8, { st := .test, run := .mach none })] }
    let r : State := { idling 0 with eng := [(8, { st := .fenced })] }
    let b : State := { idling 0 with eng := [(8, { st := .spare, standby := true })] }
    t.hasEngine 8 = true ∧ (t.trainAt 0).rot = none ∧ (t.trainAt 0).sub = none ∧ (t.trainAt 0).more = [] ∧ (t.engAt 8).st = .test ∧ (t.engAt 8).run = .mach none ∧
    (t.trainAt 0).spare = some (8 % 9) ∧ (t.fwAt 8).en.getLsbD 11 = true ∧ (t.fwAt 8).sevOf 11 = 3 ∧ t.quench = [] ∧
    r.takesWrite {} ∧ (r.engAt 8).st = .fenced ∧ (r.engAt 8).retestable = true ∧ r.rmt.startedSecured = false ∧ (r.trainAt 0).spare = none ∧
    (b.engAt 8).standby = true ∧ (b.engAt 8).st = .spare ∧ (b.trainAt 0).spare = none ∧
    (∀ i, i < 8 → (b.engAt (9 * 0 + i)).standby = false) := by decide

/-- With one image in the block no digest is checked. -/
theorem digest_alone {s : State} (h : s.coexist = false) (t : Nat) (m : MachE) : s.digestBad t m = false := by
  simp [State.digestBad, h]
/-- Engine 8 has passed its retest; position 0 has no engine. -/
theorem witness_SubstitutionsAndTests_unserved :
    let s : State := { idling 0 with
      train := [(0, { unserved := [0] })]
      eng := [(0, { st := .fenced }), (8, { st := .test, run := .mach none, retest := true })] }
    s.hasEngine 8 = true ∧ 8 / 9 = 0 ∧ (s.trainAt 0).rot = none ∧ (s.trainAt 0).sub = none ∧ (s.trainAt 0).more = [] ∧
    (s.engAt 8).st = .test ∧ (s.engAt 8).run = .mach none ∧ (s.engAt 8).retest = true ∧ (s.trainAt 0).spare ≠ some (8 % 9) ∧
    0 ∈ (s.trainAt 0).unserved ∧ (∀ q ∈ (s.trainAt 0).unserved, q < 8 → 0 ≤ q) ∧
    (∀ q m, s.nextPos 0 (8 % 9) = some q → s.machOf 0 q = some m → s.digestBad 0 m = false) :=
  ⟨by decide, by decide, by decide, by decide, by decide, by decide, by decide, by decide, by decide, by decide, by decide,
    fun _ _ _ _ => digest_alone (by decide) _ _⟩

/-- A rotation step of train 0 to engine 8, in progress from tick `at'`. -/
def rotating (now : Word64) (r : Rot) : State :=
  let s := idling now
  { mild s [72] with train := [(0, { rot := some r })], eng := [(0, { st := .service }), (8, { st := .recover })] }

theorem witness_RotationSteps :
    let s : State := { mild (idling (BitVec.ofNat 64 State.reset.rt)) [72] with
      train := [(0, { spare := some 8 })], eng := [(0, { st := .service }), (8, { st := .spare })] }
    let l := rotating 10 { pos := 0, src := 0, dst := 8, stepAt := 0 }
    let u : State := { l with ue := [tmKey 0 0x8000] }
    s.hasTrain 0 = true ∧ s.gf.safe = false ∧ (s.fwAt 72).sevOf 1 ≤ 1 ∧ (s.fwAt 72).sevOf 13 ≤ 1 ∧
    (∀ p m, s.machOf 0 p = some m → m.master + m.mlen ≤ 0x200000) ∧ s.rotTick 0 = true ∧ s.rotDeferred 0 = false ∧
    s.anyRunning = true ∧ (s.trainAt 0).spare = some 8 ∧ (s.engAt 8).st = .spare ∧ s.outgoing 0 8 = some (0, 0) ∧
    (∃ m, l.machOf 0 0 = some m ∧ l.copyBad 0 m = false ∧ l.digestBad 0 m = false) ∧ l.emptied 0 = false ∧ Memory.wf l.mem = true ∧
    (∃ m, u.machOf 0 0 = some m ∧ u.copyBad 0 m = true) :=
  ⟨by decide, by decide, by decide, by decide, machOf_place 0 (by decide), by decide, by decide, by decide, by decide, by decide,
    by decide, ⟨_, rfl, by decide⟩, by decide, by decide, ⟨_, rfl, by decide⟩⟩
/-- 12 R429, 11 R300: the failed load reports MEM_UE (source 1) and RESTORE_FAIL (source 13). -/
theorem test_copy_fails :
    let l := rotating 10 { pos := 0, src := 0, dst := 8, stepAt := 0 }
    (match exec (.masterCopyLoad 0) { l with ue := [tmKey 0 0x8000] } with
      | .next t => (t.fwAt 72).stat
      | _ => 0) = 0x2002 := by decide
theorem witness_RotationSteps_migrates :
    let r : Rot := { pos := 0, src := 0, dst := 8, stepAt := 0, loaded := true }
    let s := rotating 10 r
    let x := rotating (BitVec.ofNat 64 (State.reset.rt / 2)) r
    let z : State := { s with grp := [(0, { last := 1, prev := some 10 })], ctx := [(0, { st := .idle, db := true })] }
    s.locate false 1 = some (ctxId 0 1) ∧ (∃ e, s.ctxEntry false 1 = some e ∧ e.pos = r.pos) ∧ r.third = [] ∧
    (∀ n, n < 16 → (s.ctxAt (ctxId 0 n)).st ≠ .restoring ∧ (s.ctxAt (ctxId 8 n)).st ≠ .restoring) ∧ s.migrates r false 1 (s.ctxAt 1) = true ∧
    s.lowerDue r 0 1 = false ∧ (s.ctxAt 0).st ≠ .unused ∧ (s.trainAt 0).unserved = [] ∧
    z.locate false 0 = some (ctxId 0 0) ∧ z.migrates r false 0 (z.ctxAt 0) = true ∧ z.lowerDue r 0 0 = false ∧
    (∀ n, n < 16 → n ≠ 0 → (z.ctxAt (ctxId 0 n)).st = .unused) ∧
    r.late = false ∧ r.stepAt + x.gf.rotMs.toNat * 400000 / 2 ≤ x.now :=
  ⟨by decide, ⟨_, rfl, rfl⟩, by decide⟩

/-- A pace floor of 620 MHz, with this measurement record in train 0, at the reset severities or these of its window. -/
def paced (p : Pace) (sev : BitVec 96 := (fwDefault 72).sev) : State :=
  { idling 0 with
    slotA := { st := .running, img := { image with hdr := { image.hdr with paceFloor := 620 } } }
    train := [(0, { pace := p })], fw := [(72, { fwDefault 72 with sev := sev })] }
/-- Windows of 2,000 and of 500 edges: 1,562 and 390 MHz; then the reports at severities that 12 R319 allows. -/
theorem witness_RailsAndClock_windows :
    let s := paced {}
    let info := paced {} ((fwDefault 72).sev &&& ~~~(7#96 <<< 27) ||| 1#96 <<< 27)
    let top := paced { rail := 880 } ((fwDefault 72).sev &&& ~~~(7#96 <<< 27) ||| 1#96 <<< 27)
    let apart := paced { gaugeRun := 15 }
    let off : State := { s with power := { s.power with ready := false, phase := 1 } }
    s.hasTrain 0 = true ∧ s.power.gauges = true ∧ s.paceFloor = 620 ∧ ¬ 2000 * 25 / 32 * 1000 < 620 * (1000 + s.power.guard.toNat) ∧
    500 * 25 / 32 * 1000 < 620 * (1000 + s.power.guard.toNat) ∧ (s.fwAt 72).sevOf 9 = 2 ∧ (s.fwAt 72).en.getLsbD 9 = true ∧
    (s.trainAt 0).pace.rail ≠ 880 ∧ (s.trainAt 0).pace.gaugeRun = 0 ∧ s.quench = [] ∧ s.fences.contains (.train 0) = false ∧
    (info.fwAt 72).sevOf 9 = 1 ∧ (top.fwAt 72).sevOf 9 = 1 ∧ (top.trainAt 0).pace.rail = 880 ∧ (top.fwAt 83).en.getLsbD 1 = true ∧
    (top.fwAt 83).sevOf 1 = 2 ∧ (apart.trainAt 0).pace.gaugeRun + 1 = 16 ∧ 2000 < (2000 - 1800) * 50 ∧
    (apart.fwAt 72).en.getLsbD 10 = true ∧ (apart.fwAt 72).sevOf 10 = 3 ∧ off.power.gauges = false := by decide
theorem witness_RailsAndClock_supplies :
    let s := idling 0
    let d : State := { s with gf := { safe := true } }
    let m : State := { s with fw := [(83, { fwDefault 83 with en := 0 })] }
    let r : State := { s with power := { s.power with retSt := .retained } }
    (s.fwAt 83).sevOf 0 ≤ 1 ∧ (599 < 600 ∧ 600 ≤ 880 ∧ 880 < 881) ∧ (s.fwAt 83).en.getLsbD 2 = true ∧ (s.fwAt 83).sevOf 2 = 4 ∧ s.gf.safe = false ∧
    d.gf.safe = true ∧ (m.fwAt 83).en.getLsbD 2 = false ∧ s.power.retSt = .active ∧ r.power.retSt ≠ .active ∧ (r.fwAt 83).sevOf 3 ≤ 1 ∧
    (s.fwAt 80).en.getLsbD 1 = true ∧ (s.fwAt 80).sevOf 1 = 4 := by decide

theorem witness_SweepFindings :
    let s : State := { idling 0 with fw := [(72, { fwDefault 72 with sev := 8 })] }
    let u : State := { s with ue := [lineKey 0 0 7] }
    s.hasTrain 0 = true ∧ 7 < areaLines 0 ∧ s.sweeps 0 0 (lineKey 0 0 7) = true ∧ s.sweeps 0 0x10 (lineKey 0 0x10 7) = true ∧
    (s.trainAt 0).swp.aborts.get (fun _ => 0) (lineKey 0 0 7) ≠ 5 ∧
    (∀ i, i < 4 → s.isUE (lineKey 0 0 7 + 8 * i) = false ∧ s.ce.contains (lineKey 0 0 7 + 8 * i) = false) ∧
    (s.fwAt 72).sevOf 1 = 1 ∧ u.isUE (lineKey 0 0 7) = true ∧ u.sweeps 0 0 (lineKey 0 0 7) = true ∧ 15 < 16 := by decide

/-- The sweep record of train 0, at the reset severities. -/
def sweeping (x : Sweep) : State := { idling 0 with train := [(0, { swp := x })] }
theorem witness_SweepFindings_pass :
    let s := sweeping {}
    let l := sweeping { linesDone := 66559 }
    let d := sweeping { aborts := [(lineKey 0 0 7, 5)] }
    let a := sweeping { aborts := [(lineKey 0 0 7, 3)] }
    let f : State := { s with fences := [.bank 0 7] }
    s.sweeps 0 0 (lineKey 0 0 7) = true ∧ (s.trainAt 0).swp.linesDone + 1 ≠ 66560 ∧ (l.trainAt 0).swp.linesDone + 1 = 66560 ∧
    l.sweeps 0 0 (lineKey 0 0 7) = true ∧ (d.trainAt 0).swp.aborts.get (fun _ => 0) (lineKey 0 0 7) = 5 ∧
    4 ≤ (a.trainAt 0).swp.aborts.get (fun _ => 0) (lineKey 0 0 7) + 1 ∧ a.sweeps 0 0 (lineKey 0 0 7) = true ∧
    f.sweeps 0 0 (lineKey 0 0 7) = false ∧ s.sweeps 0 0x10 (lineKey 0 0x10 7) = true ∧
    (s.trainAt 0).swp.aborts.all (fun p => p.2 != 5) = true := by decide
theorem witness_SweepFindings_fences :
    let s := sweeping {}
    let three : State := { s with fw := [(72, { fwDefault 72 with sev := 3#96 <<< 6 })] }
    (s.fwAt 72).en.getLsbD 2 = true ∧ (s.fwAt 72).sevOf 2 = 2 ∧ (three.fwAt 72).sevOf 2 = 3 ∧ (three.fwAt 72).en.getLsbD 2 = true ∧
    s.quench = [] ∧ (s.fwAt 0).en.getLsbD 13 = true ∧ (s.fwAt 0).sevOf 13 = 3 ∧ (s.engAt 0).st ≠ .fenced ∧ (s.trainAt 0).rot = none ∧
    (s.fwAt 72).en.getLsbD 4 = true ∧ (s.fwAt 72).sevOf 4 = 3 ∧ (s.fwAt 0).en.getLsbD 14 = true ∧ (s.fwAt 0).sevOf 14 = 3 ∧
    s.sweeps 0 0x10 (lineKey 0 0x10 0) = true ∧ s.sweeps 0 0 (tmKey 0 (32 * 15)) = true ∧
    ({ s with fences := [.bank 0 15] } : State).sweeps 0 0 (tmKey 0 (32 * 15)) = false := by decide

/-- The streamer of train 0 has one request of queue 0 waiting; the queue header holds RD above WR by `lead` bytes. -/
def streaming (lead : Word) : State :=
  let s := mild (idling 0) [72]
  { s with
    train := [(0, { str := { fifo := [{ q := 0, src := 0x40000000, left := 64, tag := 5 }], stop := 2 } })]
    mem := if lead = 0 then [] else [(tmKey 0 0x2008, lead.extractLsb' 0 8)] }

theorem witness_StreamerServesQueues :
    let s := streaming 0
    let p := streaming 1
    let r : StrReq := { q := 0, src := 0x40000000, left := 64, tag := 5 }
    (∃ e, s.queueOf 0 0 = some e ∧ 0 < e.size ∧ (s.rd32 (tmKey 0 e.base) - s.rd32 (tmKey 0 e.base + 8)).toNat ≤ e.size ∧
      64 = Min.min (Min.min r.left e.size) 4096 ∧ 64 ≤ e.maxreq) ∧
    (∃ e, p.queueOf 0 0 = some e ∧ e.size < (p.rd32 (tmKey 0 e.base) - p.rd32 (tmKey 0 e.base + 8)).toNat) ∧
    s.takesWrite {} ∧ s.ue = [] ∧ s.ce = [] ∧ s.fences = [] ∧ (s.trainAt 0).str.oldest 0 = some r ∧ s.strNext 0 0 = true ∧
    p.strNext 0 0 = true ∧ s.dbg.frzStr = false ∧ (s.fwAt 72).sevOf 6 ≤ 1 ∧ (s.fwAt 72).sevOf 7 ≤ 1 :=
  ⟨⟨_, rfl, by decide⟩, ⟨_, rfl, by decide⟩, by decide⟩
theorem witness_StreamerServesQueues_host :
    let s : State := { idling 0 with train := [(0, { str := { srcHost := 0x40000000, stop := 1 } })] }
    let g : State := { idling 0 with train := [(0, { str := { srcHost := 0x40000000 } })] }
    let v : Word := 0x00020000
    v.toNat % 16 = 0 ∧ (g.trainAt 0).str.fifo.length < 16 ∧ g.gf.safe = false ∧ (g.trainAt 0).str.stop.getLsbD 0 = false ∧
    0 < v.toNat / 2 ^ 16 * 32 ∧ 0x40000000 ≤ (g.trainAt 0).str.srcHost.toNat ∧
    (g.trainAt 0).str.srcHost.toNat + v.toNat / 2 ^ 16 * 32 ≤ 0x80000000 ∧ v.toNat / 2 ^ 16 * 32 ≤ 1024 ∧ g.link.en = false ∧
    (1 : Word) = 1#32 <<< 0 ∧ (s.trainAt 0).str.stop.getLsbD 0 = true := by decide

theorem witness_ResetAndRetention :
    let s := State.reset
    let at' (phase : BitVec 3) (wait : Bool) : State := { s with time := 24, power := { s.power with ready := false, phase := phase, waitRelease := wait } }
    let ret (x : RetSt) : State := { s with power := { s.power with retSt := x } }
    let long : State := { at' 2 false with time := 2000 }
    let low : State := { at' 1 true with power := { (at' 1 true).power with low := true } }
    let dark : State := { at' 4 false with gf := { safe := true } }
    s.lcs.busy = none ∧ 1549 < 1550 ∧ 1550 ≤ 1550 ∧ (at' 1 true).power.ready = false ∧ (at' 1 true).pending = [] ∧
    (at' 1 true).upg.compl = false ∧ (at' 1 true).power.waitRelease = true ∧ (at' 1 true).power.held = false ∧
    (at' 1 true).power.resetAt + 24 ≤ ((at' 1 true).time + 1).toNat ∧ (at' 1 true).power.low = false ∧ (at' 1 false).power.phase = 1 ∧
    (at' 2 false).power.phase = 2 ∧ ((at' 2 false).time + 1).toNat < (at' 2 false).power.phaseAt + 1024 ∧
    (long.power.phase = 2 ∧ long.power.ready = false ∧ long.power.waitRelease = false ∧ long.power.phaseAt + 1024 ≤ (long.time + 1).toNat) ∧
    (low.power.low = true ∧ low.power.ready = false ∧ low.power.waitRelease = true) ∧ dark.gf.safe = true ∧ (at' 3 false).power.phase = 3 ∧
    (at' 4 false).power.phase = 4 ∧ (at' 4 false).power.waitRelease = false ∧ Tab.wf (fun _ => ({} : Outlet)) (at' 3 false).outlet = true ∧
    ({} : HAcc).ok = true ∧ s.lcs.st ≠ .secured ∧ s.anyRunning = false ∧ s.rgl.op = .idle ∧ s.power.ready = true ∧ s.power.retSt = .active ∧
    (idling 0).anyRunning = true ∧ (ret .retained).power.retSt = .retained ∧ (ret .entering).power.retSt = .entering ∧
    (ret .waking).power.retSt = .waking ∧ Memory.wf (ret .waking).mem = true ∧ s.hasTrain 0 = true := by decide

theorem witness_ResetAndRetention_refused :
    let s : State := { State.reset with power := { State.reset.power with retSt := .waking } }
    let n : State := { State.reset with power := { State.reset.power with ready := false } }
    s.power.retSt = .waking ∧ n.power.ready = false ∧ ({} : HAcc).ok = true ∧ s.lcs.st ≠ .secured := by decide

theorem witness_LifecycleCommands :
    let s := State.reset
    let d : State := { s with lcs := { s.lcs with keyProg := true, st := .develop } }
    let x : State := { s with lcs := { s.lcs with st := .scrapped } }
    let p (op : LcsOp) : State := { s with lcs := { s.lcs with busy := some op } }
    let w : State := { mild s [72, 73, 74, 75, 76, 77, 78, 79] with lcs := { s.lcs with wiping := true } }
    s.takesWrite {} ∧ s.lcs.busy = none ∧ s.lcs.keyProg = false ∧ s.lcs.st = .blank ∧ s.anyRunning = false ∧ d.lcs.keyProg = true ∧
    d.lcs.st = .develop ∧ x.lcs.st = .scrapped ∧ (p .progKey).lcs.busy = some .progKey ∧
    (p (.to .secured)).lcs.busy = some (.to .secured) ∧ (s.fwAt 85).en.getLsbD 0 = true ∧ (s.fwAt 85).sevOf 0 = 4 ∧
    s.gf.safe = false ∧ w.lcs.wiping = true ∧ Memory.wf w.mem = true ∧ (∀ r, r < 8 → (w.fwAt (72 + r)).sevOf 8 ≤ 1) ∧ w.hasTrain 7 = true ∧
    (w.fwAt 72).en.getLsbD 8 = true ∧ w.quench = [] := by decide

/-- A movement image without contexts, with one generator of 8,000 ticks (spec 08 R211-R218); CRC by an independent program. -/
def smallest : List Byte :=
  [0x53, 0x58, 0x4d, 0x49, 1, 0, 7, 0, 0xc0, 0, 0, 0, 0, 0, 1, 0, 0x4d, 0x49, 0x4e, 0, 0, 0, 0, 0, 1, 0, 0, 0, 0x6c, 2,
  0x64, 0, 0, 0, 0, 0, 0, 0, 0, 0, 0, 0, 0, 0, 0, 0, 0, 0, 0, 0, 0, 0, 0, 0, 0, 0, 0xb6, 0xa3, 0xa9, 0x3e, 0, 0, 0, 0, 1,
  0, 0, 0, 0xb0, 0, 0, 0, 0, 0, 0, 0, 0, 0, 0, 0, 2, 0, 0, 0, 0xb0, 0, 0, 0, 0, 0, 0, 0, 0, 0, 0, 0, 3, 0, 0, 0, 0xb0, 0,
  0, 0, 0, 0, 0, 0, 0, 0, 0, 0, 5, 0, 0, 0, 0xb0, 0, 0, 0, 0x10, 0, 0, 0, 1, 0, 0, 0, 7, 0, 0, 0, 0xc0, 0, 0, 0, 0, 0, 0,
  0, 0, 0, 0, 0, 8, 0, 0, 0, 0xc0, 0, 0, 0, 0, 0, 0, 0, 0, 0, 0, 0, 9, 0, 0, 0, 0xc0, 0, 0, 0, 0, 0, 0, 0, 0, 0, 0, 0,
  0x40, 0x1f, 0, 0, 0, 0, 0, 0, 0, 0, 0, 0, 0, 0, 0, 0]

/-- A LOAD of 192 bytes into slot B is in progress. -/
def loadingB : State := { State.reset with rgl := { op := .load true, len := 192 } }

set_option maxRecDepth 20000 in
theorem witness_RegulatorCommands_length :
    loadingB.rgl.op = .load true ∧ loadingB.rgl.len.toNat = smallest.length ∧ 64 ≤ smallest.length ∧ smallest.length % 8 = 0 ∧
    fld smallest 8 4 = smallest.length ∧ ((List.replicate 63 0 : List Byte)).length < 64 ∧
    ((List.replicate 68 0 : List Byte)).length % 8 ≠ 0 := by decide
set_option maxRecDepth 20000 in
theorem witness_RegulatorCommands_admission : (loadingB.admits smallest).isOk = true := by decide +kernel
set_option maxRecDepth 20000 in
theorem witness_RegulatorCommands_refusal : (loadingB.admits (smallest.set 0x10 0)).isOk = false := by decide +kernel
/-- Slot A holds the image, LOADED, with this START_TIME, at this tick. -/
def loadedAt (start : Nat) (now : Word64) : State :=
  { State.reset with time := now, slotA := { st := .loaded, img := { image with hdr := { image.hdr with startTime := start } } } }

theorem witness_RegulatorCommands :
    let s := loadedAt 0 0
    let c : State := { s with rgl := { op := .check } }
    s.takesWrite {} ∧ s.lcs.st ≠ .scrapped ∧ s.rgl.op = .idle ∧ s.running false = false ∧ s.power.retSt = .active ∧
    (idling 0).rgl.op = .idle ∧ (idling 0).running false = true ∧ c.rgl.op = .check ∧ (s.slotOf false).st = .loaded ∧
    (s.slotOf true).st ≠ .loaded ∧ (∀ p ∈ (idling 0).ctx, (idling 0).ctxAt p.1 = p.2) ∧ (∀ p ∈ s.ctx, s.ctxAt p.1 = p.2) := by decide
/-- Master copies that read well. -/
theorem mach_good {s : State} {i : Image} (h : ∀ m ∈ i.machs, s.copyBad m.train m = false) (t p : Nat) (m : MachE)
    (e : i.mach t p = some m) : s.copyBad t m = false := by
  unfold Image.mach at e
  have ht := List.find?_some e
  simp only [Bool.and_eq_true, beq_iff_eq] at ht
  rw [← ht.1]
  exact h m (List.mem_of_find?_eq_some e)
theorem witness_RegulatorCommands_copies :
    ∀ tr p m, ((loadedAt 0 0).img false).mach tr p = some m → (loadedAt 0 0).copyBad tr m = false := mach_good (by decide)
theorem witness_RegulatorCommands_may :
    (loadedAt 0 0).anyRunning = false ∧ (loadedAt 0 0).gf.safe = false ∧ ((loadedAt 0 0).img false).hdr.startTime = 0 ∧
    0 < (((loadedAt 0 0).img false).period 0).period ∧ (loadedAt 0 0).hasEngine 0 = true ∧ ((loadedAt 0 0).engAt 0).st = .off ∧
    (loadedAt 0 0).fences.contains (.train 0) = false := by decide +kernel
theorem witness_RegulatorCommands_time :
    (loadedAt 8000 0).now + 8000 ≤ ((loadedAt 8000 0).img false).hdr.startTime ∧
    ((loadedAt 8000 1).img false).hdr.startTime < (loadedAt 8000 1).now + 8000 := by decide +kernel
theorem witness_RegulatorCommands_start :
    let r : State := { loadedAt 0 8 with rgl := { op := .start false 8 } }
    let t : State := { r with gf := { safe := true } }
    image.outletsOf 0 = [0] ∧ r.rgl.op = .start false 8 ∧ 8 ≤ r.now ∧ (∀ n, (r.tripAt n).above = false) ∧ t.rgl.op = .start false 8 ∧
    t.gf.safe = true :=
  ⟨by decide, rfl, by decide, fun _ => rfl, rfl, rfl⟩

/-- A newer image beside the one in force: set 0 moves context 0 from slot 0 to slot 2. -/
def upgrading (now : Word64) (u : Upg) : State :=
  let s := idling now
  { mild s [72, 73, 74, 75, 76, 77, 78, 79] with
    upg := { u with beside := true }
    grp := [(0, { last := 1, prev := some now.toNat })]
    slotB := { st := .loaded, img := { image with
      ctxs := [{ ctxEntryOf 0 true 1 with slot := 2 }]
      bridges := [.header 0 0 0, .member 0 0 false 0, .member 0 0 true 0] } } }

theorem witness_UpgradeSteps :
    let s := upgrading 0 {}
    let w := upgrading 0 { sw := 1 }
    s.takesWrite {} ∧ (s.anchorTick 0 (Max.max s.upg.target.toNat (s.now + 2000))).isSome = true ∧ s.coexist = true ∧ s.upg.pop = 0 ∧
    0 ∈ (s.img (!s.olderGen)).sets ∧ 63 ∉ (s.img (!s.olderGen)).sets ∧ s.upg.sw.getLsbD 0 = false ∧ w.upg.sw.getLsbD 0 = true ∧
    w.coexist = true ∧ (∀ m ∈ (w.img (!w.olderGen)).sets, w.upg.sw.getLsbD m = true) := by decide
theorem witness_UpgradeSteps_switch :
    let s := upgrading 4000 { pop := 1, due := 4000 }
    let d : State := { s with grp := [] }
    s.coexist = true ∧ s.upg.pop ≠ 0 ∧ s.upg.due ≤ s.now ∧ s.mayMove 0 (!true) = true ∧ d.mayMove 0 (!true) = false ∧
    (d.anchorTick 0 (d.now + 1)).isSome = true ∧ s.ue = [] ∧ s.ce = [] ∧ s.fences = [] ∧ (∀ r, r < 8 → (s.fwAt (72 + r)).sevOf 13 ≤ 1) ∧
    s.tracing = false ∧ (s.img (!s.olderGen)).membersOf 0 false = [0] ∧ (s.img (!s.olderGen)).membersOf 0 true = [0] ∧
    s.locate false 0 = some 0 ∧ (s.ctxAt 0).st ≠ .running ∧ s.seat true 0 = some 2 ∧
    (upgrading 3999 { pop := 1, due := 4000 }).now < 4000 := by decide

theorem witness_UpgradeSteps_running :
    let b := upgrading 4000 { pop := 1, due := 4000 }
    let s : State := { b with
      ctx := [(0, { st := .running, db := true, lctx := 0, act := some { relAt := 0, yieldAt := none } }), (1, { st := .idle, lctx := 1 })]
      eng := [(0, { st := .service, run := .ctx 0 })] }
    s.coexist = true ∧ s.upg.pop ≠ 0 ∧ s.upg.due ≤ s.now ∧ s.mayMove 0 (!true) = true ∧ s.ue = [] ∧ s.ce = [] ∧ s.fences = [] ∧
    s.tracing = false ∧ s.locate false 0 = some 0 ∧ (s.ctxAt 0).st = .running ∧ (s.engAt 0).run = .ctx (0 % 16) ∧
    (∀ m ∈ (s.img (!s.olderGen)).membersOf 0 true, s.seat true m ≠ some 0) ∧
    (∀ i, i < 16 → i ≠ 0 → (s.ctxAt i).st ≠ .running) := by decide

theorem witness_HostAccesses :
    let s := idling 0
    let k : State := { s with lcs := { s.lcs with st := .secured } }
    ({ ok := false } : HAcc).ok = false ∧ ({} : HAcc).ok = true ∧ k.lcs.st = .secured ∧ ({ prot1 := true } : HAcc).prot1 = true ∧
    s.takesWrite {} ∧ k.takesWrite {} ∧ (s.regRead 0x08 true).isSome = true ∧ (s.regRead 0xFFFFFC true).isSome = false ∧ s.rgl.op = .idle ∧
    s.hasWindow 87 = true ∧ s.power.ready = true ∧ s.power.retSt = .active ∧ s.lcs.st ≠ .scrapped ∧ s.lcs.st ≠ .secured ∧
    s.lcs.wiping = false ∧ s.ue = [] ∧ s.ce = [] ∧ s.fences = [] ∧
    ({ s with power := { s.power with ready := false } } : State).power.ready = false ∧ beatOk 16 = true ∧ 0x3FFFFFC ≥ 0x1000000 ∧
    (∀ i, i < 4 → (0xF0#16).getLsbD (4 + i) = true) ∧ (0x1004 % 16 = 4) ∧ (s.fwAt 87).now = 0 ∧
    0x1FFFFF0 < 0x1000000 + 0x200000 * s.variant.trains ∧ 0x2480000 ≤ 0x2000000 + 0x10000 * (9 * s.variant.trains) := by decide

theorem witness_HostAccesses_status :
    let s : State := { idling 0 with
      fw := [(72, { fwDefault 72 with stat := 0x200 }), (83, { fwDefault 83 with stat := 2 })]
      train := [(0, { pace := { holdPace := true, holdRail := true } })] }
    let k : State := { s with lcs := { s.lcs with st := .secured } }
    s.takesWrite {} ∧ s.hasWindow 72 = true ∧ s.hasWindow 83 = true ∧ (s.fwAt 72).stat.getLsbD 9 = true ∧ (s.fwAt 72).now = 0 ∧
    (s.fwAt 83).stat.getLsbD 1 = true ∧ (s.trainAt 0).pace.holdPace = true ∧ (s.trainAt 0).pace.holdRail = true ∧
    k.lcs.st = .secured ∧ 0x2000000 ≤ 0x2000040 ∧ k.inMaster 0x1008000 = true ∧ k.inMaster 0x1000000 = false := by decide

theorem witness_TestPortAccesses :
    let acc (addr : Word) (space : BitVec 2) (wr : Bool) : State :=
      { idling 0 with tap := { acc := some { addr := addr, space := space, wr := wr, data := 7, inc := true } } }
    let x : State := { mild (acc 0 1 false) [87] with lcs := { st := .scrapped } }
    let h : State := { acc 64 2 true with ctx := [(0, { st := .halted, db := true })] }
    (x.power.ready = true ∧ (acc 0 3 false).power.ready = true ∧ h.power.ready = true ∧ x.tap.st = .testLogicReset) ∧
    (x.lcs.st = .scrapped ∧ (x.fwAt 87).sevOf 4 ≤ 1 ∧ (x.fwAt 87).en.getLsbD 4 = true ∧ x.quench = []) ∧
    (acc 0 3 false).lcs.st ≠ .scrapped ∧ (0xFFFC : Word).toNat % 4 = 0 ∧ (acc 0xFFFC 1 true).hasEngine (acc 0xFFFC 1 true).dbg.eng.toNat = true ∧
    (0xFFFC : Word).toNat < 0x10000 ∧ (acc 0x011FFFFC 1 false).power.retSt = .active ∧ (0x011FFFFC : Word).toNat < 0x01200000 ∧
    h.selGen 0 = some false ∧ h.locate false 0 = some 0 ∧ (h.ctxAt 0).st = .halted ∧ (64 : Word).toNat % 256 = 64 ∧
    ((64 : Word).extractLsb' 16 10).toNat = 0 := by decide

theorem witness_HaltAndResume :
    let s := idling 0
    let b := mild (live 0 { free (bankOf []) with st := .running } { st := .idle } { run := .ctx 0, dbg := { pend := true, pendCause := 1 } }) [87]
    let p := mild (live 0 { st := .idle } { st := .idle } { dbg := { pend := true, pendCause := 1 } }) [87]
    let h := live 5 { st := .halted, act := some { relAt := 0, endAt := 6 } } { st := .idle } { dbg := { halted := true, hl := some 0, hlRun := .ctx 0 } }
    let q := live 5 { st := .idle } { st := .idle } { dbg := { halted := true } }
    s.hasEngine 0 = true ∧ s.lcs.st ≠ .scrapped ∧ s.takesWrite {} ∧ (s.engAt 0).dbg.halted = false ∧ (s.engAt 0).dbg.pend = false ∧
    b.haltNow 0 = some (some 0) ∧ p.haltNow 0 = some none ∧ b.tracing = false ∧ b.dbg.hgrp.getLsbD 0 = false ∧
    b.rmt.startedSecured = false ∧ (b.engAt 0).late = none ∧ (b.fwAt 87).sevOf 0 ≤ 1 ∧ (p.engAt 0).mstop = false ∧ (p.engAt 0).run = .parked ∧
    (h.engAt 0).dbg.halted = true ∧ (h.engAt 0).dbg.hl = some 0 ∧ (h.ctxAt 0).act = some { relAt := 0, endAt := 6 } ∧ h.now < 6 ∧
    ¬ ({ h with time := 6 } : State).now < 6 ∧ (h.engAt 0).dbg.frz = false ∧ ((h.ctxAt 0).rep = true → False) ∧
    (q.engAt 0).dbg.halted = true ∧ (q.engAt 0).dbg.hl = none ∧ (q.engAt 0).dbg.frz = false := by decide

theorem witness_TracePackets :
    let s := idling 0
    let t : State := { idling 0x8000 with dbg := { s.dbg with trcEn := true, stimen := 1 } }
    let p : State := { s with dbg := { s.dbg with buf := [8], sink := false } }
    t.dbg.lost = 0 ∧ t.takesWrite {} ∧ s.dbg.stimen.getLsbD 0 = false ∧ t.dbg.stimen.getLsbD 0 = true ∧ t.tracing = true ∧
    t.dbg.buf.length + 9 ≤ 8192 ∧ t.dbg.lastSync + 2 ^ (10 + t.dbg.syncInt.toNat) ≤ t.now ∧
    s.now < s.dbg.lastSync + 2 ^ (10 + s.dbg.syncInt.toNat) ∧ p.dbg.sink = false ∧ p.variant.optional = true ∧ p.lcs.st ≠ .scrapped ∧
    p.dbg.buf = 8 :: [] := by decide
theorem witness_TracePackets_full :
    let s := idling 0
    let t : State := { s with dbg := { s.dbg with trcEn := true, stimen := 1, buf := List.replicate 8184 0 } }
    t.dbg.stimen.getLsbD 0 = true ∧ t.tracing = true ∧ 8192 < t.dbg.buf.length + 9 :=
  by
  refine ⟨by decide, by decide, ?_⟩
  show 8192 < (List.replicate 8184 (0 : Byte)).length + 9
  rw [List.length_replicate]
  decide

theorem witness_TracePackets_lost :
    let s : State := { idling 0x8000 with dbg := { trcEn := true, stimen := 1, buf := List.replicate 8184 0 } }
    let o : State := { idling 0 with dbg := { stimen := 1 } }
    s.tracing = true ∧ s.dbg.lost = 0 ∧ s.dbg.lastSync + 2 ^ (10 + s.dbg.syncInt.toNat) ≤ s.now ∧ 8192 < s.dbg.buf.length + 9 ∧
    o.tracing = false ∧ o.dbg.stimen.getLsbD 0 = true := by
  refine ⟨by decide, by decide, by decide, ?_, by decide⟩
  show 8192 < (List.replicate 8184 (0 : Byte)).length + 9
  rw [List.length_replicate]
  decide

/-- The link is enabled on queue 0 of train 0. -/
def linked (now : Word64) (missed : Nat) : State :=
  { mild (idling now) [86] with link := { en := true, ntx := 1, missed := missed } }

theorem witness_LinkFrames :
    (linked 10000 0).takesWrite {} ∧ (linked 10000 0).rmt.startedSecured = false ∧ (linked 10000 0).variant.optional = true ∧
    (linked 10000 0).linkUp = true ∧ (linked 10000 0).now % 10000 = (linked 10000 0).link.phase.toNat ∧
    (∀ g, ((linked 10000 0).img g).hdr.gen < 2 ^ 16) ∧ (linked 10000 0).ce = [] ∧ (idling 10000).linkUp = false ∧
    (idling 10000).variant.optional = true ∧ (idling 10000).now % 10000 = (idling 10000).link.phase.toNat := by decide
theorem witness_LinkFrames_queue :
    let s := linked 10000 0
    ∃ e, s.queueOf 0 0 = some e ∧ 288 ≤ e.size ∧ (s.rd32 (tmKey 0 e.base) - s.rd32 (tmKey 0 e.base + 8)).toNat + 288 ≤ e.size :=
  ⟨_, rfl, by decide⟩
theorem witness_LinkFrames_frame : frameOk [0x0001000700005C17, 0, 0, 5, 0xBAF4226F] = true ∧ frameOk [] = false := by decide +kernel
theorem witness_LinkFrames_loss :
    let s := linked 10000 0
    s.ue = [] ∧ s.ce = [] ∧ s.fences = [] ∧ (s.fwAt 86).sevOf 2 ≤ 1 ∧ (linked 0 3).linkUp = true ∧ 3 ≤ (linked 0 3).link.missed ∧
    ((linked 0 3).fwAt 86).sevOf 1 ≤ 1 := by decide

/-- The frame of witness_LinkFrames_frame, of sequence 7, as a block sees it that has had sequence 3, whose ring is full, and whose
image is of generation 5. -/
theorem witness_LinkFrames_reports :
    let f : List Word64 := [0x0001000700005C17, 0, 0, 5, 0xBAF4226F]
    let s : State := { linked 10000 0 with
      link := { en := true, ntx := 1, lastSeq := some 3 }
      slotA := { st := .running, img := { image with hdr := { image.hdr with gen := 5 } } }
      mem := [(tmKey 0 0x2001, 0x10)] }
    s.linkUp = true ∧ s.power.ready = true ∧ (∃ e, s.queueOf 0 0 = some e ∧
      e.size < (s.rd32 (tmKey 0 e.base) - s.rd32 (tmKey 0 e.base + 8)).toNat + 288) ∧ s.quench = [] ∧ (s.fwAt 86).sevOf 2 ≤ 1 ∧
    (s.fwAt 86).sevOf 3 ≤ 1 ∧ (s.fwAt 86).en.getLsbD 4 = true ∧ s.link.lastSeq = some 3 ∧ (f.getD 0 0).extractLsb' 32 16 = 7 ∧
    s.rejected ((f.getD 0 0).extractLsb' 16 16).toNat ((f.getD 2 0).extractLsb' 0 32).toNat ((f.getD 0 0).extractLsb' 48 6).toNat = [0] :=
  ⟨by decide, by decide, ⟨_, rfl, by decide⟩, by decide⟩
/-- Two frame ticks have gone by without a frame, at the reset severity and at FENCE; one has, and the tick is no frame tick. -/
theorem witness_LinkFrames_lost :
    let s (n : Nat) (x : BitVec 96) : State :=
      { idling 10000 with link := { en := true, ntx := 1, missed := n, tx := [1, 2] }, fw := [(86, { fwDefault 86 with sev := x })] }
    ((s 2 0).linkUp = true ∧ (s 2 0).now % 10000 = (s 2 0).link.phase.toNat ∧ 2 ≤ (s 2 0).link.missed) ∧ ((s 2 0).fwAt 86).sevOf 1 ≤ 1 ∧
    ((s 2 (3#96 <<< 3)).fwAt 86).en.getLsbD 1 = true ∧ ((s 2 (3#96 <<< 3)).fwAt 86).sevOf 1 = 3 ∧ (s 2 0).quench = [] ∧
    ¬ 2 ≤ (s 1 0).link.missed := by decide

theorem witness_StepRunsFrontCommand :
    let s : State := { State.reset with pending := [.hostWindowTimeout] }
    s.pending = .hostWindowTimeout :: [] ∧ State.reset.pending = [] ∧ State.reset.power.ready = true := by decide
theorem witness_EveryCommandAnswers :
    ∀ c ∈ [Instr.dup 71, .swpStat 7, .fwCap 86, .hostWindowTimeout], c.wf = true ∧ (∀ k, c.engine? = some k → State.reset.hasEngine k = true) ∧
      (∀ t, c.train? = some t → State.reset.hasTrain t = true) ∧ ∀ w, c.window? = some w → State.reset.hasWindow w = true := by
  intro c h
  simp only [List.mem_cons, List.not_mem_nil, or_false] at h
  rcases h with rfl | rfl | rfl | rfl <;> exact ⟨by decide, fun _ e => by cases e <;> decide, fun _ e => by cases e <;> decide, fun _ e => by cases e <;> decide⟩
theorem witness_MemoryStaysCanonical :
    let s : State := { State.reset with pending := [.hostWindowTimeout] }
    (∃ t, step s = .next t) ∧ Memory.wf s.mem = true := ⟨⟨_, rfl⟩, by decide⟩
theorem witness_SafeEndsOnlyByReset :
    let s : State := { State.reset with gf := { safe := true }, pins := { safeN := false }, pending := [.start false {}] }
    s.gf.safe = true ∧ s.pins.safeN = false ∧ s.power.ready = true ∧ (∃ t, step s = .next t) ∧ s.takesWrite {} ∧ s.rgl.op = .idle ∧
    s.lcs.st ≠ .scrapped ∧ (∃ t, exec (.start false {}) s = .next t) :=
  ⟨by decide, by decide, by decide, ⟨_, rfl⟩, by decide, by decide, by decide, ⟨_, rfl⟩⟩
theorem witness_LifecycleGoesForward :
    let s : State := { State.reset with lcs := { busy := some (.to .develop) }, pending := [.fuseProgrammed 0] }
    s.lcs.forward ∧ ∃ t, step s = .next t ∧ t.lcs.st = .develop :=
  ⟨fun _ e => by cases e; decide, _, rfl, rfl⟩

/-! ### Units and the host -/

/-- The check value of CRC-32 over "123456789", and SHA-256 of "abc" (FIPS 180-4). -/
theorem test_crc32 : crc32 [0x31, 0x32, 0x33, 0x34, 0x35, 0x36, 0x37, 0x38, 0x39] = 0xCBF43926 := by decide +kernel
theorem test_sha256 : beNat (sha256 [0x61, 0x62, 0x63]) = 0xBA7816BF8F01CFEA414140DE5DAE2223B00361A396177A9CB410FF61F20015AD := by
  decide +kernel
set_option maxRecDepth 4000 in
/-- A commit sends the staged value with code 0b01 (09 R241). -/
theorem test_commit :
    let s := live 4000 { st := .idle, act := some { relAt := 0, yieldAt := some 100 } } { st := .idle }
    let t := after (.commitTick 0) { s with outlet := [(0, { staged := true, staging := 7 })] }
    (t.outAt 0).committed = 7 ∧ (t.outAt 0).cmd = 0b01 ∧ (t.outAt 0).staged = false ∧ (t.grpAt 0).ccount = 1 := by decide
set_option maxRecDepth 4000 in
/-- An incomplete group holds: code 0b00 stays and HELDCNT counts (09 R243, R256). -/
theorem test_hold :
    let t := after (.commitTick 0) { idling 4000 with outlet := [(0, { staged := true, staging := 7, committed := 3, cmd := 0b01 })] }
    (t.outAt 0).committed = 3 ∧ (t.grpAt 0).last = 2 ∧ (t.grpAt 0).consec = 1 ∧ t.rmt.heldCnt = 1 := by decide
/-- A deadbeat release runs the context at its entry with two beats of bank switch (03 R86, 02 R58). -/
theorem test_release :
    let t := after (.deadbeatRelease false 0) (idling 0)
    (t.engAt 0).run = .ctx 0 ∧ (t.ctxAt 0).st = .running ∧ (t.ctxAt 0).beats = 2 ∧ (t.ctxAt 0).budget = 100 ∧ (t.ctxAt 0).docc = 1 := by
  decide +kernel
/-- CALIBRATE posts the command word of 10 R273. -/
theorem test_calibrate_word :
    ((after (.calibrate 0 9) (idling 0)).cvcAt 0).word = 0x30000009 ∧ ((after (.calibrate 0 9) (idling 0)).cvcAt 0).st = 1 := by decide
/-- A write to SCRATCH reads back; an undefined offset is SLVERR (16 R412, 17 R417). -/
theorem test_host_registers :
    (after (.hostRegWrite 0x08 0xABCD {}) (idling 0)).scratch = 0xABCD ∧
    (after (.hostRegWrite 0xFFFFFC 1 {}) (idling 0)).host.resp = 2 ∧ (after .hostWindowTimeout (idling 0)).host.resp = 2 := by decide
/-- HALT posts its request (14 R366); a TAP reset selects IDCODE (14 R363). -/
theorem test_halt : ((after (.halt 0 {}) (idling 0)).engAt 0).dbg.pend = true ∧ (after .tapReset (idling 0)).tap.ir = 1 := by decide
/-- A streamer chunk of 64 bytes ends the request: WR, LASTTAG, DONECNT (11 R305). -/
theorem test_chunk :
    let t := after (.streamerChunk 0 0 (.data (List.replicate 64 0x5A))) (streaming 0)
    (t.rd32 (tmKey 0 0x2000)).toNat = 64 ∧ (t.rd32 (tmKey 0 0x2004)).toNat = 5 ∧ (t.trainAt 0).str.doneCnt = 1 ∧
    t.byteAt (tmKey 0 0x2020) = 0x5A ∧ t.byteAt (tmKey 0 0x2060) = 0 := by decide +kernel
/-- The substitution moves the contexts to the spare and the position with them (12 R337, R338). -/
theorem test_handover :
    let t := after (.substitutionHandover 0) replacing
    (t.engAt 8).st = .service ∧ (t.ctxAt (ctxId 8 1)).lctx = 1 ∧ (t.ctxAt (ctxId 8 1)).pc = 0x200 ∧ (t.ctxAt 0).st = .unused ∧
    t.posOfEng 0 8 = some 0 ∧ (t.trainAt 0).subcnt = 1 := by decide +kernel
/-- A switch moves the set to the newer image (13 R352). -/
theorem test_switch :
    let t := after .setSwitch (upgrading 4000 { pop := 1, due := 4000 })
    (t.ctxAt 0).st = .unused ∧ (t.ctxAt 2).gen = true ∧ t.upg.sw = 1 ∧ t.slotB.st = .running ∧ t.upg.done = true := by decide +kernel
/-- A tamper enters SAFE and starts the wipe (15 R397). -/
theorem test_tamper :
    (after .tamper (idling 0)).gf.safe = true ∧ (after .tamper (idling 0)).lcs.wiping = true ∧ (after .tamper (idling 0)).pins.safeN = false := by
  decide

end Sys2Proof.Tests
end

section
/-! Changes of flow by JMP, the conditional branches and TZ (spec 02 R38-R41, R46, 04 R104, R105, 06 R154): what the loop buffer and
the target buffer see of a branch, the outcomes of its body, and the statement settled from them. -/

namespace Sys2Proof.Machine
variable {s s1 : State} {k : Nat}

/-! ### The target -/

/-- The target of an offset is the next instruction plus the offset in instructions, as an exact sum modulo 2^32 (R104). -/
theorem relTarget_signExtend {n : Nat} (c : Ctx) (off : BitVec n) :
    c.relTarget (off.signExtend 32) = BitVec.ofInt 32 (c.pc.toInt + 2 + 2 * off.toInt) := by
  simp [Ctx.relTarget, BitVec.signExtend, BitVec.ofInt_add, BitVec.ofInt_mul]

/-! ### States that differ in the branch buffers alone -/

theorem Rerouted.refl (s : State) (k : Nat) : Rerouted s k s := ⟨rfl, fun _ _ => rfl, fun _ => rfl, rfl⟩

/-- An update of the loop buffer and the target buffer reroutes. -/
theorem Rerouted.modEng (h : Rerouted s k s1) {f : Engine → Engine}
    (hf : ∀ e, { f e with lb := {}, tbuf := [] } = { e with lb := {}, tbuf := [] }) : Rerouted s k (s1.modEng k f) :=
  ⟨by rw [engAt_modEng, hf]; exact h.engine, fun j hj => by rw [engAt_modEng_ne _ _ _ _ hj]; exact h.engines j hj,
    h.contexts, h.rest⟩

theorem Rerouted.setLoop (h : Rerouted s k s1) (l : LoopBuf) : Rerouted s k (s1.modEng k (fun e => { e with lb := l })) :=
  h.modEng (fun _ => rfl)

theorem Rerouted.tbUse (h : Rerouted s k s1) (pc tgt : Word) (slot : Nat) :
    Rerouted s k (s1.modEng k (fun e => e.tbUse pc tgt slot)) :=
  h.modEng (fun _ => rfl)

/-- A rerouted engine runs the same code, in the same state, under the same debugger. -/
theorem Rerouted.calm (h : Rerouted (s.fetched k) k s1) : Calm s s1 k where
  run := (congrArg Engine.run h.engine).trans (fetched_run k)
  st := (congrArg Engine.st h.engine).trans (fetched_st k)
  step := (congrArg (·.dbg.stepping) h.engine).trans (congrArg EDbg.stepping (fetched_dbg k))

/-! ### How an instruction ends -/

/-- A command jumps when its body changes flow. -/
theorem jumps_flow {i : Instr} {w : BitVec 16} {ok : Bool} {body : Body} {c1 : Ctx} {tgt : Word} {cost : Nat} (r : Ready s k)
    (he : exec i s = runInstr k w ok body s) (hl : ok = true ∨ s.unlocked k)
    (hb : body (s.fetched k) (s.who k) (s.bank k) = .flow s1 c1 tgt cost) (hc : Calm s s1 k) : Jumps i s k s1 c1 tgt cost := by
  unfold Jumps
  rw [he]
  exact runInstr_flow r hl hb hc

/-- A command traps when its body faults with anything but TRAP, whose entry saves another PC (R198). -/
theorem traps_fault {i : Instr} {w : BitVec 16} {ok : Bool} {body : Body} {c1 : Ctx} {f : Flt} (r : Ready s k)
    (he : exec i s = runInstr k w ok body s) (hl : ok = true ∨ s.unlocked k)
    (hb : body (s.fetched k) (s.who k) (s.bank k) = .fault s1 c1 f) (hf : f.code ≠ 0xC) (hc : Calm s s1 k) :
    Traps i s k s1 c1 f c1.resumePc w := by
  unfold Traps
  rw [he]
  simpa only [if_neg hf] using runInstr_fault r hl hb hc

/-- A bank settles over every state that differs at most in what an instruction does not keep of its engine. -/
theorem Settled.rebase {s2 : State} {c1 : Ctx} {n : Nat} {t : State} (h : Settled s2 k c1 n t)
    (hmb : (s2.engAt k).mb = (s1.engAt k).mb) (hlasting : (s2.engAt k).lasting = (s1.engAt k).lasting)
    (hengines : ∀ j, j ≠ k → s2.engAt j = s1.engAt j) (hctxs : ∀ id, s2.ctxAt id = s1.ctxAt id) (hrest : s2.shared = s1.shared) :
    Settled s1 k c1 n t := by
  have hrun : (s2.engAt k).run = (s1.engAt k).run := by
    have h := congrArg Engine.run hlasting
    exact h
  have hon : s2.ctxOn k = s1.ctxOn k := by simp only [State.ctxOn, hrun]
  refine ⟨fun slot hs => ?_, fun x hx => ?_, fun id hid => ?_, h.engine.trans hlasting,
    fun j hj => (h.engines j hj).trans (hengines j hj), h.rest.trans hrest⟩
  · rw [← hmb]; exact h.inContext slot (hrun.trans hs)
  · simpa only [hctxs] using h.atMachine x (hrun.trans hx)
  · exact (h.contexts id (hon ▸ hid)).trans (hctxs id)

/-- LOCK accounting does not look at the sequential fetch. -/
theorem tickLock_fetch (e : Engine) (x : Option FetchBuf) (n : Nat) :
    (({ e with fetch := x } : Engine).tickLock n).lock = (e.tickLock n).lock ∧
    (({ e with fetch := x } : Engine).tickLock n).lockBeats = (e.tickLock n).lockBeats := by
  unfold Engine.tickLock
  dsimp only
  split
  · exact ⟨rfl, rfl⟩
  · split
    · exact ⟨rfl, rfl⟩
    · split <;> exact ⟨rfl, rfl⟩

/-- An instruction that has set the loop buffer completes over that update alone, whatever it has made of the sequential fetch. -/
theorem Completes.forgetFetch {i : Instr} {l : LoopBuf} {f : Engine → Option FetchBuf} {c1 : Ctx} {cost : Nat}
    (h : Completes i s k (s1.modEng k (fun e => { e with lb := l, fetch := f e })) c1 cost) :
    Completes i s k (s1.modEng k (fun e => { e with lb := l })) c1 cost := by
  obtain ⟨t, n, hex, hset, hbeats, hlock, hlockBeats⟩ := h
  rw [engAt_modEng] at hlock hlockBeats
  refine ⟨t, n, hex, hset.rebase ?_ ?_ ?_ (fun _ => rfl) rfl, hbeats, ?_, ?_⟩
  · simp
  · simp [Engine.lasting]
  · intro j hj; simp [engAt_modEng_ne, hj]
  · rw [hlock, engAt_modEng]; exact (tickLock_fetch { s1.engAt k with lb := l } _ n).1
  · rw [hlockBeats, engAt_modEng]; exact (tickLock_fetch { s1.engAt k with lb := l } _ n).2

/-! ### The taken branch -/

/-- What JMP and a taken conditional branch do once their target can be fetched: the loop buffer sees the branch (R38, R39), and in
free mode the target buffer does, whose 1 or 2 beats `cost` turns into the cost of the instruction (R46). -/
def takeBranch (cost : Nat → Nat) (s : State) (w : Who) (c c1 : Ctx) (tgt : Word) : IRes :=
  let r := (s.engAt w.k).lb.taken c.pc tgt
  let s := s.modEng w.k (fun e => { e with lb := r.1 })
  if r.2 then .flow s c1 tgt 1
  else if w.db then .flow s c1 tgt 3
  else .flow (s.tbJump w c.pc tgt).1 c1 tgt (cost (s.tbJump w c.pc tgt).2)

/-- A taken branch changes the branch buffers alone; it costs 1 beat where it closes the loop, else 3 in deadbeat mode. -/
theorem takeBranch_flow (cost : Nat → Nat) (s : State) (w : Who) (c c1 : Ctx) (tgt : Word) :
    ∃ s1, Rerouted s w.k s1 ∧ takeBranch cost s w c c1 tgt = .flow s1 c1 tgt
      (if ((s.engAt w.k).lb.taken c.pc tgt).2 then 1 else if w.db then 3
        else cost (if (s.engAt w.k).tbHit c.pc tgt ((w.id.getD 0) % 16) then 1 else 2)) := by
  unfold takeBranch
  generalize (s.engAt w.k).lb.taken c.pc tgt = r
  have hloop := (Rerouted.refl s w.k).setLoop r.1
  by_cases hclose : r.2 = true
  · exact ⟨_, hloop, by simp only [hclose, if_true]⟩
  · by_cases hdb : w.db = true
    · exact ⟨_, hloop, by simp only [hclose, hdb, if_true]; rfl⟩
    · exact ⟨_, hloop.tbUse c.pc tgt _, by
        simp only [hclose, hdb, State.tbJump, Engine.tbHit, engAt_modEng]; rfl⟩

/-- A command whose body takes its branch jumps. -/
theorem jumps_takeBranch {i : Instr} {w : BitVec 16} {ok : Bool} {body : Body} {cost : Nat → Nat} {c1 : Ctx} {tgt : Word}
    (r : Ready s k) (he : exec i s = runInstr k w ok body s) (hl : ok = true ∨ s.unlocked k)
    (hb : body (s.fetched k) (s.who k) (s.bank k) = takeBranch cost (s.fetched k) (s.who k) (s.bank k) c1 tgt) :
    ∃ s1, Rerouted (s.fetched k) k s1 ∧ Jumps i s k s1 c1 tgt
      (if ((s.engAt k).lb.taken (s.bank k).pc tgt).2 then 1 else if (s.who k).db then 3
        else cost (if (s.engAt k).tbHit (s.bank k).pc tgt (((s.who k).id.getD 0) % 16) then 1 else 2)) := by
  obtain ⟨s1, hroute, hflow⟩ := takeBranch_flow cost (s.fetched k) (s.who k) (s.bank k) c1 tgt
  have hhit : ((s.fetched k).engAt k).tbHit = (s.engAt k).tbHit := engAt_fetched Engine.tbHit (fun _ _ _ => rfl) s k k
  rw [who_k] at hroute hflow
  rw [fetched_lb, hhit] at hflow
  exact ⟨s1, hroute, jumps_flow r he hl (hb.trans hflow) hroute.calm⟩

/-! ### JMP -/

theorem jmpBody_fetchable {s13 : BitVec 13} {w : Who} {c : Ctx} (h : fetchable w.db (c.relTarget (s13.signExtend 32)).toNat = true) :
    jmpBody s13 s w c = takeBranch id s w c c (c.relTarget (s13.signExtend 32)) := by
  simp only [jmpBody, h]; rfl

theorem jmpBody_unfetchable {s13 : BitVec 13} {w : Who} {c : Ctx} (h : fetchable w.db (c.relTarget (s13.signExtend 32)).toNat = false) :
    jmpBody s13 s w c = .fault s c (.berr (c.relTarget (s13.signExtend 32))) := by
  simp only [jmpBody, h]; rfl

/-! ### Conditional branches -/

/-- Without trace a branch leaves no packet. -/
theorem traceBranch_untraced (h : s.tracing = false) (c : Ctx) (taken : Bool) : s.traceBranch k c taken = s := by
  simp [State.traceBranch, State.traced, h]

/-- The fetch does not turn trace on. -/
@[simp] theorem fetched_tracing : (s.fetched k).tracing = s.tracing := by
  change State.tracing { s.fetched k with eng := [], fw := [], freeCtr := 0 } = _
  rw [fetched_rest]; rfl

/-- The bank after the operand of a branch of condition `ccc`: TZ pops T. -/
def Ctx.branched (c : Ctx) (ccc : Nat) : Ctx := if ccc = 7 then c.drop 1 else c

/-- A branch has its operand: TZ finds T in the window. -/
def Ctx.branchable (c : Ctx) (ccc : Nat) : Prop := ccc = 7 → 1 ≤ c.docc

theorem branchable_needs_none {c : Ctx} {ccc : Nat} (h : c.branchable ccc) :
    (if ccc = 7 then c.needData 1 else none) = none := by
  by_cases h7 : ccc = 7
  · rw [if_pos h7, Ctx.needData, if_pos (h h7)]
  · rw [if_neg h7]

/-- The loop buffer tells its active closing branch. -/
theorem notTaken_active (l : LoopBuf) (pc tgt : Word) : (l.notTaken pc tgt).2 = decide (l.active = some (tgt, pc)) := by
  unfold LoopBuf.notTaken
  by_cases hactive : l.active = some (tgt, pc)
  · rw [if_pos hactive, decide_eq_true hactive]
  · rw [if_neg hactive, decide_eq_false hactive]
    split <;> rfl

section
variable {ccc : Nat} {s10 : BitVec 10} {w : Who} {c : Ctx}

theorem bccBody_taken (ho : c.branchable ccc) (ht : s.tracing = false) (hcond : c.fl.cond c.t ccc = true)
    (hf : fetchable w.db (c.relTarget (s10.signExtend 32)).toNat = true) :
    bccBody ccc s10 s w c = takeBranch (fun n => if s10.msb then n else 4) s w c (c.branched ccc) (c.relTarget (s10.signExtend 32)) := by
  simp only [bccBody, branchable_needs_none ho, traceBranch_untraced ht, ite_self, hcond, hf]; rfl

theorem bccBody_unfetchable (ho : c.branchable ccc) (hcond : c.fl.cond c.t ccc = true)
    (hf : fetchable w.db (c.relTarget (s10.signExtend 32)).toNat = false) :
    bccBody ccc s10 s w c = .fault s c (.berr (c.relTarget (s10.signExtend 32))) := by
  simp only [bccBody, branchable_needs_none ho, hcond, hf]; rfl

/-- A branch that goes on leaves the loop buffer as R40 says; where it was the closing branch of the active loop buffer it costs 3
beats, for the sequential fetch restarts. -/
theorem bccBody_untaken (ho : c.branchable ccc) (ht : s.tracing = false) (hcond : c.fl.cond c.t ccc = false) :
    bccBody ccc s10 s w c =
      .done (s.modEng w.k (fun e => { e with
          lb := ((s.engAt w.k).lb.notTaken c.pc (c.relTarget (s10.signExtend 32))).1
          fetch := if ((s.engAt w.k).lb.notTaken c.pc (c.relTarget (s10.signExtend 32))).2 then none else e.fetch }))
        (c.branched ccc)
        (if (s.engAt w.k).lb.active = some (c.relTarget (s10.signExtend 32), c.pc) then 3
          else if w.db = false ∧ s10.msb = true then 4 else 1) := by
  simp only [bccBody, branchable_needs_none ho, traceBranch_untraced ht, ite_self, hcond, notTaken_active]
  simp [Ctx.branched]

end

/-- Every command that runs a conditional branch: where its condition is false it goes on, where it is true it jumps, or traps
when its target cannot be fetched. -/
theorem branch_follows {i : Instr} {word : BitVec 16} {ccc : Nat} {s10 : BitVec 10} {c1 : Ctx} {taken : Bool} {tgt : Word}
    (r : Ready s k) (ht : s.tracing = false) (he : exec i s = runInstr k word true (bccBody ccc s10) s)
    (ho : (s.bank k).branchable ccc) (hcond : (s.bank k).fl.cond (s.bank k).t ccc = taken)
    (hc1 : (s.bank k).branched ccc = c1) (htgt : (s.bank k).relTarget (s10.signExtend 32) = tgt) :
    (taken = false → ∃ s1, Rerouted (s.fetched k) k s1 ∧ Completes i s k s1 c1
      (if (s.engAt k).lb.active = some (tgt, (s.bank k).pc) then 3
        else if (s.who k).db = false ∧ s10.msb = true then 4 else 1)) ∧
    (taken = true → fetchable (s.who k).db tgt.toNat = true → ∃ s1, Rerouted (s.fetched k) k s1 ∧ Jumps i s k s1 c1 tgt
      (if ((s.engAt k).lb.taken (s.bank k).pc tgt).2 then 1 else if (s.who k).db then 3
        else if s10.msb then
          if (s.engAt k).tbHit (s.bank k).pc tgt (((s.who k).id.getD 0) % 16) then 1 else 2
        else 4)) ∧
    (taken = true → fetchable (s.who k).db tgt.toNat = false →
      Traps i s k (s.fetched k) (s.bank k) (.berr tgt) (s.bank k).resumePc word) := by
  subst hcond hc1 htgt
  have ht' : (s.fetched k).tracing = false := fetched_tracing.trans ht
  refine ⟨fun hcond => ?_, fun hcond hf => ?_, fun hcond hf => ?_⟩
  · have hb := bccBody_untaken (s10 := s10) (w := s.who k) ho ht' hcond
    rw [who_k, fetched_lb] at hb
    exact ⟨_, (Rerouted.refl _ k).setLoop _,
      (completes_done r he (.inl rfl) hb ⟨by simp, by simp, by simp⟩).forgetFetch⟩
  · exact jumps_takeBranch r he (.inl rfl) (bccBody_taken ho ht' hcond hf)
  · exact traps_fault r he (.inl rfl) (bccBody_unfetchable ho hcond hf) (by simp [Flt.berr]) .fetched

/-- The conditions EQ to VS test FL alone (R105). -/
theorem Fl.cond_of_ne_seven (f : Fl) (t : Word) {ccc : BitVec 3} (h : ccc ≠ 7) : f.cond t ccc.toNat =
    match ccc.toNat with
    | 0 => f.z | 1 => !f.z | 2 => f.n != f.v | 3 => f.n == f.v | 4 => !f.c | 5 => f.c | _ => f.v := by
  have hlt : ccc.toNat < 7 := by bv_omega
  generalize ccc.toNat = n at hlt
  match n, hlt with
  | 0, _ | 1, _ | 2, _ | 3, _ | 4, _ | 5, _ | 6, _ => rfl

theorem exec_bcc (k : Nat) (ccc : BitVec 3) (s10 : BitVec 10) (s : State) : exec (.bcc k ccc s10) s =
    runInstr k (BitVec.ofNat 16 (0x2000 + 0x400 * ccc.toNat + s10.toNat)) true (bccBody ccc.toNat s10) s := by
  rw [Nat.mul_comm 0x400]; rfl

/-- Settles O18: each command runs one body, whose outcomes are a taken branch, a branch that goes on, and the fault of its target. -/
theorem branchesFollowConditions : Obligations.BranchesFollowConditions := by
  unfold Obligations.BranchesFollowConditions
  intro k s s13 ccc s10 r ht
  refine ⟨fun hl => ?_, fun hne => ?_, fun hocc => ?_⟩
  · simp only [← relTarget_signExtend]
    exact ⟨fun hf => jumps_takeBranch r rfl (.inr hl) (jmpBody_fetchable hf),
      fun hf => traps_fault r rfl (.inr hl) (jmpBody_unfetchable hf) (by simp [Flt.berr]) .fetched⟩
  · have hccc : ccc.toNat ≠ 7 := by bv_omega
    exact branch_follows r ht (exec_bcc k ccc s10 s) (fun h => absurd h hccc) (Fl.cond_of_ne_seven _ _ hne) (if_neg hccc)
      (relTarget_signExtend _ s10)
  · exact branch_follows r ht rfl (fun _ => hocc) rfl rfl (relTarget_signExtend _ s10)

end Sys2Proof.Machine
end

section
/-! Sums, differences and logic of group 1 (spec 05 R124): the exact value and carry of `addFl` and `subFl`, and the statement
settled from them. -/

namespace Sys2Proof.Machine
variable {s : State} {k : Nat}

/-- A command whose body works on the bank alone completes with the results and flags of its operands. -/
theorem completes_data {i : Instr} {w : BitVec 16} {pop push cost : Nat} {f : Ctx → List Word → AluOut} {o : AluOut}
    (r : Ready s k) (he : exec i s = runInstr k w true (dataBody pop push cost f) s) (h : (s.bank k).fits pop push)
    (ho : f (s.bank k) ((s.bank k).top pop) = o) :
    Completes i s k (s.fetched k) (((s.bank k).replace pop o.res).setFl o.fl) cost :=
  completes_stack r he h (by rw [ho]) .fetched

/-! ### Exact values -/

/-- Wrapping to 32 bits changes exactly the values outside the signed range. -/
theorem ofInt_moves_iff (x : Int) : (BitVec.ofInt 32 x).toInt ≠ x ↔ x < -2 ^ 31 ∨ 2 ^ 31 ≤ x := by
  rw [BitVec.toInt_ofInt, Int.bmod_def]
  omega

/-- A sum and its flags from the exact signed value and the carry out of bit 31. -/
theorem addFl_exact {f : Fl} {a b : Word} {cin : Bool} {x : Int} {carry : Prop} [Decidable carry]
    (hx : a.toInt + b.toInt + cin.toNat = x) (hc : 2 ^ 32 ≤ a.toNat + b.toNat + cin.toNat ↔ carry) :
    addFl f a b cin = (BitVec.ofInt 32 x, f.arith x (decide carry)) := by
  have hr : a + b + BitVec.ofNat 32 cin.toNat = BitVec.ofInt 32 x := by
    rw [← hx, BitVec.ofInt_add, BitVec.ofInt_add, BitVec.ofInt_toInt, BitVec.ofInt_toInt, BitVec.ofInt_natCast]
  simp only [addFl, Fl.zn, Fl.arith, hr, hx, hc, ofInt_moves_iff]

/-- A difference and its flags from the exact signed value and "no borrow". -/
theorem subFl_exact {f : Fl} {a b : Word} {cin : Bool} {x : Int} {carry : Prop} [Decidable carry]
    (hx : a.toInt - b.toInt - 1 + cin.toNat = x) (hc : b.toNat + 1 ≤ a.toNat + cin.toNat ↔ carry) :
    subFl f a b cin = (BitVec.ofInt 32 x, f.arith x (decide carry)) := by
  have hr : a + ~~~b + BitVec.ofNat 32 cin.toNat = BitVec.ofInt 32 x := by
    rw [← hx, Int.sub_eq_add_neg, Int.sub_eq_add_neg]
    simp only [BitVec.ofInt_add, BitVec.ofInt_neg, BitVec.ofInt_toInt, BitVec.ofInt_natCast]
    bv_omega
  have hcarry : 2 ^ 32 ≤ a.toNat + (~~~b).toNat + cin.toNat ↔ carry := by
    rw [← hc, BitVec.toNat_not]
    omega
  simp only [subFl, Fl.zn, Fl.arith, hr, hx, hcarry, ofInt_moves_iff]

/-! ### Group 1 -/

/-- A group 1 command completes with the results and flags of its operation. -/
theorem completes_alu {i : Instr} {w : BitVec 16} (op : AluOp) {o : AluOut} (r : Ready s k)
    (he : exec i s = runInstr k w true (aluBody op) s) (h : (s.bank k).fits op.arity op.results)
    (ho : op.eval (s.bank k).fl ((s.bank k).top op.arity) = o) :
    Completes i s k (s.fetched k) (((s.bank k).replace op.arity o.res).setFl o.fl) 1 :=
  completes_data r he h ho

/-- A group 1 command whose one result is a sum or difference `p` completes with the exact value wrapped. -/
theorem completes_exact {i : Instr} {w : BitVec 16} (op : AluOp) {p : Word × Fl} {x : Int} {carry : Bool} (r : Ready s k)
    (he : exec i s = runInstr k w true (aluBody op) s) (h : (s.bank k).fits op.arity op.results)
    (hp : p = (BitVec.ofInt 32 x, (s.bank k).fl.arith x carry))
    (ho : op.eval (s.bank k).fl ((s.bank k).top op.arity) = { res := [p.1], fl := p.2 }) :
    Completes i s k (s.fetched k)
      (((s.bank k).replace op.arity [BitVec.ofInt 32 x]).setFl ((s.bank k).fl.arith x carry)) 1 := by
  subst hp
  exact completes_alu op r he h ho

/-- Settles O3: each command runs one operation of group 1, whose result and flags are those of an exact sum or difference; the
logic operations keep C and V. -/
theorem arithmeticFlags : Obligations.ArithmeticFlags := by
  unfold Obligations.ArithmeticFlags
  intro k s r c b a cin sum logic
  refine ⟨fun h => ?add, fun h => ?adc, fun h => ?inc, fun h => ?sub, fun h => ?sbc, fun h => ?rsub, fun h => ?neg, fun h => ?dec,
    fun h => ?cmp, fun h => ?and, fun h => ?or, fun h => ?xor, fun h => ?andn, fun h => ?not⟩
  case add => exact completes_exact .add r rfl h (addFl_exact (a := a) (b := b) (cin := false) (by simp) (by simp)) rfl
  case adc => exact completes_exact .adc r rfl h (addFl_exact (a := a) (b := b) (cin := c.fl.c) rfl .rfl) rfl
  case inc => exact completes_exact .inc r rfl h (addFl_exact (a := b) (b := 1) (cin := false) (by simp) (by simp)) rfl
  case sub => exact completes_exact .sub r rfl h (subFl_exact (a := a) (b := b) (cin := true) (by simp) (by simp)) rfl
  case sbc => exact completes_exact .sbc r rfl h (subFl_exact (a := a) (b := b) (cin := c.fl.c) (by omega) .rfl) rfl
  case rsub => exact completes_exact .rsub r rfl h (subFl_exact (a := b) (b := a) (cin := true) (by simp) (by simp)) rfl
  case neg => exact completes_exact .neg r rfl h (subFl_exact (a := 0) (b := b) (cin := true) (by simp) (by bv_omega)) rfl
  case dec => exact completes_exact .dec r rfl h (subFl_exact (a := b) (b := 1) (cin := true) (by simp) (by simp)) rfl
  case cmp =>
    have hdiff := subFl_exact (f := c.fl) (a := a) (b := b) (cin := true) (x := a.toInt - b.toInt) (carry := b.toNat ≤ a.toNat)
      (by simp) (by simp)
    exact completes_alu .cmp r rfl h (congrArg (AluOut.mk [] ∘ Prod.snd) hdiff)
  case and => exact completes_alu .and r rfl h rfl
  case or => exact completes_alu .or r rfl h rfl
  case xor => exact completes_alu .xor r rfl h rfl
  case andn => exact completes_alu .andn r rfl h rfl
  case not => exact completes_alu .not r rfl h rfl

end Sys2Proof.Machine
end

section
/-! Saturating operations of group 2 (spec 05 R126, R127): values and lanes moved into the signed range, and the statement settled
from them. -/

namespace Sys2Proof.Machine
variable {s : State} {k : Nat}

/-! ### The signed range -/

/-- `x` lies in the signed range of `w` bits. -/
def InRange (w : Nat) (x : Int) : Prop := -(2 ^ (w - 1)) ≤ x ∧ x < 2 ^ (w - 1)

theorem inRange_toInt {w : Nat} (x : BitVec w) : InRange w x.toInt := ⟨x.le_toInt, x.toInt_lt⟩

/-- A word holds a value of its range unchanged. -/
theorem toInt_ofInt_inRange {w : Nat} {x : Int} (hw : 0 < w) (h : InRange w x) : (BitVec.ofInt w x).toInt = x :=
  BitVec.toInt_ofInt_eq_self hw h.1 h.2

theorem two_pow_pos_int (n : Nat) : (0 : Int) < 2 ^ n := Int.pow_pos (by decide)

theorem inRange_satTo (w : Nat) (x : Int) : InRange w (satTo w x) := by
  have hpow := two_pow_pos_int (w - 1)
  unfold InRange satTo
  omega

/-- The model's clamp moves the value into the range and tells whether it moved. -/
theorem clampTo_eq (w : Nat) (x : Int) : clampTo w x = (satTo w x, decide (satTo w x ≠ x)) := by
  have hpow := two_pow_pos_int (w - 1)
  unfold clampTo satTo
  dsimp only
  generalize (2 : Int) ^ (w - 1) = d at hpow
  by_cases hhi : d - 1 < x
  · rw [if_pos hhi, Prod.mk.injEq, eq_comm (a := true), decide_eq_true_eq]
    omega
  · by_cases hlo : x < -d
    · rw [if_neg hhi, if_pos hlo, Prod.mk.injEq, eq_comm (a := true), decide_eq_true_eq]
      omega
    · rw [if_neg hhi, if_neg hlo, Prod.mk.injEq, eq_comm (a := false), decide_eq_false_iff_not]
      omega

/-! ### Lanes -/

@[simp] theorem laneHi_append (h l : BitVec 16) : laneHi (h ++ l) = h.toInt :=
  congrArg BitVec.toInt BitVec.extractLsb'_append_eq_left

@[simp] theorem laneLo_append (h l : BitVec 16) : laneLo (h ++ l) = l.toInt :=
  congrArg BitVec.toInt BitVec.extractLsb'_append_eq_right

/-- No operation of group 2 looks below its operands. -/
theorem satEval_top_three (op : SatOp) (m : Md) (f : Fl) (c : Ctx) : op.eval m f (c.top op.arity) = op.eval m f (c.top 3) := by
  cases op <;> rfl

/-! ### Group 2 -/

/-- `g` applied to the value, or the lane, that `read` takes of the three youngest entries. -/
def Ctx.satLane (c : Ctx) (g : Nat → Int → Int → Int → Int) (w : Nat) (read : Word → Int) : Int :=
  g w (read (c.data 2)) (read (c.data 1)) (read (c.data 0))

/-- The word `r` holds the value `res` of the youngest entries, or of each of their lanes (R126). -/
def Ctx.satHolds (c : Ctx) (res : Nat → Int → Int → Int → Int) (r : Word) : Prop :=
  if c.md.fmt then laneHi r = c.satLane res 16 laneHi ∧ laneLo r = c.satLane res 16 laneLo
  else r.toInt = c.satLane res 32 BitVec.toInt

/-- The value, or a lane, of the result differs from the exact one: what sets FL.S (R126, R127). -/
def Ctx.satMoved (c : Ctx) (exact res : Nat → Int → Int → Int → Int) : Bool :=
  if c.md.fmt then
    decide (c.satLane res 16 laneHi ≠ c.satLane exact 16 laneHi) || decide (c.satLane res 16 laneLo ≠ c.satLane exact 16 laneLo)
  else decide (c.satLane res 32 BitVec.toInt ≠ c.satLane exact 32 BitVec.toInt)

/-- Operation `op` gives `res` of each value or lane, where the exact value is `exact` and SHLS shifts by T modulo the width. -/
structure SatOp.Gives (op : SatOp) (t : Word) (exact res : Nat → Int → Int → Int → Int) : Prop where
  lane : ∀ w c b a, op.lane w (t.toNat % w) c b a = (res w c b a, decide (res w c b a ≠ exact w c b a))
  inRange : ∀ w c b a, InRange w c → InRange w b → InRange w a → InRange w (res w c b a)

/-- An operation that clamps its exact value. -/
theorem SatOp.gives_satTo {op : SatOp} {t : Word} {exact : Nat → Int → Int → Int → Int}
    (h : ∀ w c b a, op.lane w (t.toNat % w) c b a = clampTo w (exact w c b a)) :
    op.Gives t exact (fun w c b a => satTo w (exact w c b a)) where
  lane w c b a := (h w c b a).trans (clampTo_eq _ _)
  inRange _ _ _ _ _ _ _ := inRange_satTo _ _

/-- CLAMP moves x into the range from lo to hi, and gives hi where that range is empty (R127). -/
theorem SatOp.gives_clamp (t : Word) :
    SatOp.clamp.Gives t (fun _ x _ _ => x) (fun _ x lo hi => if hi < lo then hi else Min.min (Max.max x lo) hi) where
  lane w x lo hi := by
    have h : (if hi < lo then hi else Min.min (Max.max x lo) hi) = Min.min (Max.max x lo) hi := by
      split <;> omega
    simp only [SatOp.lane, h]
  inRange w x lo hi hx hlo hhi := by
    unfold InRange at *
    split <;> omega

/-- The result and flags of an operation of group 2 in both formats. -/
theorem SatOp.Gives.eval {op : SatOp} {c : Ctx} {exact res : Nat → Int → Int → Int → Int} (h : op.Gives (c.data 0) exact res) :
    ∃ r : Word, c.satHolds res r ∧ op.eval c.md c.fl (c.top op.arity) =
      { res := [r], fl := { s := c.fl.s || c.satMoved exact res, n := r.msb, z := r == 0, c := false, v := false } } := by
  have htop : c.top 3 = [c.data 0, c.data 1, c.data 2] := rfl
  have hin : ∀ w (read : Word → Int), (∀ x, InRange w (read x)) → InRange w (c.satLane res w read) := fun w read hread =>
    h.inRange w _ _ _ (hread _) (hread _) (hread _)
  have hlane : ∀ w (read : Word → Int), op.lane w ((c.data 0).toNat % w) (read (c.data 2)) (read (c.data 1)) (read (c.data 0)) =
      (c.satLane res w read, decide (c.satLane res w read ≠ c.satLane exact w read)) := fun w _ => h.lane w _ _ _
  rw [satEval_top_three, htop]
  by_cases hfmt : c.md.fmt = true
  · refine ⟨BitVec.ofInt 16 (c.satLane res 16 laneHi) ++ BitVec.ofInt 16 (c.satLane res 16 laneLo), ?_, ?_⟩
    · have hhi := toInt_ofInt_inRange (by decide) (hin 16 laneHi fun _ => inRange_toInt _)
      have hlo := toInt_ofInt_inRange (by decide) (hin 16 laneLo fun _ => inRange_toInt _)
      rw [Ctx.satHolds, if_pos hfmt, laneHi_append, laneLo_append]
      exact ⟨hhi, hlo⟩
    · simp [SatOp.eval, hfmt, hlane 16 laneHi, hlane 16 laneLo, Ctx.satMoved, Bool.or_assoc]
  · refine ⟨BitVec.ofInt 32 (c.satLane res 32 BitVec.toInt), ?_, ?_⟩
    · rw [Ctx.satHolds, if_neg hfmt]
      exact toInt_ofInt_inRange (by decide) (hin 32 _ inRange_toInt)
    · simp [SatOp.eval, hfmt, hlane 32 BitVec.toInt, Ctx.satMoved]

/-- Each command of group 2 completes with what its operation gives. -/
theorem completes_sat {i : Instr} {w : BitVec 16} {op : SatOp} {exact res : Nat → Int → Int → Int → Int} (r : Ready s k)
    (he : exec i s = runInstr k w true (satBody op) s) (h : op.Gives ((s.bank k).data 0) exact res)
    (hf : (s.bank k).fits op.arity 1) :
    ∃ x : Word, (s.bank k).satHolds res x ∧ Completes i s k (s.fetched k) (((s.bank k).replace op.arity [x]).setFl
      { s := (s.bank k).fl.s || (s.bank k).satMoved exact res, n := x.msb, z := x == 0, c := false, v := false }) 1 := by
  obtain ⟨x, hx, heval⟩ := h.eval
  exact ⟨x, hx, completes_data r he hf heval⟩

/-- Settles O5: each command runs one operation of group 2, which clamps an exact value, or is CLAMP; SHLS by 0 multiplies by 1. -/
theorem saturatingResults : Obligations.SaturatingResults := by
  unfold Obligations.SaturatingResults
  intro k s r c x0 x1 x2 out sat shift
  refine ⟨completes_sat (op := .adds) r rfl (SatOp.gives_satTo fun _ _ _ _ => rfl),
    completes_sat (op := .subs) r rfl (SatOp.gives_satTo fun _ _ _ _ => rfl),
    completes_sat (op := .negs) r rfl (SatOp.gives_satTo fun _ _ _ _ => rfl),
    completes_sat (op := .abss) r rfl (SatOp.gives_satTo fun _ _ _ _ => rfl),
    completes_sat (op := .clamp) r rfl (SatOp.gives_clamp _),
    completes_sat (op := .shls) r rfl (SatOp.gives_satTo fun _ _ _ _ => rfl), fun w b h => ?_⟩
  simp [shift, h]

end Sys2Proof.Machine
end

section
/-! Shifts of groups 3 and 4 (spec 05 R128, R129): the model's shift by any amount as that many single-bit shifts, SARR as exact
rounding, and the statement settled from them. -/

namespace Sys2Proof.Machine
variable {s : State} {k : Nat}

/-! ### Single-bit shifts -/

theorem repeat_shl1_fst (a : Word) (n : Nat) : (Nat.repeat shl1 n (a, false)).1 = a <<< n := by
  induction n with
  | zero => simp [Nat.repeat]
  | succ n ih => rw [Nat.repeat, shl1, ih, BitVec.shiftLeft_add]

theorem repeat_shr1_fst (a : Word) (n : Nat) : (Nat.repeat shr1 n (a, false)).1 = a >>> n := by
  induction n with
  | zero => simp [Nat.repeat]
  | succ n ih => rw [Nat.repeat, shr1, ih, BitVec.shiftRight_add]

theorem repeat_sar1_fst (a : Word) (n : Nat) : (Nat.repeat sar1 n (a, false)).1 = a.sshiftRight n := by
  induction n with
  | zero => simp [Nat.repeat]
  | succ n ih => rw [Nat.repeat, sar1, ih, BitVec.sshiftRight_add]

/-- SHL of the model is `n` single-bit shifts, with the last bit that they bring out (R129). -/
theorem repeat_shl1 (a : Word) (n : Nat) : Nat.repeat shl1 n (a, false) =
    (if 32 ≤ n then 0 else a <<< n, if n = 0 then false else if n ≤ 32 then a.getLsbD (32 - n) else false) := by
  refine Prod.ext ?_ ?_
  · rw [repeat_shl1_fst]
    split
    case isTrue h => exact BitVec.shiftLeft_eq_zero h
    case isFalse => rfl
  · cases n with
    | zero => rfl
    | succ n =>
      rw [Nat.repeat, shl1, repeat_shl1_fst, BitVec.msb_shiftLeft, BitVec.getMsbD]
      by_cases h : n < 32
      · have h32 : n + 1 ≤ 32 := h
        have hsub : 32 - 1 - n = 32 - (n + 1) := by omega
        simp only [h, h32, hsub, decide_true, Bool.true_and, if_true, if_neg (Nat.succ_ne_zero n)]
      · have h32 : ¬ n + 1 ≤ 32 := h
        simp only [h, h32, decide_false, Bool.false_and, if_false, if_neg (Nat.succ_ne_zero n)]

/-- The last bit out of a right shift by at least 1. -/
theorem lastOutRight_succ (a : Word) (n : Nat) (sign : Bool) :
    lastOutRight a (n + 1) sign = if n < 32 then a.getLsbD n else sign := by
  rw [lastOutRight, if_neg (Nat.succ_ne_zero n), Nat.add_sub_cancel]
  rfl

/-- SHR of the model is `n` single-bit shifts. -/
theorem repeat_shr1 (a : Word) (n : Nat) : Nat.repeat shr1 n (a, false) =
    (if 32 ≤ n then 0 else a >>> n, lastOutRight a n false) := by
  refine Prod.ext ?_ ?_
  · rw [repeat_shr1_fst]
    split
    case isTrue h => exact BitVec.ushiftRight_eq_zero h
    case isFalse => rfl
  · cases n with
    | zero => rfl
    | succ n =>
      rw [Nat.repeat, shr1, repeat_shr1_fst, BitVec.getLsbD_ushiftRight, Nat.add_zero, lastOutRight_succ]
      by_cases h : n < 32
      · rw [if_pos h]
      · rw [if_neg h, BitVec.getLsbD_of_ge a n (Nat.le_of_not_lt h)]

/-- An arithmetic shift by more than the width is one by the width. -/
theorem sshiftRight_min (a : Word) (n : Nat) : a.sshiftRight (Min.min n 32) = a.sshiftRight n := by
  rcases Nat.le_total n 32 with h | h
  · rw [Nat.min_eq_left h]
  · rw [Nat.min_eq_right h]
    refine BitVec.eq_of_getLsbD_eq fun i hi => ?_
    rw [BitVec.getLsbD_sshiftRight, BitVec.getLsbD_sshiftRight, if_neg (show ¬ 32 + i < 32 by omega),
      if_neg (show ¬ n + i < 32 by omega)]

/-- SAR of the model is `n` single-bit shifts. -/
theorem repeat_sar1 (a : Word) (n : Nat) : Nat.repeat sar1 n (a, false) =
    (a.sshiftRight (Min.min n 32), lastOutRight a n a.msb) := by
  refine Prod.ext ?_ ?_
  · rw [repeat_sar1_fst, sshiftRight_min]
  · cases n with
    | zero => rfl
    | succ n =>
      rw [Nat.repeat, sar1, repeat_sar1_fst, BitVec.getLsbD_sshiftRight, Nat.add_zero, lastOutRight_succ]
      rfl

/-! ### Rounding: one equation per mode of MODE.RND (spec 04 R96), and what they have in common -/

theorem roundShift_truncate (v : Int) (n : Nat) : roundShift 0 v n = v / 2 ^ n := rfl

theorem roundShift_halfUp (v : Int) (n : Nat) :
    roundShift 1 v n = if 2 ^ n ≤ 2 * (v % 2 ^ n) then v / 2 ^ n + 1 else v / 2 ^ n := rfl

theorem roundShift_halfEven (v : Int) (n : Nat) : roundShift 2 v n =
    if 2 ^ n < 2 * (v % 2 ^ n) then v / 2 ^ n + 1
    else if 2 * (v % 2 ^ n) = 2 ^ n then (if v / 2 ^ n % 2 = 0 then v / 2 ^ n else v / 2 ^ n + 1) else v / 2 ^ n := rfl

theorem roundShift_convergent (rnd : Nat) (v : Int) (n : Nat) : roundShift (rnd + 3) v n =
    if v % 2 ^ n = 0 then v / 2 ^ n else if v / 2 ^ n % 2 = 0 then v / 2 ^ n + 1 else v / 2 ^ n := rfl

/-- The model rounds the exact value as MODE.RND says (spec 04 R96). -/
theorem rounded_roundShift (rnd : Nat) (v : Int) (n : Nat) : Rounded rnd v n (roundShift rnd v n) := by
  have hd := two_pow_pos_int n
  have hv := Int.mul_ediv_add_emod v (2 ^ n)
  have hnonneg := Int.emod_nonneg v (Int.ne_of_gt hd)
  have hlt := Int.emod_lt_of_pos v hd
  match rnd with
  | 0 =>
    rw [roundShift_truncate]
    simp only [Rounded, Int.add_mul, Int.mul_comm (v / 2 ^ n)]
    omega
  | 1 =>
    rw [roundShift_halfUp]
    split
    all_goals
      simp only [Rounded, Int.add_mul, Int.sub_mul, Int.mul_add, Int.mul_assoc, Int.mul_comm (v / 2 ^ n)]
      omega
  | 2 =>
    rw [roundShift_halfEven]
    repeat' split
    all_goals
      simp only [Rounded, Int.add_mul, Int.sub_mul, Int.mul_add, Int.mul_assoc, Int.mul_comm (v / 2 ^ n)]
      omega
  | rnd + 3 =>
    rw [roundShift_convergent]
    repeat' split
    all_goals
      simp only [Rounded, Int.add_mul, Int.sub_mul, Int.mul_comm (v / 2 ^ n)]
      omega

/-- No shift at all leaves the value. -/
theorem roundShift_zero (rnd : Nat) (v : Int) : roundShift rnd v 0 = v := by
  match rnd with
  | 0 => simp [roundShift_truncate]
  | 1 => simp [roundShift_halfUp]
  | 2 => simp [roundShift_halfEven]
  | rnd + 3 => simp [roundShift_convergent]

/-- The rounded value is a neighbour of the exact one. -/
theorem roundShift_near (rnd : Nat) (v : Int) (n : Nat) :
    v / 2 ^ n ≤ roundShift rnd v n ∧ roundShift rnd v n ≤ v / 2 ^ n + 1 := by
  match rnd with
  | 0 => rw [roundShift_truncate]; omega
  | 1 => rw [roundShift_halfUp]; omega
  | 2 => rw [roundShift_halfEven]; omega
  | rnd + 3 => rw [roundShift_convergent]; omega

/-- A rounded shift stays in the signed range. -/
theorem inRange_roundShift {rnd : Nat} {v : Int} {n : Nat} (h : InRange 32 v) : InRange 32 (roundShift rnd v n) := by
  cases n with
  | zero => rwa [roundShift_zero]
  | succ n =>
    obtain ⟨hlo, hhi⟩ := h
    have hd := two_pow_pos_int n
    have hpow : (2 : Int) ^ (n + 1) = 2 * 2 ^ n := by rw [Int.pow_succ, Int.mul_comm]
    have hq : -2 ^ 31 ≤ v / 2 ^ (n + 1) := Int.le_ediv_of_mul_le (by omega) (by omega)
    have hq1 : v / 2 ^ (n + 1) < 2 ^ 31 - 1 := Int.ediv_lt_of_lt_mul (by omega) (by omega)
    obtain ⟨hge, hle⟩ := roundShift_near rnd v (n + 1)
    constructor <;> omega

theorem two_pow_le_int {m n : Nat} (h : m ≤ n) : (2 : Int) ^ m ≤ 2 ^ n := by
  exact_mod_cast Nat.pow_le_pow_right (by decide : 0 < 2) h

/-- What a value below half a unit rounds to. -/
def roundFar (rnd : Nat) (v : Int) : Int :=
  match rnd with
  | 0 => if v < 0 then -1 else 0
  | 1 | 2 => 0
  | _ => v.sign

theorem roundShift_far {rnd : Nat} {v : Int} {n : Nat} (hlo : -2 ^ n < 2 * v) (hhi : 2 * v < 2 ^ n) :
    roundShift rnd v n = roundFar rnd v := by
  have hdm : (v / 2 ^ n = if v < 0 then -1 else 0) ∧ (v % 2 ^ n = if v < 0 then v + 2 ^ n else v) := by
    rw [Int.ediv_emod_unique (two_pow_pos_int n)]
    split <;> omega
  obtain ⟨hdiv, hmod⟩ := hdm
  match rnd with
  | 0 => rw [roundShift_truncate, hdiv]; rfl
  | 1 => rw [roundShift_halfUp, hdiv, hmod]; simp only [roundFar]; omega
  | 2 => rw [roundShift_halfEven, hdiv, hmod]; simp only [roundFar]; omega
  | rnd + 3 =>
    rw [roundShift_convergent, hdiv, hmod]
    change _ = v.sign
    rcases Int.lt_trichotomy v 0 with h | rfl | h
    · rw [Int.sign_eq_neg_one_of_neg h]; omega
    · rfl
    · rw [Int.sign_eq_one_of_pos h]; omega

/-- From 64 on the amount makes no difference to a word. -/
theorem roundShift_min {rnd : Nat} {v : Int} (h : InRange 32 v) (n : Nat) :
    roundShift rnd v (Min.min n 64) = roundShift rnd v n := by
  obtain ⟨hlo, hhi⟩ := h
  rcases Nat.le_total n 64 with hn | hn
  · rw [Nat.min_eq_left hn]
  · have hpow : (2 : Int) ^ 64 ≤ 2 ^ n := two_pow_le_int hn
    rw [Nat.min_eq_right hn, roundShift_far (by omega) (by omega), roundShift_far (by omega) (by omega)]

/-! ### Groups 3 and 4 -/

/-- How many entries a shift takes (R128). -/
def ShAmt.pop : ShAmt → Nat
  | .imm _ => 1
  | .byT => 2

/-- The value that a shift shifts (R128). -/
def Ctx.shifted (c : Ctx) : ShAmt → Word
  | .imm _ => c.data 0
  | .byT => c.data 1

/-- The amount of a shift (R128). -/
def Ctx.amount (c : Ctx) : ShAmt → Nat
  | .imm n => n.toNat
  | .byT => (c.data 0).toNat

/-- What a shift leaves of its result and the bit it brings out (R129). -/
def ShOp.out (f : Fl) (p : Word × Bool) : AluOut := { res := [p.1], fl := { f.zn p.1 with c := p.2 } }

/-- Each command of groups 3 and 4 completes with the result and carry of its operation. -/
theorem completes_shift {i : Instr} {w : BitVec 16} (op : ShOp) (amt : ShAmt) {o : AluOut} (r : Ready s k)
    (he : exec i s = runInstr k w true (shBody op amt) s) (h : (s.bank k).fits (ShAmt.pop amt) 1)
    (ho : op.eval (s.bank k).md (s.bank k).fl ((s.bank k).shifted amt) ((s.bank k).amount amt) = o) :
    Completes i s k (s.fetched k) (((s.bank k).replace (ShAmt.pop amt) o.res).setFl o.fl) 1 := by
  cases amt with
  | imm n => exact completes_data (pop := 1) (f := fun c x => op.eval c.md c.fl (x.getD 0 0) n.toNat) r he h ho
  | byT => exact completes_data (pop := 2) (f := fun c x => op.eval c.md c.fl (x.getD 1 0) (x.getD 0 0).toNat) r he h ho

/-- The word that the model gives for SARR holds the rounded exact value. -/
theorem toInt_sarr (rnd : Nat) (a : Word) (n : Nat) :
    (BitVec.ofInt 32 (roundShift rnd a.toInt (Min.min n 64))).toInt = roundShift rnd a.toInt n := by
  rw [roundShift_min (inRange_toInt a), toInt_ofInt_inRange (by decide) (inRange_roundShift (inRange_toInt a))]

/-- In the convergent mode a positive word shifted by its width or more rounds to 1 (R129). -/
theorem roundShift_convergent_eq_one {a : Word} {n : Nat} (ha : 0 < a.toInt) (hn : 32 ≤ n) : roundShift 3 a.toInt n = 1 := by
  have hpow : (2 : Int) ^ 32 ≤ 2 ^ n := two_pow_le_int hn
  have hlt := a.toInt_lt
  rw [roundShift_far (by omega) (by omega)]
  exact Int.sign_eq_one_of_pos ha

/-- Settles O6: each command runs one shift, whose result and carry are those of the single-bit shifts by induction on the amount,
and SARR rounds the exact value; the model's cut of its amount at 64 loses nothing, for a word is then far below half of a unit. -/
theorem shiftsAreSingleBitShifts : Obligations.ShiftsAreSingleBitShifts := by
  unfold Obligations.ShiftsAreSingleBitShifts
  intro k s amt r c pop a n out h l rt x o
  let y : Word := BitVec.ofInt 32 (roundShift c.md.rnd a.toInt (Min.min n 64))
  have hy : y.toInt = roundShift c.md.rnd a.toInt n := toInt_sarr _ _ _
  refine ⟨?shl, ?shr, ?sar, ?ror, y, ?rounded, fun hn => ?unshifted, fun hrnd ha hn => ?far, ?sarr⟩
  case shl => exact completes_shift .shl amt r rfl h (congrArg (ShOp.out c.fl) (repeat_shl1 a n).symm)
  case shr => exact completes_shift .shr amt r rfl h (congrArg (ShOp.out c.fl) (repeat_shr1 a n).symm)
  case sar => exact completes_shift .sar amt r rfl h (congrArg (ShOp.out c.fl) (repeat_sar1 a n).symm)
  case ror => exact completes_shift .ror amt r rfl h rfl
  case rounded => rw [hy]; exact rounded_roundShift _ _ _
  case unshifted => exact BitVec.eq_of_toInt_eq (by rw [hy, hn, roundShift_zero])
  case far => exact BitVec.eq_of_toInt_eq (by rw [hy, hrnd, roundShift_convergent_eq_one ha hn]; rfl)
  case sarr =>
    exact completes_shift .sarr amt r rfl h (congrArg (fun p : Word × Bool => ShOp.out c.fl (y, p.2)) (repeat_sar1 a n).symm)

end Sys2Proof.Machine
end

section
/-! LOCK brackets (spec 06 R164-R166): what an instruction that issues alone counts in its bracket, the report that a bracket was cut,
the trap of an instruction that a bracket refuses, and the statement settled from them. -/

namespace Sys2Proof.Machine
variable {s s1 : State} {k : Nat}

/-! ### An instruction that issues alone -/

/-- Only consumers and conditional branches issue as the second of a pair (spec 02 R45). -/
theorem isSecond_eq_false {w : BitVec 16} (hcons : isConsumer w = false) (hbcc : isBcc w = false) (c : Ctx) (hit : Bool) :
    s.isSecond k c w hit = false := by
  unfold State.isSecond
  cases hpair : (s.engAt k).pair with
  | none => simp only [hpair]
  | some p => simp [hpair, hcons, hbcc]

/-- An instruction that issues alone counts its whole cost in the bracket. -/
theorem runInstr_done_lock (r : Ready s k) {w : BitVec 16} {ok : Bool} (hl : ok = true ∨ s.unlocked k) {body : Body} {c1 : Ctx}
    {cost : Nat} (hb : body (s.fetched k) (s.who k) (s.bank k) = .done s1 c1 cost) (hc : Calm s s1 k)
    (halone : s.isSecond k (s.bank k) w false = false) :
    ∃ t : State, runInstr k w ok body s = .next (t.settle k) ∧
      (t.engAt k).lock = ((s1.engAt k).tickLock cost).lock ∧ (t.engAt k).lockBeats = ((s1.engAt k).tickLock cost).lockBeats := by
  have hnf : ¬((s1.engAt k).st == ES.fenced) = true := by
    rw [hc.st]; simpa using ready_notFenced r
  obtain ⟨p, a, l, hf⟩ := finishAs_done (w := w) (c1 := c1) (second := false) (cost := cost) (n := cost) hnf rfl
  have hstep : ((((s1.setBank k c1.advance).modEng k (fun e =>
      { (e.tickLock cost).over a w with pair := p })).pass k l).addBeats k cost |>.engAt k).dbg.stepping = false := by
    rw [engAt_addBeats, (pass_lock _ _).2.2, engAt_modEng]
    obtain ⟨x, y, h⟩ := tickLock_only ((s1.setBank k c1.advance).engAt k) cost
    rw [h]
    exact (engAt_setBank_stepping _).trans (hc.step.trans (ready_notStepping r))
  rw [endStep_plain hstep] at hf
  refine ⟨_, by rw [runInstr_ready r hl body, hb, halone, finish, hf], ?_, ?_⟩
  · rw [engAt_addBeats, (pass_lock _ _).1, engAt_modEng]
    exact engAt_setBank _ _ (fun e => (e.tickLock _).lock) (fun e m => (tickLock_mb e m _).1) k
  · rw [engAt_addBeats, (pass_lock _ _).2.1, engAt_modEng]
    exact engAt_setBank _ _ (fun e => (e.tickLock _).lockBeats) (fun e m => (tickLock_mb e m _).2) k

@[simp] theorem fetched_lockBeats (j : Nat) : ((s.fetched k).engAt j).lockBeats = (s.engAt j).lockBeats :=
  engAt_fetched (·.lockBeats) (fun _ _ _ => rfl) s k j

/-! ### LOCK -/

/-- The word of LOCK n. -/
theorem lock_word (n : BitVec 4) : gword 16 (0x60 + n.toNat) = BitVec.ofNat 16 (0x7060 + n.toNat) := by
  unfold gword
  congr 1
  omega

theorem lock_alone (n : BitVec 4) (c : Ctx) (hit : Bool) : s.isSecond k c (gword 16 (0x60 + n.toNat)) hit = false := by
  refine isSecond_eq_false ?_ ?_ c hit
  · revert n; decide
  · revert n; decide

/-- The bracket that LOCK opens holds LOCK itself until it completes, so that `tickLock` counts its beat (R164). -/
def State.bracket (s : State) (k n : Nat) : State := s.modEng k (fun e => { e with lock := n + 1, lockBeats := 0 })

theorem Calm.bracket (n : Nat) : Calm s ((s.fetched k).bracket k n) k := by
  constructor <;> simp [State.bracket]

/-- What LOCK n does with its operand (R164). -/
def lockBody (n : BitVec 4) : Body := fun s w c =>
  if n = 0 ∨ 8 < n.toNat then .fault s c .illegal else .done (s.bracket w.k n.toNat) c 1

theorem exec_lock (k : Nat) (n : BitVec 4) (s : State) :
    exec (.lock k n) s = runInstr k (gword 16 (0x60 + n.toNat)) false (lockBody n) s := rfl

theorem lockBody_opens {n : BitVec 4} {w : Who} {c : Ctx} (h1 : 1 ≤ n.toNat) (h8 : n.toNat ≤ 8) :
    lockBody n s w c = .done (s.bracket w.k n.toNat) c 1 :=
  if_neg (by bv_omega)

/-- The bracket after the beat of LOCK: n instructions to come, one beat passed. -/
theorem tickLock_bracket {n : Nat} (hn : 1 ≤ n) : (((s.bracket k n).engAt k).tickLock 1).lock = n ∧
    (((s.bracket k n).engAt k).tickLock 1).lockBeats = 1 := by
  simp only [State.bracket, engAt_modEng, Engine.tickLock]
  rw [if_neg (by omega), if_neg (by omega), if_neg (by omega)]
  exact ⟨rfl, rfl⟩

/-- A completed instruction of one beat leaves a bracket with one instruction less, and closes it where it was the last. -/
theorem tickLock_one {e : Engine} (hlock : 0 < e.lock) (hbeats : e.lockBeats + 1 ≤ 16) :
    (e.tickLock 1).lock = e.lock - 1 ∧ (e.tickLock 1).lockBeats = if e.lock = 1 then 0 else e.lockBeats + 1 := by
  unfold Engine.tickLock
  rw [if_neg (by omega)]
  by_cases h1 : e.lock = 1
  · rw [if_pos ⟨h1, hbeats⟩, if_pos h1, h1]
    exact ⟨rfl, rfl⟩
  · rw [if_neg (fun h => h1 h.1), if_neg h1, if_neg h1]
    exact ⟨rfl, rfl⟩

/-! ### The cut at the 16th beat -/

/-- A report leaves every engine. -/
@[simp] theorem engAt_raiseInfo (ev : Ev) (j : Nat) : (s.raiseInfo ev).engAt j = s.engAt j := by
  obtain ⟨f, n, h⟩ := raiseInfo_same s ev
  rw [h]
  rfl

/-- A report of an enabled source outside every quench window sets its status bit (spec 12 R314). -/
theorem raiseInfo_stat {ev : Ev} (he : s.enabled ev = true) (hq : s.quench = []) :
    ((s.raiseInfo ev).fwAt ev.w).stat = (s.fwAt ev.w).stat ||| bitW ev.src := by
  have hquench : s.quenched ev = false := by
    unfold State.quenched
    split
    · simp [hq]
    · rfl
  unfold State.raiseInfo State.record
  rw [if_pos he, hquench, fwAt_modFw]
  have hfw : ∀ c : Bool, (if c then ({ s with freeCtr := s.freeCtr + 1 } : State) else s).fwAt ev.w = s.fwAt ev.w := by
    intro c; cases c <;> rfl
  rw [hfw]
  by_cases hcap : (s.fwAt ev.w).capValid = true <;> simp [hcap]

/-- An engine that is present has one of the first 72 fault windows. -/
theorem lt_of_hasEngine (h : s.hasEngine k = true) : k < 72 := by
  have htrains : s.variant.trains ≤ 8 := by cases s.variant <;> decide
  have := of_decide_eq_true h
  omega

/-- LOCK_TRUNC of an engine at work is enabled by its bit (spec 12 R315, R319). -/
theorem enabled_lockTrunc (h : s.hasEngine k = true) (hen : (s.fwAt k).en.getLsbD 8 = true) (hst : (s.engAt k).st ≠ .off) :
    s.enabled { w := k, src := 8 } = true := by
  have hk := lt_of_hasEngine h
  simp [State.enabled, State.hasWindow, srcInfo, srcsOf, engineSrcs, hk, h, hen, hst]

/-- Engine `k` outside any bracket. -/
def State.unlock (s : State) (k : Nat) : State := s.modEng k (fun e => { e with lock := 0, lockBeats := 0 })

/-- A cut bracket is over, and LOCK_TRUNC is reported (R165). -/
theorem exec_lockTrunc (h : s.hasEngine k = true) (hlock : 0 < (s.engAt k).lock) (hbeats : 16 ≤ (s.engAt k).lockBeats)
    (hstep : (s.engAt k).dbg.stepping = false) :
    exec (.lockTrunc k) s = .next ((s.unlock k).raiseInfo { w := k, src := 8 }) := by
  have hplain : (((s.unlock k).raiseInfo { w := k, src := 8 }).engAt k).dbg.stepping = false := by
    rw [engAt_raiseInfo, State.unlock, engAt_modEng]
    exact hstep
  have hcut : (s.engAt k).lock ≠ 0 ∧ 16 ≤ (s.engAt k).lockBeats := ⟨by omega, hbeats⟩
  calc execLockTrunc k s
      _ = .next (((s.unlock k).raiseInfo { w := k, src := 8 }).endStep k) := by
        simp only [execLockTrunc, h, hcut, Bool.not_true, Bool.false_eq_true, if_false, not_false_eq_true, and_self, if_true, ne_eq]
        rfl
      _ = .next ((s.unlock k).raiseInfo { w := k, src := 8 }) := by rw [endStep_plain hplain]

/-! ### What a bracket refuses -/

/-- The words of MOVE and FILL (R172). -/
theorem mvWord_move (wd : BitVec 2) (dir : Bool) :
    mvWord false wd dir = BitVec.ofNat 16 (0x7700 + 32 * wd.toNat + 16 * dir.toNat) := by
  rw [mvWord, gword, Bool.toNat_false]
  congr 1
  omega

theorem mvWord_fill (wd : BitVec 2) (dir : Bool) :
    mvWord true wd dir = BitVec.ofNat 16 (0x7780 + 32 * wd.toNat + 16 * dir.toNat) := by
  rw [mvWord, gword, Bool.toNat_true]
  congr 1
  omega

/-- Inside a bracket a refused instruction is one whose body is ILLEGAL. -/
theorem runInstr_refused (r : Ready s k) (hlock : (s.engAt k).lock ≠ 0) (w : BitVec 16) (body : Body) :
    runInstr k w false body s = runInstr k w true (fun s _ c => .fault s c .illegal) s := by
  have hhit : (List.range 4).any (fun i => (s.engAt k).dbg.matches (s.who k) i true false (s.bank k).pc.toNat 1
      [(s.bank k).t]) = false := by
    simp only [List.any_eq_false, List.mem_range]
    intro i hi
    rw [undebugged_matches r.plain (s.who k) hi]
    exact Bool.false_ne_true
  have hfetch : (s.touchLine k (s.bank k)).modEng k (fun e => e.issue (s.bank k).pc.toNat) = s.fetched k := rfl
  simp only [runInstr, State.execute, eccGate, r.sound, if_true, hfetch, fetched_who, fetched_dbg, hhit,
    undebugged_haltMatch r.plain]
  simp [hlock]

/-- Inside a bracket a refused instruction raises ILLEGAL precisely (R166). -/
theorem traps_refused {i : Instr} {n m : Nat} {body : Body} (r : Ready s k) (hlock : (s.engAt k).lock ≠ 0)
    (he : exec i s = runInstr k (BitVec.ofNat 16 n) false body s) (hn : n = m := by omega) :
    Traps i s k (s.fetched k) (s.bank k) .illegal (s.bank k).resumePc (BitVec.ofNat 16 m) :=
  hn ▸ traps_fault r (he.trans (runInstr_refused r hlock _ body)) (.inl rfl) rfl (by decide) .fetched

theorem exec_move (k : Nat) (wd : BitVec 2) (dir : Bool) (n : Nat) (s : State) : exec (.move k wd dir n) s =
    runInstr k (BitVec.ofNat 16 (0x7700 + 32 * wd.toNat + 16 * dir.toNat)) false
      (moveBody { fill := false, n := widthBytes wd, down := dir, wd := wd } n) s := by
  rw [← mvWord_move]; rfl

theorem exec_fill (k : Nat) (wd : BitVec 2) (dir : Bool) (n : Nat) (s : State) : exec (.fill k wd dir n) s =
    runInstr k (BitVec.ofNat 16 (0x7780 + 32 * wd.toNat + 16 * dir.toNat)) false
      (moveBody { fill := true, n := widthBytes wd, down := dir, wd := wd } n) s := by
  rw [← mvWord_fill]; rfl

/-- Settles O22: LOCK and NOP issue alone, so `tickLock` counts their one beat; the cut reports its source; an instruction that a
bracket refuses has ILLEGAL for its body. -/
theorem lockBrackets : Obligations.LockBrackets := by
  unfold Obligations.LockBrackets
  refine ⟨fun k s n => ⟨fun r hl => ⟨fun h1 h8 => ?opened, fun hn => ?illegal⟩, fun r hlock hbeats => ?counted,
    fun hk hlock hbeats hstep => ?cut⟩, fun k n s x4 x8 s13 s10 m wd dir r hlock => ?refused⟩
  case opened =>
    have hb := lockBody_opens (s := s.fetched k) (w := s.who k) (c := s.bank k) h1 h8
    rw [who_k] at hb
    obtain ⟨t, hexec, hlock, hbeats⟩ := runInstr_done_lock r (.inr hl) hb (.bracket _) (lock_alone n _ _)
    obtain ⟨hleft, hone⟩ := tickLock_bracket (s := s.fetched k) (k := k) h1
    exact ⟨completes_done r (exec_lock k n s) (.inr hl) hb (.bracket _), t, hexec, hlock.trans hleft, hbeats.trans hone⟩
  case illegal =>
    rw [← lock_word]
    exact traps_fault r (exec_lock k n s) (.inr hl) (if_pos hn) (by decide) .fetched
  case counted =>
    obtain ⟨t, hexec, hleft, hpassed⟩ := runInstr_done_lock (body := fun s _ c => .done s c 1) (w := gword 16 0) r (.inl rfl) rfl
      .fetched (isSecond_eq_false (by decide) (by decide) _ _)
    have hb16 : ((s.fetched k).engAt k).lockBeats + 1 ≤ 16 := by rwa [fetched_lockBeats]
    obtain ⟨hone, hbeat⟩ := tickLock_one (e := (s.fetched k).engAt k) (by rwa [fetched_lock]) hb16
    rw [fetched_lock] at hone hbeat
    rw [fetched_lockBeats] at hbeat
    exact ⟨t, hexec, hleft.trans hone, hpassed.trans hbeat⟩
  case cut =>
    refine ⟨_, exec_lockTrunc hk hlock hbeats hstep, ?engine, fun j hj => ?engines, ?rest, fun hen hst hq => ?reported⟩
    case engine => rw [engAt_raiseInfo]; exact engAt_modEng _ _ _
    case engines => rw [engAt_raiseInfo]; exact engAt_modEng_ne _ _ _ _ hj
    case rest =>
      obtain ⟨f, i, hsame⟩ := raiseInfo_same (s.unlock k) { w := k, src := 8 }
      rw [hsame]
      rfl
    case reported =>
      have hwork : ((s.unlock k).engAt k).st ≠ .off := by rwa [State.unlock, engAt_modEng]
      exact raiseInfo_stat (s := s.unlock k) (enabled_lockTrunc hk hen hwork) hq
  case refused =>
    intro c ill
    exact ⟨traps_refused r hlock rfl, traps_refused r hlock rfl, traps_refused r hlock rfl, traps_refused r hlock rfl,
      traps_refused r hlock rfl, traps_refused r hlock rfl, traps_refused r hlock rfl, traps_refused r hlock rfl,
      traps_refused r hlock rfl, traps_refused r hlock rfl, traps_refused r hlock rfl, traps_refused r hlock rfl,
      traps_refused r hlock rfl, traps_refused r hlock (exec_move k wd dir n s), traps_refused r hlock (exec_fill k wd dir n s),
      traps_refused r hlock rfl, traps_refused r hlock rfl, traps_refused r hlock rfl, traps_refused r hlock rfl,
      traps_refused r hlock rfl, traps_refused r hlock rfl⟩

end Sys2Proof.Machine
end

section
/-! Dot products of group 7 (spec 06 R150-R153): the auxiliary registers as a law layer, the beats of an engine whose store buffer is
empty, one element, the run of elements, and the statement settled from them. -/

namespace Sys2Proof.Machine
variable {s s1 s2 : State} {k : Nat}

/-! ### Auxiliary registers of a bank without upsets (spec 04 R90-R93) -/

section
variable {c : Ctx}

theorem bad_of_sound (h : c.sound = true) : c.bad = [] := by
  simp only [Ctx.sound, Bool.and_eq_true, beq_iff_eq] at h
  exact h.1

theorem cor_of_sound (h : c.sound = true) : c.cor = [] := by
  simp only [Ctx.sound, Bool.and_eq_true, beq_iff_eq] at h
  exact h.2

/-- Valid check bits are nothing new in a bank without upsets (spec 03 R68). -/
theorem valid_of_sound (h : c.sound = true) (w : Nat) : c.valid w = c := by
  have hbad : c.bad.filter (· ≠ w) = c.bad := by rw [bad_of_sound h]; rfl
  have hcor : c.cor.filter (· ≠ w) = c.cor := by rw [cor_of_sound h]; rfl
  rw [Ctx.valid, hbad, hcor]

theorem auxR_setAux {r : Nat} (hr : r < 6) (v : Word) : (c.setAux r v).auxR r = v := by
  simp [Ctx.setAux, Ctx.auxR, show r ≠ 6 by omega, show r ≠ 7 by omega]

theorem auxR_setAux_ne {r i : Nat} (h : i ≠ r) (v : Word) : (c.setAux r v).auxR i = c.auxR i :=
  Tab.get_set_ne _ _ _ _ _ h

/-- A register write leaves everything but the registers. -/
theorem setAux_rest (h : c.sound = true) (r : Nat) (v : Word) : { c.setAux r v with aux := [] } = { c with aux := [] } := by
  unfold Ctx.setAux
  dsimp only
  rw [valid_of_sound h]

theorem Fl.ofWord_toWord (f : Fl) : Fl.ofWord (f.toWord &&& 0x1F) = f := by
  obtain ⟨s, n, z, c, v⟩ := f
  revert s n z c v
  decide

@[simp] theorem fl_setFl (f : Fl) : (c.setFl f).fl = f := by
  have hread : (c.setFl f).auxR 6 = f.toWord &&& 0x1F := Tab.get_set_self _ _ _ _
  rw [Ctx.fl, hread, Fl.ofWord_toWord]

theorem setAux_sound (h : c.sound = true) (r : Nat) (v : Word) : (c.setAux r v).sound = true := by
  have := congrArg Ctx.sound (setAux_rest h r v)
  exact this.trans h

/-- FL.S remembers a clamp (R92). -/
theorem fl_stick (b : Bool) : (c.stick b).fl = { c.fl with s := c.fl.s || b } := by
  cases b
  case false => simp [Ctx.stick]
  case true => rw [Ctx.stick, if_pos rfl, fl_setFl, Bool.or_true]

theorem auxR_stick {i : Nat} (h : i ≠ 6) (b : Bool) : (c.stick b).auxR i = c.auxR i := by
  cases b
  · rfl
  · exact auxR_setAux_ne h _

theorem stick_rest (h : c.sound = true) (b : Bool) : { c.stick b with aux := [] } = { c with aux := [] } := by
  cases b
  · rfl
  · exact setAux_rest h _ _

end

/-! ### Beats of an engine -/

/-- `s2` differs from `s1` at most in what beats and a begun instruction leave on engine `k`: the ports' progress, and what the
instruction at PC has behind it. -/
structure Elapsed (s1 s2 : State) (k : Nat) : Prop where
  mb : (s2.engAt k).mb = (s1.engAt k).mb
  lasting : (s2.engAt k).lasting = (s1.engAt k).lasting
  lock : (s2.engAt k).lock = (s1.engAt k).lock
  lockBeats : (s2.engAt k).lockBeats = (s1.engAt k).lockBeats
  engines : ∀ j, j ≠ k → s2.engAt j = s1.engAt j
  rest : { s2 with eng := [] } = { s1 with eng := [] }

theorem Elapsed.refl (s : State) (k : Nat) : Elapsed s s k := ⟨rfl, rfl, rfl, rfl, fun _ _ => rfl, rfl⟩

/-- What no engine enters is the same after the beats. -/
theorem Elapsed.sees (h : Elapsed s1 s2 k) {α : Type} (f : State → α) (hf : ∀ x, f { x with eng := [] } = f x) : f s2 = f s1 :=
  calc f s2 = f { s2 with eng := [] } := (hf _).symm
    _ = f { s1 with eng := [] } := congrArg f h.rest
    _ = f s1 := hf _

theorem Elapsed.modEng (h : Elapsed s1 s2 k) {f : Engine → Engine}
    (hf : ∀ e, (f e).mb = e.mb ∧ (f e).lasting = e.lasting ∧ (f e).lock = e.lock ∧ (f e).lockBeats = e.lockBeats) :
    Elapsed s1 (s2.modEng k f) k := by
  obtain ⟨hmb, hlasting, hlock, hbeats⟩ := hf (s2.engAt k)
  constructor
  case mb => rw [engAt_modEng, hmb, h.mb]
  case lasting => rw [engAt_modEng, hlasting, h.lasting]
  case lock => rw [engAt_modEng, hlock, h.lock]
  case lockBeats => rw [engAt_modEng, hbeats, h.lockBeats]
  case engines => intro j hj; rw [engAt_modEng_ne _ _ _ _ hj, h.engines j hj]
  case rest => exact h.rest

theorem Elapsed.pass (h : Elapsed s1 s2 k) (l : List Beat) : Elapsed s1 (s2.pass k l) k :=
  h.modEng fun e => by
    obtain ⟨hmb, hlasting, hlock, hbeats, -⟩ := beats_keep (s2.who k).db l e
    exact ⟨hmb, hlasting, hlock, hbeats⟩

theorem Elapsed.begin (h : Elapsed s1 s2 k) (b : Begun) : Elapsed s1 (s2.begin k b) k :=
  h.modEng fun _ => ⟨rfl, rfl, rfl, rfl⟩

/-- What lasts of the engine is the same after the beats. -/
theorem Elapsed.keeps (h : Elapsed s1 s2 k) {α : Type} (f : Engine → α) (hf : ∀ e, f e.lasting = f e) :
    f (s2.engAt k) = f (s1.engAt k) :=
  calc f (s2.engAt k) = f (s2.engAt k).lasting := (hf _).symm
    _ = f (s1.engAt k).lasting := congrArg f h.lasting
    _ = f (s1.engAt k) := hf _

/-- No store enters the buffer by the passing of beats. -/
theorem Elapsed.sbuf (h : Elapsed s1 s2 k) (hempty : (s1.engAt k).sbuf = []) : (s2.engAt k).sbuf = [] := by
  have hmap : (s2.engAt k).sbuf.map SBE.untimed = (s1.engAt k).sbuf.map SBE.untimed := by
    refine h.keeps (fun e => e.sbuf.map SBE.untimed) fun e => ?_
    simp [Engine.lasting, SBE.untimed]
  rw [hempty] at hmap
  exact List.map_eq_nil_iff.mp hmap

/-- With an empty store buffer nothing retires in the beats that pass. -/
theorem Elapsed.elapse (h : Elapsed s1 s2 k) (hempty : (s1.engAt k).sbuf = []) (l : List Beat) :
    Elapsed s1 (s2.elapse k l) k := by
  have hpass := h.pass l
  have hsettle : (s2.pass k l).settle k = s2.pass k l := by
    unfold State.settle
    rw [hpass.sbuf hempty]
    rfl
  unfold State.elapse
  rw [hsettle]
  exact hpass

theorem Elapsed.dbg (h : Elapsed s1 s2 k) {α : Type} (f : EDbg → α) (hf : ∀ d, f { d with pass := false } = f d) :
    f (s2.engAt k).dbg = f (s1.engAt k).dbg :=
  h.keeps (fun e => f e.dbg) fun e => hf e.dbg

theorem Elapsed.calm (h : Elapsed (s.fetched k) s1 k) : Calm s s1 k where
  run := (h.keeps Engine.run fun _ => rfl).trans (fetched_run k)
  st := (h.keeps Engine.st fun _ => rfl).trans (fetched_st k)
  step := (h.dbg EDbg.stepping fun _ => rfl).trans (congrArg EDbg.stepping (fetched_dbg k))

theorem Elapsed.settled (h : Elapsed s1 s2 k) {c1 : Ctx} {n : Nat} {t : State} (hset : Settled s2 k c1 n t) : Settled s1 k c1 n t :=
  hset.rebase h.mb h.lasting h.engines (fun id => h.sees (·.ctxAt id) fun _ => rfl) (h.sees State.shared fun _ => rfl)

theorem tickLock_congr {e1 e2 : Engine} (hlock : e2.lock = e1.lock) (hbeats : e2.lockBeats = e1.lockBeats) (n : Nat) :
    (e2.tickLock n).lock = (e1.tickLock n).lock ∧ (e2.tickLock n).lockBeats = (e1.tickLock n).lockBeats := by
  unfold Engine.tickLock
  rw [hlock, hbeats]
  split
  · exact ⟨hlock, hbeats⟩
  · split
    · exact ⟨rfl, rfl⟩
    · split
      · exact ⟨rfl, rfl⟩
      · exact ⟨rfl, rfl⟩

/-- An instruction that has passed its beats itself completes over the state before them. -/
theorem Completes.before {i : Instr} {c1 : Ctx} {cost : Nat} (h : Completes i s k s2 c1 cost) (he : Elapsed s1 s2 k) :
    Completes i s k s1 c1 cost := by
  obtain ⟨t, n, hexec, hset, hbeats, hlock, hlockBeats⟩ := h
  obtain ⟨htick, htickBeats⟩ := tickLock_congr he.lock he.lockBeats n
  exact ⟨t, n, hexec, he.settled hset, hbeats, hlock.trans htick, hlockBeats.trans htickBeats⟩

/-- As `Completes.before` for an element boundary. -/
theorem waits_before {i : Instr} {w : BitVec 16} {ok : Bool} {body : Body} {c1 : Ctx} {cost : Nat} (r : Ready s k)
    (he : exec i s = runInstr k w ok body s) (hl : ok = true ∨ s.unlocked k)
    (hb : body (s.fetched k) (s.who k) (s.bank k) = .wait s1 c1 cost) (h : Elapsed (s.fetched k) s1 k) :
    Waits i s k (s.fetched k) c1 cost := by
  obtain ⟨t, hexec, hset⟩ := runInstr_wait r hl hb h.calm
  exact ⟨t, he.trans hexec, h.settled hset⟩

/-! ### What the elements see -/

/-- What neither engines nor the report of a corrected word enter is, in the midst of a run, as it was before the fetch. -/
theorem Elapsed.outside (h : Elapsed (s.fetched k) s1 k) {α : Type} (f : State → α)
    (hf : ∀ x, f { x with eng := [], fw := [], freeCtr := 0 } = f x) : f s1 = f s :=
  calc f s1 = f { s1 with eng := [], fw := [], freeCtr := 0 } := (hf _).symm
    _ = f { s.fetched k with eng := [], fw := [], freeCtr := 0 } :=
      congrArg (fun x : State => f { x with fw := [], freeCtr := 0 }) h.rest
    _ = f { s with eng := [], fw := [], freeCtr := 0 } := congrArg f fetched_rest
    _ = f s := hf _

theorem Elapsed.rd32 (h : Elapsed (s.fetched k) s1 k) (a : Nat) : s1.rd32 a = s.rd32 a :=
  h.outside (·.rd32 a) fun _ => rfl

theorem Elapsed.firstUE (h : Elapsed (s.fetched k) s1 k) (a n : Nat) : s1.firstUE a n = s.firstUE a n :=
  h.outside (·.firstUE a n) fun _ => rfl

theorem Elapsed.ce (h : Elapsed (s.fetched k) s1 k) : s1.ce = s.ce :=
  h.outside State.ce fun _ => rfl

theorem Elapsed.tmPlace (h : Elapsed (s.fetched k) s1 k) (w : Who) (x n : Nat) (store own : Bool) :
    s1.tmPlace w x n store own = s.tmPlace w x n store own :=
  h.outside (·.tmPlace w x n store own) fun _ => rfl

theorem Elapsed.inSpill (h : Elapsed (s.fetched k) s1 k) (a n : Nat) : (s1.engAt k).inSpill a n = (s.engAt k).inSpill a n := by
  have hspill : (s1.engAt k).spillRgn = (s.engAt k).spillRgn := (h.keeps Engine.spillRgn fun _ => rfl).trans (fetched_spillRgn k)
  unfold Engine.inSpill
  rw [hspill]

theorem Elapsed.undebugged (h : Elapsed (s.fetched k) s1 k) (r : Ready s k) : (s1.engAt k).undebugged = true :=
  (h.keeps Engine.undebugged fun _ => rfl).trans ((fetched_undebugged k).trans r.plain)

/-- No asynchronous condition is due where a context begins an instruction outside every bracket (spec 07 R188). -/
theorem Ready.async_none {slot : Nat} (r : Ready s k) (hl : s.unlocked k) (hb : s.starts k) (hrun : (s.engAt k).run = .ctx slot) :
    s.async k (s.ctxAt (ctxId k slot)) = none := by
  have hruns := r.runs
  have hlock : ((s.engAt k).lock != 0) = false := by rw [hl]; rfl
  have hinside : (s.engAt k).inside = false := by rw [Engine.inside, hb]
  have hspace : ((s.engAt k).begun == Begun.boundary) = false := by rw [hb]; rfl
  simp only [State.canRun, hrun, hlock, hinside, hspace, Bool.and_eq_true, Bool.false_or, Bool.false_eq_true, if_false] at hruns
  obtain ⟨-, -, hasync⟩ := hruns
  exact Option.isNone_iff_eq_none.mp hasync

theorem pend_of_async_none {c : Ctx} (h : s.async k c = none) : (s.engAt k).dbg.pend = false := by
  cases hpend : (s.engAt k).dbg.pend with
  | false => rfl
  | true =>
    simp only [State.async, hpend, if_true] at h
    repeat' split at h
    all_goals cases h

/-- No debugger and no halt ends the run of an instruction that begins. -/
theorem Elapsed.not_cut (h : Elapsed (s.fetched k) s1 k) (r : Ready s k) (hl : s.unlocked k) (hb : s.starts k) :
    s1.cutsRun (s.who k) = false := by
  have hstep : (s1.engAt k).dbg.stepping = false := h.calm.step.trans (ready_notStepping r)
  have hpend : (s1.engAt k).dbg.pend = (s.engAt k).dbg.pend :=
    (h.dbg EDbg.pend fun _ => rfl).trans (congrArg EDbg.pend (fetched_dbg k))
  have hcut : s1.cutsRun (s.who k) = ((s.engAt k).dbg.pend && decide ((s.who k).level ≠ 3)) := by
    simp only [State.cutsRun, who_k, hstep, hpend, Bool.false_or]
  rw [hcut]
  cases hrun : (s.engAt k).run with
  | parked => exact absurd hrun (ready_notParked r)
  | mach x =>
    have hlevel : (s.who k).level = 3 := by cases x <;> simp [State.who, hrun]
    simp [hlevel]
  | ctx slot => rw [pend_of_async_none (r.async_none hl hb hrun), Bool.false_and]

/-! ### One element -/

/-- Group 7 steps A1 downwards in XMACR alone (R151). -/
def XOp.down : XOp → Bool
  | .macr => true
  | _ => false

/-- The address in A1 of element `j`. -/
def Ctx.at1 (c : Ctx) (down : Bool) (j : Nat) : Nat := if down then (c.auxR 1).toNat - 4 * j else (c.auxR 1).toNat + 4 * j

/-- Memory key of the local-store word of element `j`. -/
def Ctx.lsElem (c : Ctx) (k j : Nat) : Nat := lsKey k ((c.auxR 0).toNat + 4 * j)

/-- Memory key of the train-memory word of element `j`. -/
def Ctx.tmElem (c : Ctx) (k : Nat) (down : Bool) (j : Nat) : Nat := tmKey (trainOf k) (c.at1 down j % 0x200000)

/-- Element `j` of bank `c` has no fault (R152) and no single-bit error to report. -/
structure ElemSound (s : State) (k : Nat) (c : Ctx) (down : Bool) (j : Nat) : Prop where
  inLs : (c.auxR 0).toNat + 4 * j + 3 ≤ 0xFFFF
  unspilled : (s.who k).level = 3 ∨ (s.engAt k).inSpill ((c.auxR 0).toNat + 4 * j) 4 = false
  lsSound : s.firstUE (c.lsElem k j) 4 = none
  lsClean : s.ce.contains (c.lsElem k j / 8 * 8) = false
  above : down = true → 4 * j ≤ (c.auxR 1).toNat
  tmLow : 0x01000000 ≤ c.at1 down j
  tmHigh : c.at1 down j + 3 ≤ 0x011FFFFF
  tmPlaced : (s.tmPlace (s.who k) (c.at1 down j % 0x200000) 4 false false).isSome = true
  tmSound : s.firstUE (c.tmElem k down j) 4 = none
  tmClean : s.ce.contains (c.tmElem k down j / 8 * 8) = false

/-- Q after `m` elements, and whether one of them clamped. -/
def elems (elem : Nat → Acc → Acc × Bool) (q : Acc) (m : Nat) : Acc × Bool :=
  (List.range m).foldl (fun (p : Acc × Bool) j => ((elem j p.1).1, p.2 || (elem j p.1).2)) (q, false)

theorem elems_succ (elem : Nat → Acc → Acc × Bool) (q : Acc) (m : Nat) :
    elems elem q (m + 1) = ((elem m (elems elem q m).1).1, (elems elem q m).2 || (elem m (elems elem q m).1).2) := by
  simp [elems, List.range_succ]

/-- Bank `c1` is `c` after `m` elements (R151, R152): C is their number less, A0 and A1 stand behind the last one. -/
structure After (c : Ctx) (down : Bool) (elem : Nat → Acc → Acc × Bool) (m : Nat) (c1 : Ctx) : Prop where
  bank : { c1 with aux := [] } = { c with aux := [], q := (elems elem c.q m).1 }
  a0 : c1.auxR 0 = c.auxR 0 + BitVec.ofNat 32 (4 * m)
  a1 : c1.auxR 1 = if down then c.auxR 1 - BitVec.ofNat 32 (4 * m) else c.auxR 1 + BitVec.ofNat 32 (4 * m)
  count : c1.cnt = c.cnt - m
  flags : c1.fl = { c.fl with s := c.fl.s || (elems elem c.q m).2 }
  kept : ∀ i ∈ [2, 3, 4, 7], c1.auxR i = c.auxR i

section
variable {op : XOp} {w : Who} {c c1 : Ctx} {down : Bool} {elem : Nat → Acc → Acc × Bool} {m j : Nat}

theorem After.zero (c : Ctx) (down : Bool) (elem : Nat → Acc → Acc × Bool) : After c down elem 0 c where
  bank := rfl
  a0 := by simp
  a1 := by simp
  count := rfl
  flags := by simp [elems]
  kept _ _ := rfl

theorem After.md (h : After c down elem m c1) : c1.md = c.md :=
  congrArg Md.ofWord (h.kept 7 (by decide))

theorem After.q (h : After c down elem m c1) : c1.q = (elems elem c.q m).1 := by
  have := congrArg Ctx.q h.bank
  exact this

theorem After.sound (h : After c down elem m c1) (hc : c.sound = true) : c1.sound = true := by
  have := congrArg Ctx.sound h.bank
  exact this.trans hc

/-- A0 points at the next element. -/
theorem After.toNat_a0 (h : After c down elem m c1) (hs : ElemSound s k c down m) :
    (c1.auxR 0).toNat = (c.auxR 0).toNat + 4 * m := by
  have := hs.inLs
  rw [h.a0, BitVec.toNat_add, BitVec.toNat_ofNat]
  omega

/-- A1 points at the next element. -/
theorem After.toNat_a1 (h : After c down elem m c1) (hs : ElemSound s k c down m) : (c1.auxR 1).toNat = c.at1 down m := by
  have habove := hs.above
  have hhigh := hs.tmHigh
  have hlt := (c.auxR 1).isLt
  rw [h.a1]
  unfold Ctx.at1 at *
  cases down
  · simp only [Bool.false_eq_true, if_false] at *
    rw [BitVec.toNat_add, BitVec.toNat_ofNat]
    omega
  · simp only [if_true] at *
    have := habove trivial
    rw [BitVec.toNat_sub, BitVec.toNat_ofNat]
    omega

/-- The words of the next element. -/
theorem After.xKeys (h : After c down elem m c1) (hs : ElemSound s k c down m) (hw : w.k = k) :
    xKeys w c1 = (c.lsElem k m, c.tmElem k down m) := by
  rw [Sys2Proof.Machine.xKeys, h.toNat_a0 hs, h.toNat_a1 hs, hw]
  rfl

theorem rgnOf_ls {a : Nat} (h : a ≤ 0xFFFF) : rgnOf a = some .ls := if_pos h

theorem rgnOf_tm {a : Nat} (hlo : 0x01000000 ≤ a) (hhi : a ≤ 0x011FFFFF) : rgnOf a = some .tm := by
  rw [rgnOf, if_neg (by omega), if_pos ⟨hlo, hhi⟩]

/-- A sound element has no fault. -/
theorem After.elemFault (h : After c down elem m c1) (hs : ElemSound s k c down m) (he : Elapsed (s.fetched k) s1 k) :
    xElemFault s1 (s.who k) c1 = none := by
  have hls0 := rgnOf_ls (a := (c.auxR 0).toNat + 4 * m) (by have := hs.inLs; omega)
  have hls3 := rgnOf_ls hs.inLs
  have htm0 := rgnOf_tm hs.tmLow (by have := hs.tmHigh; omega)
  have htm3 := rgnOf_tm (a := c.at1 down m + 3) (by have := hs.tmLow; omega) hs.tmHigh
  have hplace : (s1.tmPlace (s.who k) (c.at1 down m % 0x200000) 4 false false).isNone = false := by
    rw [he.tmPlace, Option.isNone_eq_false_iff]
    exact hs.tmPlaced
  have hspill : ¬ ((s.who k).level ≠ 3 ∧ (s1.engAt k).inSpill ((c.auxR 0).toNat + 4 * m) 4 = true) := by
    rw [he.inSpill]
    rintro ⟨hlevel, hin⟩
    rcases hs.unspilled with h3 | hout
    · exact hlevel h3
    · exact Bool.false_ne_true (hout.symm.trans hin)
  have hue0 : s1.firstUE (c.lsElem k m) 4 = none := (he.firstUE _ _).trans hs.lsSound
  have hue1 : s1.firstUE (c.tmElem k down m) 4 = none := (he.firstUE _ _).trans hs.tmSound
  simp only [xElemFault, h.xKeys hs (who_k s k), h.toNat_a0 hs, h.toNat_a1 hs, who_k, hls0, hls3, htm0, htm3, hplace, hspill,
    hue0, hue1]
  simp

/-- A read of an aligned word without an error to correct reports nothing. -/
theorem noteCE_clean {a : Nat} (ha : a % 4 = 0) (h : s.ce.contains (a / 8 * 8) = false) : s.noteCE a 4 = s := by
  have hword : s.noteWord a = s := by
    rw [State.noteWord, h]
    rfl
  have hone : (a + 4 - 1) / 8 = a / 8 := by omega
  rw [State.noteCE, hword]
  exact if_pos hone

theorem lsElem_aligned (h : (c.auxR 0).toNat % 4 = 0) : c.lsElem k j % 4 = 0 := by
  unfold Ctx.lsElem lsKey
  omega

theorem tmElem_aligned (h : (c.auxR 1).toNat % 4 = 0) : c.tmElem k down j % 4 = 0 := by
  unfold Ctx.tmElem tmKey Ctx.at1
  split <;> omega

/-- Bank `c` with the result `o` of an element in Q and FL.S. -/
def Ctx.storing (c : Ctx) (o : Acc × Bool) : Ctx := { c.stick o.2 with q := o.1 }

/-- Bank `c` with A0, A1 and C behind one element (R151). -/
def Ctx.pastElem (c : Ctx) (down : Bool) : Ctx :=
  ((c.setAux 0 (c.auxR 0 + 4)).setAux 1 (if down then c.auxR 1 - 4 else c.auxR 1 + 4)).setAux 5 (c.auxR 5 - 1)

theorem auxR_storing {i : Nat} (h : i ≠ 6) (o : Acc × Bool) : (c.storing o).auxR i = c.auxR i := auxR_stick h o.2

theorem storing_sound (h : c.sound = true) (o : Acc × Bool) : (c.storing o).sound = true := by
  have := congrArg Ctx.sound (stick_rest h o.2)
  exact this.trans h

theorem pastElem_rest (h : c.sound = true) (down : Bool) : { c.pastElem down with aux := [] } = { c with aux := [] } := by
  have h0 := setAux_sound h 0 (c.auxR 0 + 4)
  rw [Ctx.pastElem, setAux_rest (setAux_sound h0 _ _), setAux_rest h0, setAux_rest h]

theorem auxR_pastElem {i : Nat} (h0 : i ≠ 0) (h1 : i ≠ 1) (h5 : i ≠ 5) (down : Bool) : (c.pastElem down).auxR i = c.auxR i := by
  rw [Ctx.pastElem, auxR_setAux_ne h5, auxR_setAux_ne h1, auxR_setAux_ne h0]

/-- An element without anything to report is its effect on the bank alone. -/
theorem XOp.step_clean {x y : Nat} (hkeys : Sys2Proof.Machine.xKeys w c = (x, y)) (hx : x % 4 = 0) (hy : y % 4 = 0)
    (hcx : s.ce.contains (x / 8 * 8) = false) (hcy : s.ce.contains (y / 8 * 8) = false) (hd : (s.engAt w.k).undebugged = true) :
    op.step s w c = (s, (c.storing (op.elem c.md c.q (s.rd32 x) (s.rd32 y))).pastElem op.down) := by
  have hdown (d : Ctx) (h : d.auxR 1 = c.auxR 1) : (if op = .macr then c.auxR 1 - 4 else c.auxR 1 + 4) =
      if op.down then d.auxR 1 - 4 else d.auxR 1 + 4 := by
    rw [h]
    cases op <;> rfl
  rw [XOp.step, hkeys]
  simp only [noteCE_clean hx hcx, noteCE_clean hy hcy, watchData_undebugged hd,
    hdown _ (auxR_storing (by decide) (op.elem c.md c.q (s.rd32 x) (s.rd32 y)))]
  rfl

/-- One more element. -/
theorem After.succ (h : After c down elem m c1) (hc : c.sound = true) (hm : m < c.cnt) :
    After c down elem (m + 1) ((c1.storing (elem m c1.q)).pastElem down) := by
  have hc1 := h.sound hc
  have hcd := storing_sound hc1 (elem m c1.q)
  have hfour : BitVec.ofNat 32 (4 * (m + 1)) = BitVec.ofNat 32 (4 * m) + 4 := by
    rw [Nat.mul_add, BitVec.ofNat_add]
    rfl
  constructor
  case bank =>
    have hq := (stick_rest hc1 (elem m c1.q).2).trans h.bank
    have hstore : { c1.storing (elem m c1.q) with aux := [] } = { c with aux := [], q := (elem m c1.q).1 } :=
      congrArg (fun x : Ctx => { x with q := (elem m c1.q).1 }) hq
    rw [pastElem_rest hcd, hstore, elems_succ, h.q]
  case a0 =>
    rw [Ctx.pastElem, auxR_setAux_ne (by decide), auxR_setAux_ne (by decide), auxR_setAux (by decide), auxR_storing (by decide),
      h.a0, hfour, BitVec.add_assoc]
  case a1 =>
    rw [Ctx.pastElem, auxR_setAux_ne (by decide), auxR_setAux (by decide), auxR_storing (by decide), h.a1, hfour]
    cases down
    · exact BitVec.add_assoc _ _ _
    · simp only [if_true]
      rw [BitVec.sub_sub]
  case count =>
    have hcount : (c1.auxR 5).toNat = c.cnt - m := h.count
    have hlt := (c1.auxR 5).isLt
    rw [Ctx.pastElem, Ctx.cnt, auxR_setAux (by decide), auxR_storing (by decide)]
    bv_omega
  case flags =>
    have hpast : ((c1.storing (elem m c1.q)).pastElem down).fl = (c1.stick (elem m c1.q).2).fl :=
      congrArg Fl.ofWord (auxR_pastElem (by decide) (by decide) (by decide) down)
    rw [hpast, fl_stick, h.flags, elems_succ, h.q, Bool.or_assoc]
  case kept =>
    intro i hi
    have hkept := h.kept i hi
    simp only [List.mem_cons, List.not_mem_nil, or_false] at hi
    rw [auxR_pastElem (by omega) (by omega) (by omega), auxR_storing (by omega), hkept]

end

/-! ### The run of elements -/

/-- The elements of `op` over bank `c` of engine `k`: every one is sound, and `elem` is what each makes of Q. -/
structure Elems (s : State) (k : Nat) (op : XOp) (elem : Nat → Acc → Acc × Bool) : Prop where
  a0 : ((s.bank k).auxR 0).toNat % 4 = 0
  a1 : ((s.bank k).auxR 1).toNat % 4 = 0
  sound : ∀ j < (s.bank k).cnt, ElemSound s k (s.bank k) op.down j
  result : ∀ j q, op.elem (s.bank k).md q (s.rd32 ((s.bank k).lsElem k j)) (s.rd32 ((s.bank k).tmElem k op.down j)) = elem j q

section
variable {op : XOp} {elem : Nat → Acc → Acc × Bool} {c1 : Ctx} {m n : Nat}

/-- The step of the next element. -/
theorem Elems.step (h : Elems s k op elem) (r : Ready s k) (he : Elapsed (s.fetched k) s1 k)
    (ha : After (s.bank k) op.down elem m c1) (hm : m < (s.bank k).cnt) :
    op.step s1 (s.who k) c1 = (s1, (c1.storing (elem m c1.q)).pastElem op.down) := by
  have hs := h.sound m hm
  rw [XOp.step_clean (ha.xKeys hs (who_k s k)) (lsElem_aligned h.a0) (tmElem_aligned h.a1) (he.ce ▸ hs.lsClean) (he.ce ▸ hs.tmClean)
    ((who_k s k).symm ▸ he.undebugged r), he.rd32, he.rd32, ha.md, h.result]

/-- A run of at most `n` elements ends without a fault behind the last of C or at an element boundary (R151, R152). -/
theorem Elems.run (h : Elems s k op elem) (r : Ready s k) (hl : s.unlocked k) (hb : s.starts k) (hempty : (s.engAt k).sbuf = [])
    (he : Elapsed (s.fetched k) s1 k) (ha : After (s.bank k) op.down elem m c1) (hm : m ≤ (s.bank k).cnt) :
    ∃ s2 c2, xRun op (s.who k) n s1 c1 = (s2, c2, none) ∧ Elapsed (s.fetched k) s2 k ∧
      After (s.bank k) op.down elem (Min.min (m + n) (s.bank k).cnt) c2 := by
  induction n generalizing s1 c1 m with
  | zero => exact ⟨s1, c1, rfl, he, by rwa [Nat.add_zero, Nat.min_eq_left hm]⟩
  | succ n ih =>
    by_cases hlast : m = (s.bank k).cnt
    · have hcnt : c1.cnt = 0 := by rw [ha.count]; omega
      refine ⟨s1, c1, ?_, he, ?_⟩
      · rw [xRun, if_pos hcnt]
      · rwa [Nat.min_eq_right (by omega), ← hlast]
    · have hmore : m < (s.bank k).cnt := by omega
      have hcnt : c1.cnt ≠ 0 := by rw [ha.count]; omega
      have hfault := ha.elemFault (h.sound m hmore) he
      have he1 := he.elapse (by rwa [fetched_sbuf]) [.port]
      obtain ⟨s2, c2, hrun, he2, ha2⟩ := ih he1 (ha.succ r.sound hmore) hmore
      refine ⟨s2, c2, ?_, he2, ?_⟩
      · rw [xRun, if_neg hcnt, hfault]
        simp only [h.step r he ha hmore, who_k]
        rw [he1.not_cut r hl hb]
        exact hrun
      · rwa [Nat.add_right_comm, Nat.add_assoc] at ha2

end

/-! ### Group 7 -/

@[simp] theorem fetched_begun (j : Nat) : ((s.fetched k).engAt j).begun = (s.engAt j).begun :=
  engAt_fetched (·.begun) (fun _ _ _ => rfl) s k j

/-- Engine `k` is in a state in which group 7 executes (R150). -/
abbrev State.outOfService (s : State) (k : Nat) : Prop :=
  (s.engAt k).st = .start ∨ (s.engAt k).st = .test ∨ (s.engAt k).st = .recover

theorem not_inService (h : s.outOfService k) :
    ¬ ((s.engAt k).st ≠ .start ∧ (s.engAt k).st ≠ .test ∧ (s.engAt k).st ≠ .recover) := by
  rintro ⟨h1, h2, h3⟩
  rcases h with h | h | h
  · exact h1 h
  · exact h2 h
  · exact h3 h

/-- The state in which the elements of an instruction begin: the two beats of its set-up have passed. -/
def State.setUp (s : State) (k : Nat) : State := (s.fetched k).elapse k [.idle, .idle]

theorem setUp_elapsed (hempty : (s.engAt k).sbuf = []) : Elapsed (s.fetched k) (s.setUp k) k :=
  (Elapsed.refl _ k).elapse (by rwa [fetched_sbuf]) _

section
variable {op : XOp} {elem : Nat → Acc → Acc × Bool} {n : Nat}

/-- Out of START, TEST and RECOVER the instruction is ILLEGAL (R150). -/
theorem xmacBody_illegal (h : ¬ s.outOfService k) :
    xmacBody op n (s.fetched k) (s.who k) (s.bank k) = .fault (s.fetched k) (s.bank k) .illegal := by
  refine if_pos ?_
  simpa only [State.outOfService, not_or, who_k, fetched_st] using h

/-- With C at 0 the instruction is its set-up alone. -/
theorem xmacBody_empty (hst : s.outOfService k) (hb : s.starts k) (hcnt : (s.bank k).cnt = 0) :
    xmacBody op n (s.fetched k) (s.who k) (s.bank k) = .done (s.setUp k) (s.bank k) 2 := by
  have hwork := not_inService hst
  simp only [xmacBody, who_k, fetched_st, fetched_begun, hb, hwork, hcnt, if_true, if_false]
  rfl

/-- A run without a fault completes where it has reached the last element, and waits behind its own last one elsewhere. -/
theorem xmacBody_run (r : Ready s k) (hst : s.outOfService k) (hb : s.starts k) (hcnt : 0 < (s.bank k).cnt)
    (h0 : ((s.bank k).auxR 0).toNat % 4 = 0) (h1 : ((s.bank k).auxR 1).toNat % 4 = 0) {s2 : State} {c2 : Ctx}
    (hrun : xRun op (s.who k) n (s.setUp k) (s.bank k) = (s2, c2, none)) :
    xmacBody op n (s.fetched k) (s.who k) (s.bank k) =
      if c2.cnt = 0 then .done s2 c2 (2 + ((s.bank k).cnt - c2.cnt))
      else .wait (s2.begin k (.setup 2)) c2 (2 + ((s.bank k).cnt - c2.cnt)) := by
  have hwork := not_inService hst
  have hsome : (s.bank k).cnt ≠ 0 := by omega
  have hsetup : (s.fetched k).elapse k (List.replicate (2 - Begun.none.paid) .idle) = s.setUp k := rfl
  simp only [xmacBody, who_k, fetched_st, fetched_begun, fetched_dbg, ready_notStepping r, hb, hwork, hsome, h0, h1, hsetup,
    Bool.false_eq_true, if_false, ne_eq, not_true_eq_false, hrun]
  rfl

/-- What a group 7 instruction does with at most `n` elements on an engine out of service. -/
theorem Elems.outcome {i : Instr} {w : BitVec 16} (r : Ready s k) (hl : s.unlocked k) (hb : s.starts k)
    (hempty : (s.engAt k).sbuf = []) (hst : s.outOfService k) (hx : exec i s = runInstr k w false (xmacBody op n) s)
    (hcnt : 0 < (s.bank k).cnt) (h : Elems s k op elem) :
    ((s.bank k).cnt ≤ n → ∃ c1, After (s.bank k) op.down elem (s.bank k).cnt c1 ∧
      Completes i s k (s.fetched k) c1 (2 + (s.bank k).cnt)) ∧
    (n < (s.bank k).cnt → ∃ c1, After (s.bank k) op.down elem n c1 ∧ Waits i s k (s.fetched k) c1 (2 + n)) := by
  obtain ⟨s2, c2, hrun, he, ha⟩ :=
    h.run (n := n) r hl hb hempty (setUp_elapsed hempty) (After.zero _ _ _) (Nat.zero_le _)
  have hbody := xmacBody_run r hst hb hcnt h.a0 h.a1 hrun
  rw [Nat.zero_add] at ha
  refine ⟨fun hn => ⟨c2, ?_⟩, fun hn => ⟨c2, ?_⟩⟩
  · rw [Nat.min_eq_right hn] at ha
    have hdone : c2.cnt = 0 := by rw [ha.count]; omega
    rw [if_pos hdone, hdone, Nat.sub_zero] at hbody
    exact ⟨ha, (completes_done r hx (.inr hl) hbody he.calm).before he⟩
  · rw [Nat.min_eq_left (Nat.le_of_lt hn)] at ha
    have hleft : c2.cnt ≠ 0 := by rw [ha.count]; omega
    have hbeats : 2 + ((s.bank k).cnt - c2.cnt) = 2 + n := by rw [ha.count]; omega
    rw [if_neg hleft, hbeats] at hbody
    exact ⟨ha, waits_before r hx (.inr hl) hbody (he.begin _)⟩

/-- With C at 0 a group 7 instruction completes in the beats of its set-up. -/
theorem completes_empty {i : Instr} {w : BitVec 16} (r : Ready s k) (hl : s.unlocked k) (hb : s.starts k)
    (hempty : (s.engAt k).sbuf = []) (hst : s.outOfService k) (hx : exec i s = runInstr k w false (xmacBody op n) s)
    (hcnt : (s.bank k).cnt = 0) : Completes i s k (s.fetched k) (s.bank k) 2 :=
  (completes_done r hx (.inr hl) (xmacBody_empty hst hb hcnt) (setUp_elapsed hempty).calm).before (setUp_elapsed hempty)

/-- A group 7 instruction of an engine in service traps. -/
theorem traps_inService {i : Instr} {w : BitVec 16} (r : Ready s k) (hl : s.unlocked k) (hst : ¬ s.outOfService k)
    (hx : exec i s = runInstr k w false (xmacBody op n) s) :
    Traps i s k (s.fetched k) (s.bank k) .illegal (s.bank k).resumePc w :=
  traps_fault r hx (.inr hl) (xmacBody_illegal hst) (by decide) .fetched

end

/-- Q takes an exact sum under MODE.SAT as the spec says (spec 04 R97). -/
theorem storeQ_eq (m : Md) (x : Int) : storeQ m x = accTo m.sat x := by
  rw [storeQ, clampTo_eq]
  rfl

/-- Settles O11: the elements of each command keep `After`, by induction on the number that may run; an engine in service refuses the
command before anything else. -/
theorem dotProducts : Obligations.DotProducts := by
  unfold Obligations.DotProducts
  refine ⟨fun k n s r hl hb hempty hst => ?dots, fun k n s r hl h1 h2 h3 => ?refused⟩
  case dots =>
    intro c a0 a1 at1 ls tm term sound after runs
    have run (i : Instr) (w : BitVec 16) (op : XOp) (elem : Nat → Acc → Acc × Bool)
        (hx : exec i s = runInstr k w false (xmacBody op n) s)
        (helem : ∀ j q, op.elem c.md q (ls j) (tm op.down j) = elem j q) : runs i op.down elem := by
      have elements (hs : sound op.down) : Elems s k op elem := by
        obtain ⟨ha0, ha1, hall⟩ := hs
        refine ⟨ha0, ha1, fun j hj => ?_, helem⟩
        obtain ⟨hls, hspill, hlsSound, hlsClean, habove, hlow, hhigh, hplaced, htmSound, htmClean⟩ := hall j hj
        exact ⟨hls, hspill, hlsSound, hlsClean, habove, hlow, hhigh, hplaced, htmSound, htmClean⟩
      have spelled {m : Nat} {c1 : Ctx} (h : After c op.down elem m c1) : after op.down elem m c1 :=
        ⟨h.bank, h.a0, h.a1, h.count, h.flags, h.kept 2 (by decide), h.kept 3 (by decide),
          h.kept 4 (by decide), h.md⟩
      refine ⟨completes_empty r hl hb hempty hst hx, fun hcnt hs => ?_⟩
      obtain ⟨hall, hpart⟩ := (elements hs).outcome r hl hb hempty hst hx hcnt
      refine ⟨fun hn => ?_, fun hn => ?_⟩
      · obtain ⟨c1, ha, hc⟩ := hall hn
        exact ⟨c1, spelled ha, hc⟩
      · obtain ⟨c1, ha, hw⟩ := hpart hn
        exact ⟨c1, spelled ha, hw⟩
    exact ⟨run _ _ .mac _ rfl fun _ _ => storeQ_eq _ _, run _ _ .msu _ rfl fun _ _ => storeQ_eq _ _,
      run _ _ .macr _ rfl fun _ _ => storeQ_eq _ _, run _ _ .sig _ rfl fun _ _ => rfl⟩
  case refused =>
    have hst : ¬ s.outOfService k := fun h => not_inService h ⟨h1, h2, h3⟩
    exact ⟨traps_inService (op := .mac) r hl hst rfl, traps_inService (op := .msu) r hl hst rfl,
      traps_inService (op := .macr) r hl hst rfl, traps_inService (op := .sig) r hl hst rfl⟩

end Sys2Proof.Machine
end

section
/-! What every command keeps (`Keeps`): the outcome of each row of the dispatch leads to a state that keeps the queue, SAFE with
`sx_safe_n` low, the lock of an image started in SECURED, the direction of the lifecycle and the canonical form of memory. One law per
command that is more than one call of a law of Sys2Proof/Laws. -/

namespace Sys2Proof.Machine
variable {r s : State}

/-! ### Shapes that the commands share -/

/-- An absent unit stops, which leads nowhere. -/
theorem leads_guard {c : Prop} [Decidable c] {f : Fault} {x : Res} (h : Leads r x) : Leads r (if c then .fault f else x) := by
  split
  · trivial
  · exact h

theorem leads_runInstr {k : Nat} {w : BitVec 16} {ok : Bool} {body : Body}
    (hb : ∀ s w c, Keeps r s → Keeps r (body s w c).state) (h : Keeps r s) : Leads r (runInstr k w ok body s) := by
  refine leads_guard (keeps_ite h ?_)
  split
  · next e => exact keeps_preIssue_some e h
  · exact keeps_execute hb k w ok h

/-- A command that acts where the block holds what it names, and does nothing elsewhere. -/
theorem leads_iteNext {c : Prop} [Decidable c] {x : Res} (hx : Leads r x) (h : Keeps r s) :
    Leads r (if c then .next s else x) := by
  split
  · exact h
  · exact hx

/-- An event of an engine that happens whenever its cause is there. -/
theorem leads_idle (h : Keeps r s) (k : Nat) : Leads r (engineEvent k s false id) := leads_engineEvent h (fun _ h => h) k false

/-! ### Control instructions (spec 06) -/

theorem leads_execWait (h : Keeps r s) (k : Nat) : Leads r (execWait k s) :=
  leads_runInstr (fun _ _ _ h => keeps_iteRes h (keeps_iteRes h (keeps_begin h _ _))) h

theorem leads_execLock (h : Keeps r s) (k : Nat) (n : BitVec 4) : Leads r (execLock k n s) :=
  leads_runInstr (fun _ _ _ h => keeps_iteRes h (keeps_doneRes (keeps_modEng h _ _))) h

theorem leads_execLockTrunc (h : Keeps r s) (k : Nat) : Leads r (execLockTrunc k s) := by
  refine leads_guard ?_
  dsimp only
  split
  · exact keeps_endStep (keeps_raiseInfo (keeps_modEng h _ _) _) _
  · exact h

theorem leads_execEvtHost (h : Keeps r s) (k : Nat) (e : BitVec 5) : Leads r (execEvtHost k e s) :=
  leads_runInstr (fun _ _ _ h => keeps_doneRes (keeps_modTrain h _ _)) h

/-! ### Events of one engine (specs 02, 03, 07) -/

theorem leads_execBoundaryLoadResponse (h : Keeps r s) (k : Nat) (data : Word64) (err : Bool) :
    Leads r (execBoundaryLoadResponse k data err s) := by
  unfold execBoundaryLoadResponse
  split
  · exact leads_engineEvent h (fun _ h => keeps_boundaryLoaded h _ _ _ _) _ _
  · exact leads_idle h k

theorem leads_execBoundaryStoreError (h : Keeps r s) (k : Nat) : Leads r (execBoundaryStoreError k s) := by
  unfold execBoundaryStoreError
  split
  · exact leads_engineEvent h (fun _ h => keeps_storeError (keeps_modEng h _ _) _ _) _ _
  · exact leads_idle h k

theorem leads_execBerrLate (h : Keeps r s) (k : Nat) : Leads r (execBerrLate k s) := by
  unfold execBerrLate
  split
  · exact leads_engineEvent h (fun _ h => keeps_takeFault (keeps_modCtx h _ _) _ _ _) _ _
  · exact leads_idle h k

theorem leads_execEventEntry (h : Keeps r s) (k : Nat) : Leads r (execEventEntry k s) := by
  unfold execEventEntry
  split
  · exact leads_engineEvent h (fun _ h => keeps_takeFault h _ _ _) _ _
  · exact leads_idle h k

theorem leads_execBudget (h : Keeps r s) (k : Nat) : Leads r (execBudget k s) := by
  unfold execBudget
  split
  · exact leads_engineEvent h (fun _ h => keeps_raise (keeps_modCtx h _ _) _) _ _
  · exact leads_idle h k

theorem leads_execWdog (h : Keeps r s) (gen : Bool) (lctx : Nat) : Leads r (execWdog gen lctx s) := by
  unfold execWdog
  split
  · exact h
  · exact keeps_ite (keeps_expire h _ _ _) h

theorem leads_execTerminalEntry (h : Keeps r s) (k : Nat) : Leads r (execTerminalEntry k s) := by
  unfold execTerminalEntry
  split
  · exact leads_engineEvent h (fun _ h => keeps_terminal h _ _ _) _ _
  · exact leads_engineEvent h (fun _ h => keeps_terminal h _ _ _) _ _
  · exact leads_idle h k

theorem leads_execStopRequest (h : Keeps r s) (k : Nat) : Leads r (execStopRequest k s) := by
  unfold execStopRequest
  split
  · exact leads_engineEvent h (fun _ h => keeps_sendStop h _) _ _
  · exact leads_idle h k

theorem leads_execContextStop (h : Keeps r s) (k : Nat) : Leads r (execContextStop k s) := by
  unfold execContextStop
  extract_lets e slot
  clear_value slot
  cases slot with
  | none => exact leads_idle h k
  | some slot => exact leads_engineEvent h (fun _ h => keeps_endStep (keeps_stopCtx h _ _ _) _) _ _

/-! ### Releases and commits (specs 08, 09, 10) -/

theorem leads_execPeriodEvent (h : Keeps r s) (p : Nat) : Leads r (execPeriodEvent p s) := by
  refine leads_guard ?_
  split
  · exact h
  · next e _ =>
    have ht : Keeps r ((s.pendAll 0 p).tripPeriod p) := keeps_tripPeriod (keeps_pendAll h 0 p) p
    split
    · exact keeps_ite (keeps_mk ht id id id ⟨rfl, rfl⟩) ht
    · exact h

theorem leads_execDeadbeatRelease (h : Keeps r s) (gen : Bool) (lctx : Nat) : Leads r (execDeadbeatRelease gen lctx s) := by
  unfold execDeadbeatRelease
  split
  · exact keeps_ite (keeps_releaseAt h _ _ _) h
  · exact h

theorem leads_execReleaseLate (h : Keeps r s) (k : Nat) : Leads r (execReleaseLate k s) := by
  refine leads_guard ?_
  dsimp only
  split
  · exact keeps_ite (keeps_release (keeps_unskip (keeps_raiseLow (keeps_mk h id id id ⟨rfl, rfl⟩) _) _ _) _ _ _ _ _) h
  · exact h

theorem leads_execFreeRelease (h : Keeps r s) (gen : Bool) (lctx : Nat) : Leads r (execFreeRelease gen lctx s) := by
  unfold execFreeRelease
  split
  · exact keeps_ite (keeps_ite (keeps_releaseAt h _ _ _) h) (keeps_ite (keeps_release (keeps_unskip h _ _) _ _ _ _ _) h)
  · exact h

theorem leads_execEventRelease (h : Keeps r s) (t p : Nat) : Leads r (execEventRelease t p s) := by
  refine leads_guard (keeps_getD (fun u e => ?_) h)
  obtain ⟨x, _, hx⟩ := List.exists_of_findSome?_eq_some e
  exact keeps_eventRelease_some hx h

theorem leads_execCommitTick (h : Keeps r s) (g : Nat) : Leads r (execCommitTick g s) := by
  refine leads_guard ?_
  split
  · exact keeps_commit h _ _ _
  · exact h

theorem leads_execSampleMiss (h : Keeps r s) (ch : Nat) : Leads r (execSampleMiss ch s) := by
  refine leads_guard ?_
  split
  · split
    · exact keeps_ite (keeps_raise h _) h
    · exact h
  · exact h

/-! ### The tourbillon and the fault windows (spec 12) -/

theorem leads_execQuenchClose (h : Keeps r s) (i : Nat) : Leads r (execQuenchClose i s) := by
  unfold execQuenchClose
  split
  · split
    · exact keeps_ite (keeps_mk h id id id ⟨rfl, rfl⟩) h
    · exact h
  · exact h

theorem leads_execSubstitutionHandover (h : Keeps r s) (t : Nat) : Leads r (execSubstitutionHandover t s) := by
  refine leads_guard ?_
  split
  · exact keeps_ite h (keeps_subst h _ _)
  · exact h

theorem leads_execMasterCopyLoad (h : Keeps r s) (t : Nat) : Leads r (execMasterCopyLoad t s) := by
  refine leads_guard ?_
  split
  · exact keeps_ite h (keeps_masterLoaded h _ _)
  · exact h

theorem leads_execMigration (h : Keeps r s) (t : Nat) (gen : Bool) (lctx : Nat) : Leads r (execMigration t gen lctx s) := by
  refine leads_guard ?_
  split
  · exact keeps_ite (keeps_migrate h _ _ _) h
  · exact h

theorem leads_execRotLate (h : Keeps r s) (t : Nat) : Leads r (execRotLate t s) := by
  refine leads_guard ?_
  split
  · exact keeps_ite (keeps_raiseInfo (keeps_modTrain h _ _) _) h
  · exact h

theorem leads_execTestComplete (h : Keeps r s) (k : Nat) (x : TestResult) : Leads r (execTestComplete k x s) := by
  refine leads_guard (keeps_ite ?_ h)
  cases x with
  | pass => exact keeps_testPassed h k
  | mismatch => exact keeps_testFailed h k

theorem leads_execSwpStat (h : Keeps r s) (t : Nat) : Leads r (execSwpStat t s) := by
  refine leads_guard (keeps_hostGet h (fun s h => keeps_ite3 ?_ h))
  cases e : s.trainCtlRead t 0x204 false false with
  | none => exact h
  | some p => exact keeps_trainCtlRead_some e h

theorem leads_execStreamerChunk (h : Keeps r s) (t q : Nat) (x : ChunkResponse) : Leads r (execStreamerChunk t q x s) := by
  refine leads_guard ?_
  split
  · exact keeps_ite (keeps_serve h _ _ _ _ _) h
  · exact h

/-! ### Power, reset and the life cycle (spec 15) -/

/-- What an update of the power registers keeps. -/
theorem keeps_power (h : Keeps r s) (p : Power) : Keeps r { s with power := p } := keeps_mk h id id id ⟨rfl, rfl⟩

theorem leads_execRefclkLoss (h : Keeps r s) : Leads r (execRefclkLoss s) :=
  keeps_raise (keeps_forceOutlets (keeps_mk h id (fun _ => rfl) id ⟨rfl, rfl⟩)) _

theorem cut_busy (x : Lcs) (new part : Bool) : (x.cut new part).busy = none := by
  unfold Lcs.cut
  split
  · split <;> rfl
  · rfl
  · next hb => exact hb

/-- A reset that cuts fuse programming leaves none under way. -/
theorem cutFuses_busy (s : State) : s.cutFuses.lcs.busy = none := by
  unfold State.cutFuses
  split
  · next hb => exact Option.isNone_iff_eq_none.mp hb
  · exact cut_busy _ _ _

/-- Completing a partly programmed transition leaves the state or a farther one. -/
theorem code_le_fuseCheck (x : Lcs) : x.st.code ≤ x.fuseCheck.st.code := by
  unfold Lcs.fuseCheck
  split
  · dsimp only
    split
    · omega
    · exact Nat.le_refl _
  · exact Nat.le_refl _

theorem fuseCheck_busy (x : Lcs) : x.fuseCheck.busy = x.busy := by
  unfold Lcs.fuseCheck
  split <;> rfl

theorem leads_execPowerOn (h : Keeps r s) (mv : Nat) : Leads r (execPowerOn mv s) := by
  refine keeps_ite h ?_
  have hc : Keeps r s.cutFuses.draw.2.draw.2 := keeps_draw (keeps_draw (keeps_cutFuses h))
  have hl : Keeps r { s.cutFuses.draw.2.draw.2 with lcs := s.cutFuses.lcs.fuseCheck } :=
    keeps_lcs hc (fun _ => ⟨fun y hy => absurd hy (by simp [fuseCheck_busy, cutFuses_busy]), code_le_fuseCheck _⟩)
  exact keeps_mk hl id (fun _ => rfl) id ⟨rfl, rfl⟩

theorem leads_execPowerOnResetHold (h : Keeps r s) (mv : Nat) : Leads r (execPowerOnResetHold mv s) :=
  keeps_ite (keeps_power (keeps_ite h (keeps_beginReset h _)) _) h

theorem leads_execRetentionEntry (h : Keeps r s) (a : HAcc) : Leads r (execRetentionEntry a s) :=
  keeps_ite (keeps_answer h _) (keeps_answer (keeps_retain h) _)

theorem leads_execRetained (h : Keeps r s) : Leads r (execRetained s) := by
  refine keeps_ite ?_ h
  extract_lets s1 s2
  have h1 : Keeps r s1 := keeps_foldl (fun _ _ h => keeps_modEng h _ _) _ h
  have h2 : Keeps r s2 := keeps_foldl (fun _ _ h => keeps_modPace h _ _) _ (keeps_mk h1 id id id ⟨rfl, rfl⟩)
  exact keeps_ite (keeps_power h2 _) (keeps_ramp h2)

/-- What an update of the lifecycle registers keeps that leaves the state and the transition under way. -/
theorem keeps_lcsNote (h : Keeps r s) (l : Lcs) (hl : l.busy = s.lcs.busy ∧ l.st = s.lcs.st) : Keeps r { s with lcs := l } :=
  keeps_mk h id id id hl

theorem leads_execWakeComplete (h : Keeps r s) : Leads r (execWakeComplete s) := by
  have h1 : Keeps r (if s.lcs.sealLost then { s.wipeSealed with lcs := { s.lcs with sealLost := false } } else s) :=
    keeps_ite (keeps_mk (keeps_wipeSealed h) id id id ⟨rfl, rfl⟩) h
  exact keeps_ite (keeps_power (keeps_foldl (fun _ _ h => keeps_modSwp (keeps_modPace h _ _) _ _) _ h1) _) h

theorem leads_execTamper (h : Keeps r s) : Leads r (execTamper s) := by
  refine keeps_raise (keeps_lcsNote h _ ?_) _
  exact ⟨rfl, rfl⟩

theorem leads_execSealWipe (h : Keeps r s) : Leads r (execSealWipe s) :=
  keeps_ite (keeps_foldl (fun _ _ h => keeps_raiseLow h _) _ (keeps_mk (keeps_wipeSealed h) id id id ⟨rfl, rfl⟩)) h

theorem leads_execFuseProgrammed (h : Keeps r s) (time : Word64) : Leads r (execFuseProgrammed time s) := by
  unfold execFuseProgrammed
  split
  · exact keeps_lcs h (fun _ => ⟨(fun _ hy => by cases hy), Nat.le_refl _⟩)
  · next st hb =>
    have hl : Keeps r { s with lcs := { s.lcs with busy := none, st := st } } :=
      keeps_lcs h (fun hf => ⟨(fun _ hy => by cases hy), Nat.le_of_lt (hf st hb)⟩)
    exact keeps_power (keeps_beginReset hl _) _
  · exact h

/-! ### The regulator, the upgrade and debug (specs 08, 13, 14) -/

theorem leads_execAdmission (h : Keeps r s) (img : List Byte) (err : Option Nat) : Leads r (execAdmission img err s) := by
  refine keeps_ite h ?_
  split
  · exact keeps_readImage h _ _
  · exact keeps_readImage h _ _
  · exact h

theorem leads_execServiceTick (h : Keeps r s) : Leads r (execServiceTick s) := by
  unfold execServiceTick
  split
  · exact keeps_ite (keeps_service h _) h
  · exact h

theorem leads_execHaltTake (h : Keeps r s) (k : Nat) : Leads r (execHaltTake k s) := by
  refine leads_guard ?_
  split
  · exact keeps_takeHalt h _ _
  · exact h

theorem leads_execTracePortDrain (h : Keeps r s) : Leads r (execTracePortDrain s) := by
  refine keeps_ite h ?_
  split
  · exact h
  · exact keeps_roomBack (keeps_modDbg h _)

theorem leads_execDebugAccessDone (h : Keeps r s) (timeout : Bool) : Leads r (execDebugAccessDone timeout s) := by
  unfold execDebugAccessDone
  split
  · exact keeps_ite h (keeps_dbgDone h _ _)
  · exact h

/-! ### The host port (specs 16, 17) -/

theorem leads_execHostRegWrite (h : Keeps r s) (off : Nat) (v : Word) (a : HAcc) : Leads r (execHostRegWrite off v a s) :=
  keeps_ite (keeps_answer h _) (keeps_answer (keeps_hostWrite h _ _ _ _) _)

theorem leads_execHostWindowAccess (h : Keeps r s) (off : Nat) (wr : Bool) (strb : BitVec 16) (data : BitVec 128) (a : WinAcc)
    (size : Nat) : Leads r (execHostWindowAccess off wr strb data a size s) := by
  have hbad : Keeps r (if wr then s.answer 2 else s.answerBeat 0 2) := keeps_ite (keeps_answer h _) (keeps_answerBeat h _ _)
  refine keeps_ite hbad (keeps_ite (keeps_ite hbad (keeps_ite ?_ ?_)) (keeps_ite ?_ ?_))
  · exact keeps_answer (keeps_hostWrite h _ _ _ _) _
  · exact keeps_answerBeat (keeps_hostRead h _ _) _ _
  · exact keeps_answer (keeps_windowWrite h _ _ _ _) _
  · exact keeps_answerBeat (keeps_windowRead h _ _) _ _

/-! ### The dispatch -/

theorem keeps_shBody (op : ShOp) (a : ShAmt) (w : Who) (c : Ctx) (h : Keeps r s) : Keeps r (shBody op a s w c).state := by
  unfold shBody
  cases a with
  | imm => exact keeps_dataBody 1 1 1 _ w c h
  | byT => exact keeps_dataBody 2 1 1 _ w c h

/-- Every command keeps what `Keeps` names. -/
theorem leads_exec (h : Keeps r s) (i : Instr) : Leads r (exec i s) := by
  cases i with
  | lit | litx | qsh | qldh | qst | qld | auxPush | auxPop | auxExchange | evtPend =>
    exact leads_runInstr (fun _ => keeps_stackBody (fun _ _ _ h => h) _ _ _) h
  | ldk => exact leads_runInstr (fun _ => keeps_ldkBody _) h
  | dup | drop | swap | overS | nip | tuck | rot | minusRot | twoDup | twoDrop | twoSwap | twoOver =>
    exact leads_runInstr (fun _ => keeps_shuffleBody _ _ _) h
  | toR => exact leads_runInstr (fun _ => keeps_toRBody) h
  | rFrom | rFetch | rdrop => exact leads_runInstr (fun _ => keeps_fromRBody _ _) h
  | pick => exact leads_runInstr (fun _ => keeps_pickBody _) h
  | poke => exact leads_runInstr (fun _ => keeps_pokeBody _) h
  | add | adc | sub | sbc | rsub | neg | cmp | tst | and | or | xor | andn | not | inc | dec | min | max | minu | maxu
  | abs | sel => exact leads_runInstr (fun _ => keeps_aluBody _) h
  | adds | subs | negs | abss | clamp | shls => exact leads_runInstr (fun _ => keeps_satBody _) h
  | shl | shr | sar | ror | sarr => exact leads_runInstr (fun _ => keeps_shBody _ _) h
  | mul | mulh | mulhu | muld | muldu | mulfr => exact leads_runInstr (fun _ => keeps_mulBody _) h
  | divs | divu => exact leads_runInstr (fun _ => keeps_divBody _ _) h
  | mac | msu | mpy | mack => exact leads_runInstr (fun _ => keeps_macBody _ _ _) h
  | qclr | qsat | nop | trap | evtAck => exact leads_runInstr (fun _ _ _ h => h) h
  | qrd | qrdc => exact leads_runInstr (fun _ => keeps_qrdBody _) h
  | xmac | xmsu | xmacr | xsig => exact leads_runInstr (fun _ => keeps_xmacBody _ _) h
  | bfx | bfxs | bfi | clz | cls | popc | brev | perm => exact leads_runInstr (fun _ => keeps_bitBody _) h
  | loadViaA | loadWithOffset => exact leads_runInstr (fun _ => keeps_loadBody _ _ _ _ _) h
  | storeViaA | storeWithOffset => exact leads_runInstr (fun _ => keeps_storeBody _ _ _) h
  | jmp => exact leads_runInstr (fun _ => keeps_jmpBody _) h
  | bcc | tz => exact leads_runInstr (fun _ => keeps_bccBody _ _) h
  | call => exact leads_runInstr (fun _ => keeps_callBody _ _) h
  | callt => exact leads_runInstr (fun _ => keeps_calltBody _) h
  | jmpt => exact leads_runInstr (fun _ => keeps_jmptBody) h
  | ret => exact leads_runInstr (fun _ => keeps_retBody) h
  | reti => exact leads_runInstr (fun _ => keeps_retiBody) h
  | yield => exact leads_runInstr (fun _ => keeps_yieldBody) h
  | wait => exact leads_execWait h _
  | sync => exact leads_runInstr (fun _ => keeps_syncBody) h
  | lock => exact leads_execLock h _ _
  | lockTrunc => exact leads_execLockTrunc h _
  | rep => exact leads_runInstr (fun _ => keeps_repBody) h
  | bkpt => exact leads_runInstr (fun _ => keeps_bkptBody _) h
  | csrr => exact leads_runInstr (fun _ => keeps_csrrBody _) h
  | csrw | frec => exact leads_runInstr (fun _ => keeps_csrwBody _) h
  | icinv | mactRestart | mactAbandon => exact leads_iteNext (leads_runInstr (fun _ => keeps_csrwBody _) h) h
  | savem => exact leads_runInstr (fun _ => keeps_savemBody _) h
  | loadm => exact leads_runInstr (fun _ => keeps_loadmBody _) h
  | move | fill => exact leads_runInstr (fun _ => keeps_moveBody _ _) h
  | inl | inls => exact leads_runInstr (fun _ => keeps_inlBody _ _) h
  | mbPost => exact leads_runInstr (fun _ => keeps_mbPostBody _) h
  | mbTake => exact leads_runInstr (fun _ => keeps_mbTakeBody _) h
  | evtHost => exact leads_execEvtHost h _ _
  | storeRetire => exact leads_engineEvent h (fun _ h => keeps_retireOne h _) _ _
  | fuseeBatch => exact leads_engineEvent h (fun _ h => keeps_runFusee h _ _) _ _
  | icacheFill => exact leads_engineEvent h (fun _ h => keeps_fillLine h _ _ _ _) _ _
  | boundaryLoadResponse => exact leads_execBoundaryLoadResponse h _ _ _
  | boundaryStoreError => exact leads_execBoundaryStoreError h _
  | berrLate => exact leads_execBerrLate h _
  | eventEntry => exact leads_execEventEntry h _
  | budget => exact leads_execBudget h _
  | wdog => exact leads_execWdog h _ _
  | terminalEntry => exact leads_execTerminalEntry h _
  | stopRequest => exact leads_execStopRequest h _
  | contextStop => exact leads_execContextStop h _
  | hang => exact leads_engineEvent h (fun _ h => keeps_raise h _) _ _
  | periodEvent => exact leads_execPeriodEvent h _
  | deadbeatRelease => exact leads_execDeadbeatRelease h _ _
  | releaseLate => exact leads_execReleaseLate h _
  | freeRelease => exact leads_execFreeRelease h _ _
  | eventRelease => exact leads_execEventRelease h _ _
  | commitTick => exact leads_execCommitTick h _
  | sampleRecord => exact leads_guard (keeps_ite (keeps_acceptRecord h _) h)
  | sampleMiss => exact leads_execSampleMiss h _
  | select | inject | calibrate => exact leads_guard (keeps_command h _ _)
  | cvcAccepted | cvcDeferred => exact leads_guard (keeps_cvcReport h _ _)
  | cvcDone => exact leads_guard (keeps_cvcCalibrated h _)
  | cvcError => exact leads_guard (keeps_cvcFailed h _)
  | tripInput | tripBlank => exact leads_guard (keeps_tripChange h (fun _ h => keeps_tripEdge (keeps_modTrip h _ _) _))
  | trpClr => exact keeps_hostDo h (fun _ h => keeps_tripClearWord h _ _) _ _
  | hostEventInput => exact leads_guard (keeps_pendAll h _ _)
  | fwForce => exact leads_guard (keeps_hostDo h (fun _ h => keeps_ite (keeps_fwForce h _ _) h) _ _)
  | chkf => exact keeps_hostDo h (fun _ h => keeps_gfCtl h _) _ _
  | configIntegError => exact leads_guard (keeps_integError h _)
  | parityError => exact keeps_raise h _
  | quenchClose => exact leads_execQuenchClose h _
  | substitutionHandover => exact leads_execSubstitutionHandover h _
  | rotationStep => exact leads_guard (keeps_ite (keeps_rotate h _) h)
  | migration => exact leads_execMigration h _ _ _
  | rotLate => exact leads_execRotLate h _
  | testComplete => exact leads_execTestComplete h _ _
  | retest => exact leads_guard (keeps_hostDo h (fun _ h => keeps_ite (keeps_trbRetest h _ _) h) _ _)
  | standbyTest => exact leads_guard (keeps_ite (keeps_modEng (keeps_enterTest h _) _ _) h)
  | paceWindow => exact leads_guard (keeps_ite (keeps_paceWindow h _ _ _) h)
  | vblkLow => exact keeps_ite (keeps_raiseLow (keeps_power h _) _) (keeps_power h _)
  | railOor => exact leads_guard (keeps_ite (keeps_raise h _) h)
  | retOor => exact keeps_ite (keeps_raiseLow h _) h
  | refclkLoss => exact leads_execRefclkLoss h
  | sweepLine => exact leads_guard (keeps_ite (keeps_sweepLine h _ _ _ _ _) h)
  | eccChk => exact leads_guard (keeps_ite (keeps_eccFail h _ _ _) h)
  | strCmd => exact leads_guard (keeps_hostDo h (fun _ h => keeps_ite (keeps_strPost h _ _ _) h) _ _)
  | streamerChunk => exact leads_execStreamerChunk h _ _ _
  | strQstop => exact leads_guard (keeps_hostDo h (fun _ h => keeps_ite (keeps_strRestart h _ _) h) _ _)
  | tamper => exact leads_execTamper h
  | sealWipe => exact leads_execSealWipe h
  | powerOn => exact leads_execPowerOn h _
  | blockReset => exact keeps_beginReset h _
  | retentionEntry => exact leads_execRetentionEntry h _
  | retained => exact leads_execRetained h
  | retentionWake => exact keeps_hostDo h (fun _ h => keeps_wake h) _ _
  | wakeComplete => exact leads_execWakeComplete h
  | progKey => exact keeps_hostDo h (fun _ h => keeps_progKey h _) _ _
  | toDevelop | toSecured | toScrapped => exact keeps_hostDo h (fun _ h => keeps_lcsTo h _ _ _) _ _
  | toReturned => exact keeps_hostDo h (fun _ h => keeps_toReturned h _ _) _ _
  | fuseProgrammed => exact leads_execFuseProgrammed h _
  | check => exact keeps_hostDo h (fun _ h => keeps_cmdCheck h) _ _
  | load => exact keeps_hostDo h (fun _ h => keeps_cmdLoad h _) _ _
  | abort => exact keeps_hostDo h (fun _ h => keeps_abort h) _ _
  | discard => exact keeps_hostDo h (fun _ h => keeps_cmdDiscard h _) _ _
  | start => exact keeps_hostDo h (fun _ h => keeps_cmdStart h _) _ _
  | admission => exact leads_execAdmission h _ _
  | serviceTick => exact leads_execServiceTick h
  | switch => exact keeps_hostDo h (fun _ h => keeps_cmdSwitch h _) _ _
  | revert => exact keeps_hostDo h (fun _ h => keeps_cmdRevert h _) _ _
  | cancel => exact keeps_hostDo h (fun _ h => keeps_cmdCancel h) _ _
  | complete => exact keeps_hostDo h (fun _ h => keeps_cmdComplete h) _ _
  | setSwitch => exact keeps_ite h (keeps_ite (keeps_moveSet h _ _) (keeps_deferMove h))
  | rmtGstatEsc => exact leads_guard (keeps_hostDo h (fun _ h => keeps_gstatEsc h _) _ _)
  | dialSel => exact leads_guard (keeps_hostDo h (fun _ h => keeps_dialSelect h _ _) _ _)
  | dialSeq => exact leads_guard (keeps_hostGet h (fun _ h => keeps_dialSeq h _ _))
  | fwCap => exact leads_guard (keeps_hostGet h (fun _ h => keeps_ite3 (keeps_fwCapRead h _ _) h))
  | fwCnt => exact leads_guard (keeps_hostGet h (fun _ h => keeps_ite3 (keeps_fwCntRead h _ _) h))
  | swpStat => exact leads_execSwpStat h _
  | escLate => exact keeps_hostGet h (fun _ h => keeps_lateRead h _)
  | blwPace => exact leads_guard (keeps_hostGet h (fun _ h => keeps_ite3 (keeps_blwPace h _ _) h))
  | dbgSkiprel => exact leads_guard (keeps_hostGet h (fun _ h => keeps_ite3 (keeps_skiprelRead h _ _) h))
  | trcRdata => exact keeps_hostGet h (fun _ h => keeps_ite3 (keeps_trcRead h _) h)
  | lnkCtl => exact keeps_hostDo h (fun _ h => keeps_lnkCtl h _) _ _
  | hostRegWrite => exact leads_execHostRegWrite h _ _ _
  | hostWindowAccess => exact leads_execHostWindowAccess h _ _ _ _ _ _
  | hostWindowTimeout => exact keeps_answer h _
  | idcode | bypass | daddr | ddata | tapReset => exact keeps_modTap h _
  | debugAccessDone => exact leads_execDebugAccessDone h _
  | halt => exact leads_guard (keeps_hostDo h (fun _ h => keeps_cmdHalt h _) _ _)
  | haltTake => exact leads_execHaltTake h _
  | resume => exact leads_guard (keeps_hostDo h (fun _ h => keeps_cmdResume h _) _ _)
  | step => exact leads_guard (keeps_hostDo h (fun _ h => keeps_cmdStep h _) _ _)
  | stim => exact leads_guard (keeps_hostDo h (fun _ h => keeps_stimWrite h _ _ _) _ _)
  | traceSync => exact keeps_ite (keeps_modDbg (keeps_emit h _) _) h
  | linkTxFrame => exact keeps_ite (keeps_ite (keeps_linkSend (keeps_modLink h _)) (keeps_modLink h _)) h
  | linkRxFrame => exact keeps_ite h (keeps_ite (keeps_linkReceive h _) (keeps_raiseInfo h _))
  | lnkLoss => exact keeps_ite (keeps_raise h _) h
  | boundaryStoreResponse => exact leads_engineEvent h (fun _ h => keeps_modEng h _ _) _ _
  | undefinedEncoding => exact leads_iteNext (leads_runInstr (fun _ _ _ h => h) h) h
  | resetRelease => exact keeps_ite h (keeps_power h _)
  | powerOnResetHold => exact leads_execPowerOnResetHold h _
  | masterCopyLoad => exact leads_execMasterCopyLoad h _
  | tracePortDrain => exact leads_execTracePortDrain h

end Sys2Proof.Machine
end

section
/-! SAFE ends only through a reset (spec 12 R323): what the edge of a tick leaves of the power registers, so that a tick of a READY
block takes no step of the reset sequence, what it keeps, and the refusal of START in SAFE. -/

namespace Sys2Proof.Machine
variable {r s : State}

/-! ### The edge of a tick leaves the power registers

READY falls by a command alone. -/

theorem foldl_power {α : Type} {f : State → α → State} (hf : ∀ s a, (f s a).power = s.power) (l : List α) (s : State) :
    (l.foldl f s).power = s.power := by
  induction l generalizing s with
  | nil => rfl
  | cons a l ih => exact (ih (f s a)).trans (hf s a)

theorem ite_power {c : Prop} [Decidable c] {a b : State} (ha : a.power = s.power) (hb : b.power = s.power) :
    (if c then a else b).power = s.power := by
  split <;> assumption

theorem raiseInfo_power (s : State) (ev : Ev) : (s.raiseInfo ev).power = s.power := by
  obtain ⟨f, n, h⟩ := raiseInfo_same s ev
  rw [h]

theorem noteWord_power (s : State) (a : Nat) : (s.noteWord a).power = s.power := by
  refine ite_power ?_ rfl
  dsimp only
  split
  · exact (raiseInfo_power _ _).trans (raiseInfo_power _ _)
  · exact raiseInfo_power _ _

theorem dialWord_power (s : State) (d : Dial) (i : Nat) : (s.dialWord d i).2.power = s.power := by
  unfold State.dialWord
  split
  · split
    · unfold State.pubRead
      dsimp only
      split
      · exact ite_power (noteWord_power _ _) rfl
      · rfl
    · rfl
  · rfl

theorem dialWords_power (s : State) (d : Dial) (n : Nat) : (s.dialWords d n).2.power = s.power := by
  induction n with
  | zero => rfl
  | succ n ih => exact (dialWord_power _ d n).trans ih

theorem takeSnapshot_power (s : State) (n : Nat) : (s.takeSnapshot n).power = s.power := by
  unfold State.takeSnapshot
  dsimp only
  split
  · exact dialWords_power s _ 14
  · rfl

theorem record_power (s : State) (ev : Ev) : (s.record ev).power = s.power := ite_power (s := s) rfl rfl

theorem sendStop_power (s : State) (k : Nat) : (s.sendStop k).power = s.power := modEng_power _ _ _

theorem overrideAll_power (s : State) : s.overrideAll.power = s.power := foldl_power (fun _ _ => modOut_power _ _ _) _ _

theorem undoSub_power (s : State) (t : Nat) (u : Subst) : (s.undoSub t u).power = s.power := ite_power rfl (ite_power rfl rfl)

theorem stopSubs_power (s : State) (t : Nat) : (s.stopSubs t).power = s.power :=
  ite_power (foldl_power (fun s u => undoSub_power s t u) _ s) rfl

theorem safeReact_power (s : State) (w src : Nat) (integ : Bool) : (s.safeReact w src integ).power = s.power := by
  refine ite_power rfl ?_
  refine (foldl_power stopSubs_power _ _).trans ?_
  refine (foldl_power sendStop_power _ _).trans ?_
  exact overrideAll_power _

theorem holdSome_power (s : State) : s.holdSome.power = s.power := foldl_power (fun _ _ => ite_power (modTrain_power _ _ _) rfl) _ _

theorem degradeAct_power (s : State) (ev : Ev) : (s.degradeAct ev).power = s.power :=
  ite_power rfl (ite_power rfl (ite_power rfl (ite_power (ite_power (holdSome_power _) rfl) rfl)))

theorem raiseLow_power (s : State) (ev : Ev) : (s.raiseLow ev).power = s.power := by
  have hr := record_power s ev
  refine ite_power rfl (ite_power hr ?_)
  split
  · exact (degradeAct_power _ ev).trans hr
  · exact (safeReact_power _ _ _ _).trans hr
  · exact hr

theorem raiseSubst_power (s : State) : s.raiseSubst.power = s.power :=
  foldl_power (fun _ _ => foldl_power (fun _ _ => raiseLow_power _ _) _ _) _ _

theorem endPulses_power (s : State) : s.endPulses.power = s.power := foldl_power (fun _ _ => modOut_power _ _ _) _ _

theorem safeWrite_power (s : State) : s.safeWrite.power = s.power := by
  unfold State.safeWrite
  split <;> rfl

theorem presentCommands_power (s : State) : s.presentCommands.power = s.power := foldl_power (fun _ _ => modCvc_power _ _ _) _ _

theorem endTick_power (s : State) : s.endTick.power = s.power := by
  refine (foldl_power (fun s p => ?_) _ _).trans (foldl_power (fun _ _ => modFw_power _ _ _) _ _)
  extract_lets m s1
  have h1 : s1.power = s.power := foldl_power (fun _ _ => modMbox_power _ _ _ _) m s
  exact ite_power h1 h1

theorem modLink_power (s : State) (f : Link → Link) : (s.modLink f).power = s.power := rfl

theorem edge_power (s : State) : s.edge.power = s.power := by
  have hs (l : List Nat) : (l.foldl State.takeSnapshot s).power = s.power := foldl_power takeSnapshot_power l s
  unfold State.edge
  rw [endTick_power, modLink_power, raiseSubst_power, presentCommands_power, safeWrite_power, endPulses_power, hs]

/-! ### What a tick keeps -/

theorem keeps_endPulses (h : Keeps r s) : Keeps r s.endPulses :=
  keeps_mk (keeps_foldl (fun _ _ h => keeps_modOut h _ _) _ h) id id id ⟨rfl, rfl⟩

theorem keeps_presentCommands (h : Keeps r s) : Keeps r s.presentCommands :=
  keeps_foldl (fun _ _ h => keeps_modCvc h _ _) _ h

theorem keeps_endTick (h : Keeps r s) : Keeps r s.endTick := by
  refine keeps_foldl (fun s p h => ?_) _ (keeps_foldl (fun _ _ h => keeps_modFw h _ _) _ h)
  extract_lets m s1
  have h1 : Keeps r s1 := keeps_foldl (fun _ _ h => keeps_modMbox h _ _ _) _ h
  exact keeps_ite h1 (keeps_modTrain h1 _ _)

theorem keeps_edge (h : Keeps r s) : Keeps r s.edge := by
  have hs : Keeps r ((List.range 32).foldl State.takeSnapshot s) := keeps_foldl (fun _ _ h => keeps_takeSnapshot h _) _ h
  exact keeps_endTick (keeps_modLink (keeps_raiseSubst (keeps_presentCommands (keeps_safeWrite (keeps_endPulses hs)))) _)

theorem keeps_completeTick (h : Keeps r s) : Keeps r s.completeTick := by
  refine keeps_ite h (keeps_ite (keeps_modUpg h _) ?_)
  exact keeps_mk (keeps_setSlot (keeps_dropRetired (keeps_writeSeverities h _) _) _ _) id id id ⟨rfl, rfl⟩

theorem resetTick_ready (h : s.power.ready = true) : s.resetTick = s := if_pos h

/-- A tick of a READY block: the edge, one more tick of ESC_TIME, a COMPLETE that takes effect, and the events that are due. -/
theorem tick_ready (h : s.power.ready = true) : s.tick =
    let u := { s.edge with time := s.time + 1 }.completeTick
    { u with pending := u.dueNow } := by
  have hr : ({ s.edge with time := s.time + 1 }).resetTick = { s.edge with time := s.time + 1 } :=
    resetTick_ready (by rw [edge_power]; exact h)
  rw [State.tick, hr]

/-- SAFE and the level of `sx_safe_n` under a tick of a READY block. -/
theorem tick_safe (hready : s.power.ready = true) (hsafe : s.gf.safe = true) (hlow : s.pins.safeN = false) :
    s.tick.gf.safe = true ∧ s.tick.pins.safeN = false := by
  have he : Keeps s s.edge := keeps_edge (Keeps.refl s)
  rw [tick_ready hready]
  generalize s.edge = e at he
  have hc := keeps_completeTick (Keeps.refl { e with time := s.time + 1 })
  exact ⟨hc.safe (he.safe hsafe), hc.safeLow (he.safeLow hlow)⟩

/-! ### Every step -/

/-- SAFE and the level of `sx_safe_n` under a step of a READY block: a command keeps them, and a tick does. -/
theorem step_safe {t : State} (hready : s.power.ready = true) (hsafe : s.gf.safe = true) (hlow : s.pins.safeN = false)
    (hstep : step s = .next t) : t.gf.safe = true ∧ t.pins.safeN = false := by
  unfold step at hstep
  split at hstep
  · rw [← Host.Outcome.next.inj hstep]
    exact tick_safe hready hsafe hlow
  · next c l _ =>
    have hk : Leads { s with pending := l } (exec c { s with pending := l }) := leads_exec (Keeps.refl _) c
    rw [hstep] at hk
    exact ⟨hk.safe hsafe, hk.safeLow hlow⟩

/-! ### START in SAFE -/

theorem hostDo_takesWrite {a : HAcc} {off : Nat} (h : s.takesWrite a) (f : State → State) : s.hostDo a off f = (f s).answer 0 := by
  obtain ⟨hok, hready, hprot⟩ := h
  have hbad : s.hostBad a off = false := by
    by_cases hst : s.lcs.st = .secured
    · simp [State.hostBad, hok, hprot hst]
    · simp [State.hostBad, hok, hst]
  simp [State.hostDo, hbad, hready]

theorem rglCmd_idle {f : State → State} {life : Bool} (hop : s.rgl.op = .idle) (hst : s.lcs.st ≠ .scrapped) :
    s.rglCmd life f = f s := by
  simp [State.rglCmd, hop, hst]

/-- A refusal changes the regulator's registers, and reports. -/
theorem rglRefuse_same (s : State) (x : Rfs) : ∃ f n, s.rglRefuse x =
    { s with
      rgl := { s.rgl with op := .idle, done := true, result := 2, sect := BitVec.ofNat 8 x.sect, code := BitVec.ofNat 8 x.code
                          ptr := BitVec.ofNat 32 x.ptr }
      fw := f, freeCtr := n } := raiseInfo_same _ _

theorem start_refused (gen : Bool) (hsafe : s.gf.safe = true) : s.start gen = s.rglRefuse stateRfs := by
  simp [State.start, hsafe]

theorem exec_start_refused {slot : Bool} {a : HAcc} (hsafe : s.gf.safe = true) (hw : s.takesWrite a) (hop : s.rgl.op = .idle)
    (hst : s.lcs.st ≠ .scrapped) : exec (.start slot a) s = .next ((s.rglRefuse stateRfs).answer 0) := by
  show Host.Outcome.next (s.hostDo a 0x1000 (fun s => s.cmdStart slot)) = _
  rw [hostDo_takesWrite hw, State.cmdStart, rglCmd_idle hop hst, start_refused slot hsafe]

/-- Settles O59: no step of a READY block clears SAFE or raises `sx_safe_n`, since every command keeps them (`leads_exec`) and a tick
takes no step of the reset sequence (`tick_safe`); START ends as a refusal. -/
theorem safeEndsOnlyByReset : Obligations.SafeEndsOnlyByReset := by
  unfold Obligations.SafeEndsOnlyByReset
  intro s t hsafe
  refine ⟨fun hlow hready hstep => step_safe hready hsafe hlow hstep, fun slot a hw hop hst hx => ?_⟩
  rw [exec_start_refused hsafe hw hop hst] at hx
  obtain ⟨f, n, hr⟩ := rglRefuse_same s stateRfs
  rw [hr] at hx
  cases hx
  exact ⟨rfl, rfl, rfl, rfl, rfl, rfl⟩

end Sys2Proof.Machine
end
